-- ==== Sys2Proof/Word.lean ====
section
/-! DEFINITION. The word types of the ZN-160 (R12, R13): bytes, 32-bit lane values, 64-bit uniform values. -/
namespace Sys2Proof

/-- A byte of data (R12). -/
abbrev Byte := BitVec 8
/-- A 32-bit vector register of one lane (R13). -/
abbrev W32 := BitVec 32
/-- A 64-bit uniform register, address or instruction word (R12, R13). -/
abbrev W64 := BitVec 64
/-- An entry of an accumulator tile (R83). -/
abbrev W80 := BitVec 80
/-- The 96-bit detail of a trap (R257). -/
abbrev Detail := BitVec 96

end Sys2Proof
end

