-- ==== Sys2Proof/Config.lean ====
section
/-! DEFINITION. What one ZN-160 fixes (R1 to R6), and the values its manual leaves open. An opaque constant has
no body: nothing can be proved of its value, so a claim about it holds for every value. -/
namespace Sys2Proof.Config

/-- R1, R2: package cores. -/
def cores : Nat := 160
/-- R2: granules of eight cores. -/
def granules : Nat := 20
/-- R5: entries of a core's vector register file. -/
def regFile : Nat := 196608
/-- R5, R285: bytes of band scratchpad on a core. -/
def bandPad : Nat := 655360
/-- R2: UALink ports, and lanterns. -/
def ports : Nat := 16
/-- R2: HBM stacks. -/
def hbmStacks : Nat := 12
/-- R6: launch completion counters. -/
def counters : Nat := 4096
/-- R6: hardware launch queues of a partition. -/
def queues : Nat := 64
/-- R281: records a queue holds. -/
def queueDepth : Nat := 256
/-- R332: remote-access channels. -/
def channels : Nat := 4096

/-- DESIGN CHOICE (log 5): the choice the device makes among the outcomes the manual allows, one for each use. -/
opaque freeNat : Nat → Nat
/-- DESIGN CHOICE (log 3): stall cycles that sr.cycle counts beside the issue cycles (R270, R398). -/
opaque freeStall : Nat → W64
/-- DESIGN CHOICE (log 17): what a stage reads where a table address names no HBM stack (R309). -/
opaque freeTable : Nat → W64
/-- DESIGN CHOICE (log 7): the ECDSA root key whose digest is fused (R388, R389). -/
opaque rootEcdsa : Nat × Nat
/-- DESIGN CHOICE (log 7): the LMS root key whose digest is fused (R388, R389). -/
opaque rootLms : List Byte
/-- DESIGN CHOICE (log 7): the fused device secret (R391). -/
opaque deviceSecret : Nat
/-- DESIGN CHOICE (log 7): the private values of the identity pairs that the keeper derives from the device secret, of ECDSA (false)
and of LMS (true); the manual gives no derivation (R391). -/
opaque derive : Nat → Bool → Nat
/-- DESIGN CHOICE (log 7): the numbers that the keeper draws, one for each use (R391). -/
opaque draw : Nat → Nat
/-- DESIGN CHOICE (log 7): the identifier of an LMS key, and the first values of its chains, by its private value. -/
opaque lmsId : Nat → BitVec 128
/-- DESIGN CHOICE (log 7): the first value of a chain of a leaf. -/
opaque lmsStart : Nat → Nat → Nat → BitVec 256
/-- DESIGN CHOICE (log 13): this device's accelerator ID on the fabric (R311, R336). -/
opaque accelId : Nat
/-- DESIGN CHOICE (log 13): the fused device serial (R388). -/
opaque deviceSerial : W64
/-- DESIGN CHOICE (log 13): the fused security version of an image type at manufacture (R388). -/
opaque fusedSvn : Nat → Nat
/-- DESIGN CHOICE (log 13): whether a peer accelerator is a ZN-160 (R205, R313). -/
opaque znPeer : Nat → Bool

end Sys2Proof.Config
end

