-- ==== Sys2Proof/Machine/Crypto.lean ====
section
/-! DEFINITION. The hash and the signature schemes that R389, R391 and R392 name: SHA-384 and SHA-256, ECDSA P-384, and LMS with
LMOTS_SHA256_N32_W4. The manual names them and does not spell them out; they are taken from their standards (PRESUMED; log 7). -/
namespace Sys2Proof.Machine

/-- The bytes of a number, the highest first. -/
def beBytes : Nat → Nat → List Byte
  | 0, _ => []
  | n + 1, x => beBytes n (x / 256) ++ [BitVec.ofNat 8 (x % 256)]

/-- The number that bytes hold, the highest first. -/
def beNat (bs : List Byte) : Nat := bs.foldl (fun a b => 256 * a + b.toNat) 0

/-- The largest number whose k-th power is at most n, found bit by bit from 2^(bits - 1) down. -/
def rootBits (k n : Nat) : Nat → Nat → Nat
  | 0, x => x
  | b + 1, x => rootBits k n b (if (x + 2 ^ b) ^ k ≤ n then x + 2 ^ b else x)

/-- The first 64 bits of the fraction of the k-th root of a number. -/
def rootFrac (k n : Nat) : Nat := rootBits k (n * 2 ^ (64 * k)) 69 0 % 2 ^ 64

/-- The first 80 primes. -/
def primes : List Nat := (List.range 410).filter (fun n => decide (2 ≤ n) && (List.range 21).all (fun d => d < 2 || n ≤ d || n % d != 0))

/-- A hash of the SHA-2 family on words of w bits: its initial value, round constants, the rotations of its two large and two small
sums (the last of a small sum is a shift), and the bytes of the length field. -/
structure Sha2 (w : Nat) where
  iv : List (BitVec w)
  ks : List (BitVec w)
  big0 : Nat × Nat × Nat
  big1 : Nat × Nat × Nat
  small0 : Nat × Nat × Nat
  small1 : Nat × Nat × Nat

/-- SHA-256. -/
def sha256H : Sha2 32 where
  iv := (primes.take 8).map (fun p => BitVec.ofNat 32 (rootFrac 2 p / 2 ^ 32))
  ks := (primes.take 64).map (fun p => BitVec.ofNat 32 (rootFrac 3 p / 2 ^ 32))
  big0 := (2, 13, 22)
  big1 := (6, 11, 25)
  small0 := (7, 18, 3)
  small1 := (17, 19, 10)

/-- SHA-384, which is SHA-512 from another initial value, cut short. -/
def sha384H : Sha2 64 where
  iv := ((primes.drop 8).take 8).map (fun p => BitVec.ofNat 64 (rootFrac 2 p))
  ks := primes.map (fun p => BitVec.ofNat 64 (rootFrac 3 p))
  big0 := (28, 34, 39)
  big1 := (14, 18, 41)
  small0 := (1, 8, 7)
  small1 := (19, 61, 6)

/-- A large sum. -/
def bigSum {w : Nat} (r : Nat × Nat × Nat) (x : BitVec w) : BitVec w :=
  x.rotateRight r.1 ^^^ x.rotateRight r.2.1 ^^^ x.rotateRight r.2.2

/-- A small sum. -/
def smallSum {w : Nat} (r : Nat × Nat × Nat) (x : BitVec w) : BitVec w :=
  x.rotateRight r.1 ^^^ x.rotateRight r.2.1 ^^^ (x >>> r.2.2)

/-- The message schedule, the newest word first: n more words. -/
def Sha2.schedule {w : Nat} (h : Sha2 w) : Nat → List (BitVec w) → List (BitVec w)
  | 0, ws => ws
  | n + 1, ws =>
    let at_ := fun k => ws.getD k 0
    h.schedule n ((smallSum h.small1 (at_ 1) + at_ 6 + smallSum h.small0 (at_ 14) + at_ 15) :: ws)

/-- A round: the eight working words, with the constant and the word of the schedule added. -/
def Sha2.round {w : Nat} (h : Sha2 w) (v : List (BitVec w)) (kw : BitVec w) : List (BitVec w) :=
  match v with
  | [a, b, c, d, e, f, g, x] =>
    let t1 := x + bigSum h.big1 e + ((e &&& f) ^^^ (~~~e &&& g)) + kw
    let t2 := bigSum h.big0 a + ((a &&& b) ^^^ (a &&& c) ^^^ (b &&& c))
    [t1 + t2, a, b, c, d + t1, e, f, g]
  | _ => v

/-- The words of some bytes. -/
def hashWords (w : Nat) : Nat → List Byte → List (BitVec w)
  | 0, _ => []
  | n + 1, bs => BitVec.ofNat w (beNat (bs.take (w / 8))) :: hashWords w n (bs.drop (w / 8))

/-- A block of sixteen words goes into the chaining value. -/
def Sha2.block {w : Nat} (h : Sha2 w) (v : List (BitVec w)) (bs : List Byte) : List (BitVec w) :=
  let ws := (h.schedule (h.ks.length - 16) (hashWords w 16 bs).reverse).reverse
  (v.zip ((h.ks.zipWith (· + ·) ws).foldl h.round v)).map (fun x => x.1 + x.2)

/-- The blocks of a message. -/
def Sha2.blocks {w : Nat} (h : Sha2 w) : Nat → List (BitVec w) → List Byte → List (BitVec w)
  | 0, v, _ => v
  | n + 1, v, bs => h.blocks n (h.block v bs) (bs.drop (2 * w))

/-- The hash of a message, n bytes of it. -/
def Sha2.hash {w : Nat} (h : Sha2 w) (n : Nat) (bs : List Byte) : List Byte :=
  let size := 2 * w
  let zeros := (2 * size - (bs.length + 1 + w / 4) % size) % size
  let msg := bs ++ [0x80] ++ List.replicate zeros 0 ++ beBytes (w / 4) (8 * bs.length)
  ((h.blocks (msg.length / size) h.iv msg).flatMap (fun x => beBytes (w / 8) x.toNat)).take n

/-- SHA-256 of a message. -/
def sha256 (bs : List Byte) : List Byte := sha256H.hash 32 bs

/-- SHA-384 of a message (R389). -/
def sha384 (bs : List Byte) : List Byte := sha384H.hash 48 bs

/-! The curve P-384. -/

/-- The prime of the field. -/
def p384 : Nat := 2 ^ 384 - 2 ^ 128 - 2 ^ 96 + 2 ^ 32 - 1

/-- The order of the base point. -/
def n384 : Nat := 0xffffffffffffffffffffffffffffffffffffffffffffffffc7634d81f4372ddf581a0db248b0a77aecec196accc52973

/-- The base point. -/
def g384 : Option (Nat × Nat) := some
  (0xaa87ca22be8b05378eb1c71ef320ad746e1d3b628ba79b9859f741e082542a385502f25dbf55296c3a545e3872760ab7,
   0x3617de4a96262c6f5d9e98bf9292dc29f8f41dbd289a147ce9da3113b5f0b8c00a60b1ce1d7e819d7a431d7c90ea0e5f)

/-- A power modulo m, over the exponent's bits from bit n - 1 down. -/
def powMod (m x e : Nat) : Nat → Nat
  | 0 => 1 % m
  | n + 1 => let y := powMod m x (e / 2) n; if e % 2 = 1 then y * y % m * x % m else y * y % m

/-- The inverse modulo a prime below 2^384. -/
def invMod (m x : Nat) : Nat := powMod m x (m - 2) 384

/-- The sum of two points; none is the point at infinity. -/
def addPoint (a b : Option (Nat × Nat)) : Option (Nat × Nat) :=
  match a, b with
  | none, _ => b
  | _, none => a
  | some (x1, y1), some (x2, y2) =>
    if x1 = x2 ∧ (y1 ≠ y2 ∨ y1 = 0) then none else
    let s := if x1 = x2 then (3 * x1 * x1 + p384 - 3) % p384 * invMod p384 (2 * y1 % p384) % p384
      else (y2 + p384 - y1) % p384 * invMod p384 ((x2 + p384 - x1) % p384) % p384
    let x := (s * s + 2 * p384 - x1 - x2) % p384
    some (x, (s * ((x1 + p384 - x) % p384) + p384 - y1) % p384)

/-- A multiple of a point, over the factor's bits. -/
def mulPoint (p : Option (Nat × Nat)) : Nat → Nat → Option (Nat × Nat)
  | 0, _ => none
  | n + 1, k =>
    let q := mulPoint p n (k / 2)
    let d := addPoint q q
    if k % 2 = 1 then addPoint d p else d

/-- Whether an ECDSA P-384 signature, r and s, of a message's SHA-384 digest verifies under a public key (R389). -/
def ecdsaVerifies (key : Nat × Nat) (msg : List Byte) (r s : Nat) : Bool :=
  let w := invMod n384 s
  let at_ := addPoint (mulPoint g384 384 (beNat (sha384 msg) * w % n384)) (mulPoint (some key) 384 (r * w % n384))
  decide (0 < r) && decide (r < n384) && decide (0 < s) && decide (s < n384) && (match at_ with
    | none => false
    | some (x, _) => x % n384 == r)

/-- The public key of a private one. -/
def ecdsaPublic (d : Nat) : Nat × Nat := (mulPoint g384 384 d).getD (0, 0)

/-- The ECDSA P-384 signature of a message with a private key and a fresh number k. -/
def ecdsaSign (d k : Nat) (msg : List Byte) : Nat × Nat :=
  let r := (ecdsaPublic k).1 % n384
  (r, invMod n384 k * ((beNat (sha384 msg) + r * d) % n384) % n384)

/-! LMS with SHA-256 and 67 one-time chains of 15 steps (W = 4). -/

/-- Hash a chain's value on from one step to another. -/
def lmsChain (id : List Byte) (leaf i : Nat) : Nat → Nat → List Byte → List Byte
  | 0, _, x => x
  | n + 1, from_, x => lmsChain id leaf i n (from_ + 1) (sha256 (id ++ beBytes 4 leaf ++ beBytes 2 i ++ beBytes 1 from_ ++ x))

/-- The 67 digits that sign a message: those of its hash, and of their checksum. -/
def lmsDigits (id : List Byte) (leaf : Nat) (c msg : List Byte) : List Nat :=
  let digits : List Byte → List Nat := fun bs => bs.flatMap (fun b => [b.toNat / 16, b.toNat % 16])
  let q := digits (sha256 (id ++ beBytes 4 leaf ++ beBytes 2 0x8181 ++ c ++ msg))
  q ++ (digits (beBytes 2 (q.foldl (fun a d => a + (15 - d)) 0 * 16))).take 3

/-- The hash of a leaf, from the ends of its chains. -/
def lmsLeaf (id : List Byte) (node leaf : Nat) (ends : List (List Byte)) : List Byte :=
  sha256 (id ++ beBytes 4 node ++ beBytes 2 0x8282 ++ sha256 (id ++ beBytes 4 leaf ++ beBytes 2 0x8080 ++ ends.flatten))

/-- The hash of an inner node, from its two children. -/
def lmsInner (id : List Byte) (node : Nat) (l r : List Byte) : List Byte :=
  sha256 (id ++ beBytes 4 node ++ beBytes 2 0x8383 ++ l ++ r)

/-- The root, from a node's hash and the path of its siblings. -/
def lmsClimb (id : List Byte) : List (List Byte) → Nat → List Byte → List Byte
  | [], _, x => x
  | y :: ys, node, x => lmsClimb id ys (node / 2) (if node % 2 = 1 then lmsInner id (node / 2) y x else lmsInner id (node / 2) x y)

/-- Pieces of 32 bytes. -/
def pieces : Nat → List Byte → List (List Byte)
  | 0, _ => []
  | n + 1, bs => bs.take 32 :: pieces n (bs.drop 32)

/-- The type code of a tree's height. -/
def lmsType (height : Nat) : Nat := height / 5 + 4

/-- Whether an LMS signature verifies under a public key of a height (R389). -/
def lmsVerifies (height : Nat) (key msg sig : List Byte) : Bool :=
  let at_ := fun o n => beNat ((sig.drop o).take n)
  let id := (key.drop 8).take 16
  let leaf := at_ 0 4
  let ys := pieces 67 (sig.drop 40)
  let ends := (((lmsDigits id leaf ((sig.drop 8).take 32) msg).zip ys).zipIdx).map (fun x => lmsChain id leaf x.2 (15 - x.1.1) x.1.1 x.1.2)
  sig.length == 2188 + 32 * height && key.length == 56 && beNat (key.take 4) == lmsType height && beNat ((key.drop 4).take 4) == 3
    && at_ 4 4 == 3 && at_ 2184 4 == lmsType height && decide (leaf < 2 ^ height)
    && lmsClimb id (pieces height (sig.drop 2188)) (2 ^ height + leaf) (lmsLeaf id (2 ^ height + leaf) leaf ends) == key.drop 24

/-- A private LMS key: its identifier, and the first values of its leaves' chains. -/
structure LmsKey where
  height : Nat
  id : List Byte
  start : Nat → Nat → List Byte

/-- The hash of a node of a key's tree, n levels over the leaves. -/
def LmsKey.node (k : LmsKey) : Nat → Nat → List Byte
  | 0, r =>
    let leaf := r - 2 ^ k.height
    lmsLeaf k.id r leaf ((List.range 67).map (fun i => lmsChain k.id leaf i 15 0 (k.start leaf i)))
  | n + 1, r => lmsInner k.id r (k.node n (2 * r)) (k.node n (2 * r + 1))

/-- The public key. -/
def LmsKey.root (k : LmsKey) : List Byte := beBytes 4 (lmsType k.height) ++ beBytes 4 3 ++ k.id ++ k.node k.height 1

/-- The LMS signature of a message with a leaf and fresh bytes c. -/
def LmsKey.sign (k : LmsKey) (leaf : Nat) (c msg : List Byte) : List Byte :=
  let ys := (lmsDigits k.id leaf c msg).zipIdx.map (fun x => lmsChain k.id leaf x.2 x.1 0 (k.start leaf x.2))
  let path := (List.range k.height).map (fun n =>
    let r := (2 ^ k.height + leaf) / 2 ^ n
    k.node n (if r % 2 = 1 then r - 1 else r + 1))
  beBytes 4 leaf ++ beBytes 4 3 ++ c ++ ys.flatten ++ beBytes 4 (lmsType k.height) ++ path.flatten

end Sys2Proof.Machine
end

