-- ==== Sys2Proof/Syntax.lean ====
section
/-! DEFINITION. The abstract syntax of Hutal (R16 to R49) and of the package's events: one constructor of Instr for
each row of spec/opcode_table.json. -/
namespace Sys2Proof

/-- A 9-bit operand (R18): a v register, an s register, a latch entry or an inline constant (R19, in table order). -/
inductive Operand where
  | v (n : Fin 256) | s (n : Fin 64) | x (k : Fin 4) | k (c : Fin 16)
deriving DecidableEq, Repr

/-- The element formats, codes 0 to 12 of R46. -/
inductive Fmt where
  | f32 | f16 | bf16 | e4m3 | e5m2 | e3m2 | e2m3 | e2m1 | e8m0 | s32 | u32 | s8 | s4
deriving DecidableEq, Repr

/-- A source field of an F3 word: an operand, a predicate index (R37), a format pair (R46), or unused (zero). -/
inductive Src where
  | none | op (o : Operand) | pred (i : Fin 8) | fmt (d s : Fmt)
deriving DecidableEq, Repr

/-- A guard (R20). The negated always (p7) is reserved. -/
structure Guard where
  neg : Bool
  p : Fin 8
deriving DecidableEq, Repr

/-- A route target (R17): none, A, B or C. -/
inductive Target where
  | none | a | b | c
deriving DecidableEq, Repr

/-- A route modifier (R25): `seg` is the segment code 0 to 6. -/
inductive Route where
  | identity
  | rotate (seg : Fin 7) (d : Fin 64)
  | butterfly (seg : Fin 7) (d : Fin 64)
  | broadcast (seg : Fin 7) (n : Fin 64)
  | indexed (seg : Fin 7) (reg : Fin 64)
  | quad (code : Fin 64)
  | shift (seg : Fin 7) (d : Fin 64)
deriving DecidableEq, Repr

/-- An F3 word (R17). `rnd`, `sat` and `ext` are the modifier field of R22, zero in a three-source word. -/
structure F3 where
  dst : Fin 256
  nwb : Bool
  a : Src
  b : Src
  c : Src
  rnd : Fin 5
  sat : Bool
  ext : Fin 32
  guard : Guard
  target : Target
  route : Route
deriving DecidableEq, Repr

/-- An FI word (R17) with an operand in A. -/
structure FI where
  dst : Fin 256
  nwb : Bool
  a : Operand
  guard : Guard
  imm : W32
deriving DecidableEq, Repr

/-- MOVI (R110): `sel` is the A field, 0 to 2. -/
structure FMovi where
  dst : Fin 256
  nwb : Bool
  sel : Fin 3
  guard : Guard
  imm : W32
deriving DecidableEq, Repr

/-- The near spaces of R178. -/
inductive Space where
  | spill | band | die
deriving DecidableEq, Repr

/-- An FM word (R17): `size` is the size code 0 to 4, `acq` and `rel` the order hint. -/
structure FM where
  data : Fin 256
  base : Operand
  size : Fin 5
  space : Space
  guard : Guard
  acq : Bool
  rel : Bool
  offset : BitVec 26
deriving DecidableEq, Repr

/-- An FB word (R17, R41): `operand` is `none` where the opcode uses none. -/
structure FB where
  u : Bool
  aux : Fin 16
  guard : Guard
  operand : Option Operand
  offset : W32
deriving DecidableEq, Repr

/-- The F3 opcodes of R38 to R42. -/
inductive F3Op where
  | iadd | iaddc | isub | isubb | imul | imulh | imulhu | imad | imadw | iadd64 | ineg | iabs | imin | imax
  | iminu | imaxu | and | or | xor | andn | not | shl | shr | sar | rotl | funnel | bfx | bfxu | bfi | popc
  | clz | brev | icmp | sel | mov | lea | lstk | dot4i8 | dot4i8Sat | dot8i4 | dot8i4Sat | pand | por | pxor
  | pnot | pmov | fadd | fsub | fmul | fmin | fmax | fabs | fneg | fcmp | fclass | frnd | fscale | fexpn | hadd2
  | hmul2 | fcvt | qcvt | scalex | i2f | f2i | ffmaRne | ffmaRz | ffmaRd | ffmaRu | hfma2F16Rne | hfma2F16Rz
  | hfma2F16Rd | hfma2F16Ru | hfma2Bf16Rne | hfma2Bf16Rz | hfma2Bf16Rd | hfma2Bf16Ru | fdot2F16Rne | fdot2F16Rz
  | fdot2F16Rd | fdot2F16Ru | fdot2Bf16Rne | fdot2Bf16Rz | fdot2Bf16Rd | fdot2Bf16Ru | rcp | rsq | sqrt | exp2
  | log2 | sin | cos | tanh | sigm | erf | qswap | qbcst | vote | ballot | lanemask | racq | rrel
deriving DecidableEq, Repr

/-- The pair halves of R48. -/
inductive PairOp where
  | iadd | isub | imul | imin | imax | iminu | imaxu | and | or | xor | andn | shl | shr | sar | mov | fadd
  | fsub | fmul | fmin | fmax | hadd2F16 | hmul2F16 | hadd2Bf16 | hmul2Bf16 | fabs | fneg | sIadd | sIsub | sAnd
  | sOr | sXor | sShl | sShr | sMov
deriving DecidableEq, Repr

/-- A pair half (R32): `p` is the guard predicate, 7 meaning always; `route` the short route of R33. -/
structure Half where
  dst : Fin 256
  src : Operand
  p : Fin 8
  route : Fin 16
deriving DecidableEq, Repr

/-- An FX word's two routes (R17). -/
structure FX where
  route2 : Route
  target2 : Target
  route3 : Route
  target3 : Target
deriving DecidableEq, Repr

/-- The scopes of PHASE (R43, R195). -/
inductive Scope where
  | gang | die | dev | pod | sys
deriving DecidableEq, Repr

/-- The engine paths of R194. -/
inductive Path where
  | lane | copy | chain | matrix | coll
deriving DecidableEq, Repr

/-- The system registers of R270. -/
inductive SysReg where
  | tcause | tdet0 | tdet1 | tdet2 | trappc | tresume | flags | rsseed | hangk | lane | helper | weft | width
  | bandx | bandy | bandz | gangpos | core | ctx | part | bkey | wlast | cycle
deriving DecidableEq, Repr

/-- Operation of the near and far atomics (R192, R224). -/
inductive AtomOp where
  | add | fadd | min | max | and | or | xor | xchg | cas | inc
deriving DecidableEq, Repr

/-- ITSET (R213): the part and, for a dimension, its number. -/
inductive ItPart where
  | base | hdr | dim (k : Fin 12) | clr
deriving DecidableEq, Repr

/-- One operation of a CHAIN list (R225), its three fields as the literal word holds them. -/
structure ChainOp where
  op : Fin 64
  x : Fin 8
  aux : Fin 8
deriving DecidableEq, Repr

/-- CHAIN (R225), with the two literal words as they stand (R45). -/
structure FChain where
  ctr : Fin 64
  out : Fin 16
  in0 : Fin 16
  in1 : Option (Fin 16)
  in2 : Option (Fin 16)
  ks : Fin 64
  sat : Bool
  guard : Guard
  l0 : W64
  l1 : W64
deriving DecidableEq, Repr

/-- FLOAD and FSTORE (R223): `size` is the code 0 to 5. -/
structure FFar where
  dst : Fin 256
  a : Operand
  b : Operand
  size : Fin 6
  ctr : Option (Fin 64)
  guard : Guard
deriving DecidableEq, Repr

/-- FATOM (R224). -/
structure FFatom where
  dst : Fin 256
  a : Operand
  b : Operand
  op : AtomOp
  w64 : Bool
  nr : Bool
  ctr : Option (Fin 64)
  guard : Guard
deriving DecidableEq, Repr

/-- Scale modes of a weight tile image (R229). -/
inductive ScaleMode where
  | none | fs | mx
deriving DecidableEq, Repr

/-- MEPI (R243): the optional operands stand exactly when their suffix is given; `row0` is in units of 16 rows. -/
structure FMepi where
  wit : Option (Fin 64)
  out : Fin 16
  bias : Option (Fin 64)
  clamp : Option (Fin 64)
  tile : Fin 4
  rnd : Fin 4
  sat : Bool
  row0 : Fin 8
  guard : Guard
deriving DecidableEq, Repr

/-- MRD (R244). -/
structure FMrd where
  dst : Fin 256
  a : Operand
  b : Operand
  tile : Fin 4
  raw : Bool
  rnd : Fin 4
  sat : Bool
  guard : Guard
deriving DecidableEq, Repr

/-- WRED (R246): `wit` is the even register of the witness address and the witness space code. -/
structure FWred where
  ctr : Fin 64
  out : Fin 16
  inp : Fin 16
  wit : Option (Fin 32 × Fin 3)
  op : Fin 5
  last : Bool
  bound : Fin 64
  guard : Guard
deriving DecidableEq, Repr

/-- ADJB (R253): `wit` is half the number of the even register of the witness address. -/
structure FAdjb where
  ctr : Fin 64
  grad : Fin 16
  up : Fin 16
  wit : Fin 32
  acc : Bool
  space : Fin 3
  guard : Guard
deriving DecidableEq, Repr

/-- TCOPYC (R343): `desc` is half the number of the even register sG. -/
structure FTcopyc where
  ctr : Fin 64
  dst : Fin 16
  src : Fin 16
  desc : Fin 32
  op : Fin 9
  wit : Option (Fin 64)
  guard : Guard
deriving DecidableEq, Repr

/-- MFSR (R271): the three destinations. -/
inductive MfsrDst where
  | v32 (n : Fin 256) | v64 (n : Fin 128) | s (n : Fin 64)
deriving DecidableEq, Repr

/-- PPOINT (R297): the two ranges in 64-byte units and the live bitmap; `ignored` is the ignored field of the literal. -/
structure FPpoint where
  start0 : BitVec 14
  len0 : BitVec 14
  live : W32
  start1 : BitVec 14
  len1 : BitVec 14
  ignored : BitVec 4
deriving DecidableEq, Repr

/-- The keeper's registers and the host-visible ones without code access (R283, R296, R310, R318, R328, R330, R332,
R340, R364 to R370, R372, R375, R378, R380, R381, R390, R394, R395, R397). -/
inductive KReg where
  | psched (part : Nat) | psave (part : Nat) | pseg (part : Nat) | hbmdl (part : Nat)
  | bucket (part port : Nat) | tokens (part port : Nat)
  | pexport | xlcmd (die dbl : Nat) | xlstat (die : Nat)
  | ptmo (port : Nat) | pberr (port : Nat) | plink (port : Nat)
  | pbeacon | errcnt (unit index : Nat) | pscrub (unit : Nat) | mdcnt (requester : Nat) | hbmret (stack : Nat)
  | palloc (stack : Nat) | pallocst (stack : Nat)
  | evbase | evseq | evack | evlost | bootst | pwrlim | pwrstat | ptherm (die : Nat)
deriving DecidableEq, Repr

/-- What comes back from outside the package for a far request (R313, R314, R328): nothing for a request performed
on this device; data of a host or peer; a UALink status of a peer of another make; the fault a ZN-160 owner reports, with the rights that its segment stage grants. -/
inductive FarAnswer where
  | here
  | data (bs : List Byte)
  | unsupported
  | aborted
  | poisoned
  | ownerFault (group reason stage rights : Nat)
deriving DecidableEq, Repr

/-- A host IOMMU's answer to an ATS Translation Request (R314): the translated page and the access kinds that it grants, one bit
for each code. -/
inductive AtsAnswer where
  | granted (page kinds : Nat)
  | noPermission | notPresent | error
deriving DecidableEq, Repr

/-- A request of the lantern to the beacon (R339): a COLL's, by its ticket, or a COLLC's. -/
inductive LanternReq where
  | coll (ctx : Nat) | collc
deriving DecidableEq, Repr

/-- Who asks the beacon for the number of a key (R337): a partition of an accelerator; and off the beacon the number that the
beacon has told. -/
structure KeyAsk where
  part : Nat
  told : Option (BitVec 48)
deriving DecidableEq, Repr

/-- What lands at an engine (R205, R218): a work of those that its command has left, or the answer to one of its far requests. -/
inductive Landing where
  | work (n : Nat) | answer (req : Nat) (ans : FarAnswer)
deriving DecidableEq, Repr

/-- What leaves a port (R327, R331): a request of this device or a response to a peer's; a message of a collective that a rank of
this device has started; or a message of the beacon. -/
inductive Egress where
  | req (id : Nat) | coll (number : BitVec 48) (part bytes : Nat) | beacon (bytes : Nat)
deriving DecidableEq, Repr

/-- How an engine command or a collective's transfer ends in error (R217, R343, R362, R379): by itself, by a peer's answer to a
request, for a collective by what its port meets, or by an uncorrected error. -/
inductive EngineErr where
  | own | answer (req : Nat) (ans : FarAnswer) | peerTimeout (port : Nat) | portDown (port : Nat) | completer (port : Nat) | poisoned (port : Nat)
  | uncorrected (unit event : Nat)
deriving DecidableEq, Repr

/-- A member of a communicator (R336): accelerator ID and partition. -/
structure Member where
  acc : Nat
  part : Nat
deriving DecidableEq, Repr

/-- What the keeper gives when it creates a context (R294, R309, R182, R250, R184, R179). -/
structure CtxSpec where
  ctx : Nat
  part : Nat
  cseg : Nat
  textLen : Nat
  roLen : Nat
  dies : List Nat
  sliceBytes : Nat
  spillReserve : Nat
  bkey : W64
  serial : W64
  image : List Byte
deriving DecidableEq, Repr

/-- What the keeper gives when it forms a partition (R3, R280, R267). -/
structure PartSpec where
  part : Nat
  granules : List Nat
  debug : Bool
deriving DecidableEq, Repr

/-- A far request that arrives over UALink (R397); `urgent`: on virtual channel 2 (R371). -/
structure Inbound where
  src : Nat
  label : Nat
  addr : W64
  kind : Nat
  op : AtomOp
  data : List Byte
  len : Nat
  port : Nat
  urgent : Bool
deriving DecidableEq, Repr

/-- One instruction or event: a constructor for each row of spec/opcode_table.json, in the table's order. -/
inductive Instr where
  /-- IADD (R103): 32-bit integer add, wrapping or saturating with .sat. -/
  | iadd (f : F3)
  /-- IADDC (R104): 32-bit add with carry in and carry out through a predicate. -/
  | iaddc (f : F3)
  /-- ISUB (R103): 32-bit integer subtract, wrapping or saturating. -/
  | isub (f : F3)
  /-- ISUBB (R104): 32-bit subtract with borrow in and borrow out through a predicate. -/
  | isubb (f : F3)
  /-- IMUL (R103): Low 32 bits of an integer product. -/
  | imul (f : F3)
  /-- IMULH (R103): High 32 bits of a signed product. -/
  | imulh (f : F3)
  /-- IMULHU (R103): High 32 bits of an unsigned product. -/
  | imulhu (f : F3)
  /-- IMAD (R103): 32-bit multiply-add, wrapping. -/
  | imad (f : F3)
  /-- IMADW (R105): Signed multiply added to a 64-bit value, writing a register pair. -/
  | imadw (f : F3)
  /-- IADD64 (R105): 64-bit add into a register pair. -/
  | iadd64 (f : F3)
  /-- INEG (R103): Integer negate, wrapping or saturating. -/
  | ineg (f : F3)
  /-- IABS (R103): Integer absolute value, wrapping or saturating. -/
  | iabs (f : F3)
  /-- IMIN (R103): Signed minimum. -/
  | imin (f : F3)
  /-- IMAX (R103): Signed maximum. -/
  | imax (f : F3)
  /-- IMINU (R103): Unsigned minimum. -/
  | iminu (f : F3)
  /-- IMAXU (R103): Unsigned maximum. -/
  | imaxu (f : F3)
  /-- AND (R103): Bitwise AND. -/
  | and (f : F3)
  /-- OR (R103): Bitwise OR. -/
  | or (f : F3)
  /-- XOR (R103): Bitwise XOR. -/
  | xor (f : F3)
  /-- ANDN (R103): A AND NOT B. -/
  | andn (f : F3)
  /-- NOT (R103): Bitwise complement. -/
  | not (f : F3)
  /-- SHL (R103): Logical shift left. -/
  | shl (f : F3)
  /-- SHR (R103): Logical shift right. -/
  | shr (f : F3)
  /-- SAR (R103): Arithmetic shift right. -/
  | sar (f : F3)
  /-- ROTL (R103): Rotate left. -/
  | rotl (f : F3)
  /-- FUNNEL (R103): Funnel shift of two 32-bit values. -/
  | funnel (f : F3)
  /-- BFX (R107): Signed bit-field extract. -/
  | bfx (f : F3)
  /-- BFXU (R107): Unsigned bit-field extract. -/
  | bfxu (f : F3)
  /-- BFI (R107): Bit-field insert. -/
  | bfi (f : F3)
  /-- POPC (R103): Population count. -/
  | popc (f : F3)
  /-- CLZ (R103): Count leading zeros. -/
  | clz (f : F3)
  /-- BREV (R103): Bit reverse. -/
  | brev (f : F3)
  /-- ICMP (R108): Integer compare writing a predicate. -/
  | icmp (f : F3)
  /-- SEL (R108): Select A or B by a predicate. -/
  | sel (f : F3)
  /-- MOV (R109): Copy a source into a v register, v pair or s register. -/
  | mov (f : F3)
  /-- MOVI (R110): Move a 32-bit immediate into a v or s register. -/
  | movi (f : FMovi)
  /-- LEA (R105): 64-bit address: base plus a shifted signed index. -/
  | lea (f : F3)
  /-- LSTK (R111): Compose a far address from segment, region and block labels. -/
  | lstk (f : F3)
  /-- DOT4I8 (R106): Four-element INT8 dot product accumulated with wrap. -/
  | dot4i8 (f : F3)
  /-- DOT4I8_SAT (R106): Four-element INT8 dot product accumulated with a clamp at each step. -/
  | dot4i8Sat (f : F3)
  /-- DOT8I4 (R106): Eight-element INT4 dot product accumulated with wrap. -/
  | dot8i4 (f : F3)
  /-- DOT8I4_SAT (R106): Eight-element INT4 dot product accumulated with a clamp at each step. -/
  | dot8i4Sat (f : F3)
  /-- PAND (R112): Predicate AND. -/
  | pand (f : F3)
  /-- POR (R112): Predicate OR. -/
  | por (f : F3)
  /-- PXOR (R112): Predicate XOR. -/
  | pxor (f : F3)
  /-- PNOT (R112): Predicate NOT. -/
  | pnot (f : F3)
  /-- PMOV (R112): Predicate copy. -/
  | pmov (f : F3)
  /-- IADD_IMM (R113): IADD with a 32-bit immediate (FI 0x038). -/
  | iaddImm (f : FI)
  /-- IMUL_IMM (R113): IMUL with a 32-bit immediate (FI 0x039). -/
  | imulImm (f : FI)
  /-- AND_IMM (R113): AND with an immediate (FI 0x03A). -/
  | andImm (f : FI)
  /-- OR_IMM (R113): OR with an immediate (FI 0x03B). -/
  | orImm (f : FI)
  /-- XOR_IMM (R113): XOR with an immediate (FI 0x03C). -/
  | xorImm (f : FI)
  /-- SHL_IMM (R113): SHL by an immediate 0-31 (FI 0x03D). -/
  | shlImm (f : FI)
  /-- SHR_IMM (R113): SHR by an immediate 0-31 (FI 0x03E). -/
  | shrImm (f : FI)
  /-- SAR_IMM (R113): SAR by an immediate 0-31 (FI 0x03F). -/
  | sarImm (f : FI)
  /-- FADD (R127): FP32 add rounded once under rnd. -/
  | fadd (f : F3)
  /-- FSUB (R127): FP32 subtract. -/
  | fsub (f : F3)
  /-- FMUL (R127): FP32 multiply. -/
  | fmul (f : F3)
  /-- FMIN (R129): FP32 minimumNumber. -/
  | fmin (f : F3)
  /-- FMAX (R129): FP32 maximumNumber. -/
  | fmax (f : F3)
  /-- FABS (R127): Clear the FP32 sign bit. -/
  | fabs (f : F3)
  /-- FNEG (R127): Invert the FP32 sign bit. -/
  | fneg (f : F3)
  /-- FCMP (R130): FP32 compare writing a predicate. -/
  | fcmp (f : F3)
  /-- FCLASS (R131): Classify an FP32 value into a one-hot word. -/
  | fclass (f : F3)
  /-- FRND (R132): Round an FP32 value to an integral value. -/
  | frnd (f : F3)
  /-- FSCALE (R133): Multiply by a power of two. -/
  | fscale (f : F3)
  /-- FEXPN (R133): Extract floor(log2|A|) as an integer. -/
  | fexpn (f : F3)
  /-- HADD2 (R134): Packed FP16 or BF16 add. -/
  | hadd2 (f : F3)
  /-- HMUL2 (R134): Packed FP16 or BF16 multiply. -/
  | hmul2 (f : F3)
  /-- FCVT (R137): Convert between floating-point formats, element by element. -/
  | fcvt (f : F3)
  /-- QCVT (R140): Quantise a block of lanes to an MX element format with a shared scale. -/
  | qcvt (f : F3)
  /-- SCALEX (R141): Compute only the shared E8M0 scale of each block. -/
  | scalex (f : F3)
  /-- I2F (R137): Convert integer elements to floating point. -/
  | i2f (f : F3)
  /-- F2I (R137): Convert floating-point elements to integers. -/
  | f2i (f : F3)
  /-- FFMA_RNE (R127): Fused FP32 multiply-add, round to nearest even. -/
  | ffmaRne (f : F3)
  /-- FFMA_RZ (R127): Fused FP32 multiply-add, round toward zero. -/
  | ffmaRz (f : F3)
  /-- FFMA_RD (R127): Fused FP32 multiply-add, round down. -/
  | ffmaRd (f : F3)
  /-- FFMA_RU (R127): Fused FP32 multiply-add, round up. -/
  | ffmaRu (f : F3)
  /-- HFMA2_F16_RNE (R134): Packed FP16 fused multiply-add, RNE. -/
  | hfma2F16Rne (f : F3)
  /-- HFMA2_F16_RZ (R134): Packed FP16 fused multiply-add, RZ. -/
  | hfma2F16Rz (f : F3)
  /-- HFMA2_F16_RD (R134): Packed FP16 fused multiply-add, RD. -/
  | hfma2F16Rd (f : F3)
  /-- HFMA2_F16_RU (R134): Packed FP16 fused multiply-add, RU. -/
  | hfma2F16Ru (f : F3)
  /-- HFMA2_BF16_RNE (R134): Packed BF16 fused multiply-add, RNE. -/
  | hfma2Bf16Rne (f : F3)
  /-- HFMA2_BF16_RZ (R134): Packed BF16 fused multiply-add, RZ. -/
  | hfma2Bf16Rz (f : F3)
  /-- HFMA2_BF16_RD (R134): Packed BF16 fused multiply-add, RD. -/
  | hfma2Bf16Rd (f : F3)
  /-- HFMA2_BF16_RU (R134): Packed BF16 fused multiply-add, RU. -/
  | hfma2Bf16Ru (f : F3)
  /-- FDOT2_F16_RNE (R135): Two-element FP16 dot product added to FP32, RNE. -/
  | fdot2F16Rne (f : F3)
  /-- FDOT2_F16_RZ (R135): Two-element FP16 dot product added to FP32, RZ. -/
  | fdot2F16Rz (f : F3)
  /-- FDOT2_F16_RD (R135): Two-element FP16 dot product added to FP32, RD. -/
  | fdot2F16Rd (f : F3)
  /-- FDOT2_F16_RU (R135): Two-element FP16 dot product added to FP32, RU. -/
  | fdot2F16Ru (f : F3)
  /-- FDOT2_BF16_RNE (R135): Two-element BF16 dot product added to FP32, RNE. -/
  | fdot2Bf16Rne (f : F3)
  /-- FDOT2_BF16_RZ (R135): Two-element BF16 dot product added to FP32, RZ. -/
  | fdot2Bf16Rz (f : F3)
  /-- FDOT2_BF16_RD (R135): Two-element BF16 dot product added to FP32, RD. -/
  | fdot2Bf16Rd (f : F3)
  /-- FDOT2_BF16_RU (R135): Two-element BF16 dot product added to FP32, RU. -/
  | fdot2Bf16Ru (f : F3)
  /-- FADD_IMM (R127): FP32 add of an FP32 immediate under RNE (FI 0x06C). -/
  | faddImm (f : FI)
  /-- FMUL_IMM (R127): FP32 multiply by an FP32 immediate under RNE (FI 0x06D). -/
  | fmulImm (f : FI)
  /-- RCP (R143): Correctly rounded reciprocal. -/
  | rcp (f : F3)
  /-- RSQ (R143): Correctly rounded reciprocal square root. -/
  | rsq (f : F3)
  /-- SQRT (R143): Correctly rounded square root. -/
  | sqrt (f : F3)
  /-- EXP2 (R143): Correctly rounded 2^x. -/
  | exp2 (f : F3)
  /-- LOG2 (R143): Correctly rounded log2 x. -/
  | log2 (f : F3)
  /-- SIN (R143): Correctly rounded sine. -/
  | sin (f : F3)
  /-- COS (R143): Correctly rounded cosine. -/
  | cos (f : F3)
  /-- TANH (R143): Correctly rounded hyperbolic tangent. -/
  | tanh (f : F3)
  /-- SIGM (R143): Correctly rounded logistic sigmoid. -/
  | sigm (f : F3)
  /-- ERF (R143): Correctly rounded error function. -/
  | erf (f : F3)
  /-- QSWAP (R151): Exchange values within each quad by a pattern. -/
  | qswap (f : F3)
  /-- QBCST (R151): Broadcast one quad lane to its quad. -/
  | qbcst (f : F3)
  /-- VOTE (R153): All, any or uniform vote over the contributing lanes. -/
  | vote (f : F3)
  /-- BALLOT (R154): Write a lane mask of a predicate into an s register. -/
  | ballot (f : F3)
  /-- LANEMASK (R155): Write a mask of lane indices related to the lane's own. -/
  | lanemask (f : F3)
  /-- BRA (R115): Branch by offset in lanes whose guard holds. -/
  | bra (f : FB)
  /-- BRX (R118): Branch to a register target, per weft or per lane. -/
  | brx (f : FB)
  /-- CALL (R116): Branch by offset and write the return address to an s register. -/
  | call (f : FB)
  /-- CALLX (R116): Call a register target and write the return address. -/
  | callx (f : FB)
  /-- RET (R115): Branch to the address held in an s register. -/
  | ret (f : FB)
  /-- RBSET (R123): Arm a reconvergence barrier with members and join address. -/
  | rbset (f : FB)
  /-- RBWAIT (R124): Wait at a reconvergence barrier until all members arrive. -/
  | rbwait (f : FB)
  /-- LOOP (R119): Decrement a counter and branch while it is nonzero. -/
  | loop (f : FB)
  /-- EXIT (R120): Set the guarded lanes to exited. -/
  | exit (f : FB)
  /-- YIELD (R121): Set the yield bit of the guarded lanes. -/
  | yield (f : FB)
  /-- NOP (R121): Do nothing for one issue cycle. -/
  | nop (f : FB)
  /-- LD (R190): Load from spill, band or die scratchpad per lane. -/
  | ld (f : FM)
  /-- ST (R190): Store to spill, band or die scratchpad per lane. -/
  | st (f : FM)
  /-- LDU (R191): Load one value into an s register once per issue. -/
  | ldu (f : FM)
  /-- STU (R191): Store an s register once per issue. -/
  | stu (f : FM)
  /-- AADD (R192): Near atomic add returning the old value. -/
  | aadd (f : FM)
  /-- AFADD (R192): Near atomic FP32 add returning the old value. -/
  | afadd (f : FM)
  /-- AMIN (R192): Near atomic signed minimum. -/
  | amin (f : FM)
  /-- AMAX (R192): Near atomic signed maximum. -/
  | amax (f : FM)
  /-- AAND (R192): Near atomic AND. -/
  | aand (f : FM)
  /-- AOR (R192): Near atomic OR. -/
  | aor (f : FM)
  /-- AXOR (R192): Near atomic XOR. -/
  | axor (f : FM)
  /-- AXCHG (R192): Near atomic exchange. -/
  | axchg (f : FM)
  /-- ACAS (R192): Near atomic compare-and-swap. -/
  | acas (f : FM)
  /-- AINC (R192): Near atomic wrapping increment. -/
  | ainc (f : FM)
  /-- RACQ (R176): Acquire the weft's extended register block or queue for it. -/
  | racq
  /-- RREL (R176): Release the extended register block and grant queued requests. -/
  | rrel
  /-- PHASE (R199): Publish the weft's writes and start a refresh of its snapshot. -/
  | phase (sc : Scope)
  /-- FENCE_X (R204): Order the weft's accesses on two engine paths. -/
  | fenceX (p q : Path)
  /-- BAR (R208): Arrive at a band barrier and park. -/
  | bar (n : Fin 16) (ph : Bool) (g : Guard)
  /-- GBAR (R208): Arrive at a gang barrier and park. -/
  | gbar (n : Fin 4) (ph : Bool) (g : Guard)
  /-- BARA (R208): Arrive at a barrier without waiting and take a generation token. -/
  | bara (dst : Fin 256) (n : Fin 16) (ph gang : Bool) (g : Guard)
  /-- BARW (R208): Wait until a barrier generation has released. -/
  | barw (tok : Operand) (n : Fin 16) (ph gang : Bool) (g : Guard)
  /-- ITSET (R213): Write one part of an iterator record. -/
  | itset (it : Fin 16) (part : ItPart) (a b : Operand) (g : Guard)
  /-- ITLD (R214): Load a whole iterator record from near memory. -/
  | itld (it : Fin 16) (a : Operand) (die : Bool) (g : Guard)
  /-- TCOPY (R221): Queue a copy between two iterator walks. -/
  | tcopy (ctr : Fin 64) (d s : Fin 16) (cls : Bool) (g : Guard)
  /-- FLOAD (R223): Issue per-lane far loads into registers. -/
  | fload (f : FFar)
  /-- FSTORE (R223): Issue per-lane far stores from registers. -/
  | fstore (f : FFar)
  /-- FATOM (R224): Issue per-lane far atomics at home. -/
  | fatom (f : FFatom)
  /-- CWAIT (R219): Wait on or test a completion counter. -/
  | cwait (ctr : Fin 64) (a : Operand) (test : Option (Fin 7)) (g : Guard)
  /-- CADD (R220): Add to a completion counter. -/
  | cadd (ctr : Fin 64) (a : Operand) (g : Guard)
  /-- CSET (R220): Set a completion counter and its err bit. -/
  | cset (ctr : Fin 64) (a : Operand) (g : Guard)
  /-- CHAIN (R225): Queue an elementwise operation list on the chain engine. -/
  | chain (f : FChain)
  /-- FILL (R222): Queue a pattern fill over an iterator walk. -/
  | fill (ctr : Fin 64) (d : Fin 16) (pat : Operand) (w64 : Bool) (g : Guard)
  /-- MLDW (R239): Queue a weight-tile latch load. -/
  | mldw (a : Operand) (fmt : Fmt) (sm : ScaleMode) (mc : Fin 16) (g : Guard)
  /-- MLOOP (R240): Queue activation streaming steps into an accumulator tile. -/
  | mloop (act : Fin 16) (ctl : Fin 32) (scale : Option (Fin 64)) (tile : Fin 4) (mc : Fin 16) (row0 : Fin 128) (g : Guard)
  /-- MWAIT (R241): Wait for matrix commands to complete and raise a matrix fault. -/
  | mwait (tile : Option (Fin 4)) (g : Guard)
  /-- MEPI (R243): Queue conversion of tile rows to scratchpad with bias, clamp and witness. -/
  | mepi (f : FMepi)
  /-- MZERO (R242): Queue clearing of a tile and setting of its mode. -/
  | mzero (tile : Fin 4) (int : Bool) (g : Guard)
  /-- MRD (R244): Read one tile entry per lane into registers. -/
  | mrd (f : FMrd)
  /-- WRED (R247): Queue a witness reduction on the chain engine. -/
  | wred (f : FWred)
  /-- ADJB (R255): Queue an adjoint broadcast through a witness. -/
  | adjb (f : FAdjb)
  /-- RCOPY (R335): Post a remote copy item to a channel. -/
  | rcopy (ctr : Fin 64) (ch : Operand) (d s : Fin 16) (wait : Option (Fin 64)) (g : Guard)
  /-- TCOPYC (R343): Describe the data of a numbered collective. -/
  | tcopyc (f : FTcopyc)
  /-- COLL (R342): Request the beacon number of a collective key. -/
  | coll (dst key : Fin 64) (g : Guard)
  /-- COLLW (R345): Wait for a collective to end at this rank and free its slot. -/
  | collw (dst tk : Fin 64) (g : Guard)
  /-- COLLC (R345): Send a cancel for a collective to the beacon. -/
  | collc (dst tk : Fin 64) (g : Guard)
  /-- MFSR (R271): Read a system register. -/
  | mfsr (d : MfsrDst) (sr : SysReg) (g : Guard)
  /-- MTSR (R271): Write a system register. -/
  | mtsr (w64 : Bool) (a : Operand) (sr : SysReg) (g : Guard)
  /-- ERET (R265): Return handler lanes to the main run at sr.tresume. -/
  | eret
  /-- TRAPI (R266): Raise a software trap, group 17. -/
  | trapi (g : Guard) (imm : W32)
  /-- BKPT (R267): Breakpoint: trap, or stop the band under debug enable. -/
  | bkpt (g : Guard) (imm : W32)
  /-- PPOINT (R298): Pre-emption point that stops the weft when a save is pending. -/
  | ppoint (f : FPpoint)
  /-- LAUNCH (R293): Queue a launch record from near memory. -/
  | launch (dst : Fin 64) (a : Operand) (die : Bool) (g : Guard)
  /-- PROBE (R326): Send a probe along a far address path and report the outcome. -/
  | probe (dst : Fin 64) (a : Operand) (kind : Fin 4) (g : Guard)
  /-- ROUTEX (R28): Prefix adding up to two routes to the following F3 word. -/
  | routex (fx : FX) (op : F3Op) (f : F3)
  /-- PAIR_IADD (R49): Pair half 0x00, acting as IADD. -/
  | pairIadd (h : Half) (op : PairOp) (k : Half)
  /-- PAIR_ISUB (R49): Pair half 0x01, acting as ISUB. -/
  | pairIsub (h : Half) (op : PairOp) (k : Half)
  /-- PAIR_IMUL (R49): Pair half 0x02, acting as IMUL. -/
  | pairImul (h : Half) (op : PairOp) (k : Half)
  /-- PAIR_IMIN (R49): Pair half 0x03, acting as IMIN. -/
  | pairImin (h : Half) (op : PairOp) (k : Half)
  /-- PAIR_IMAX (R49): Pair half 0x04, acting as IMAX. -/
  | pairImax (h : Half) (op : PairOp) (k : Half)
  /-- PAIR_IMINU (R49): Pair half 0x05, acting as IMINU. -/
  | pairIminu (h : Half) (op : PairOp) (k : Half)
  /-- PAIR_IMAXU (R49): Pair half 0x06, acting as IMAXU. -/
  | pairImaxu (h : Half) (op : PairOp) (k : Half)
  /-- PAIR_AND (R49): Pair half 0x07, acting as AND. -/
  | pairAnd (h : Half) (op : PairOp) (k : Half)
  /-- PAIR_OR (R49): Pair half 0x08, acting as OR. -/
  | pairOr (h : Half) (op : PairOp) (k : Half)
  /-- PAIR_XOR (R49): Pair half 0x09, acting as XOR. -/
  | pairXor (h : Half) (op : PairOp) (k : Half)
  /-- PAIR_ANDN (R49): Pair half 0x0A, acting as ANDN. -/
  | pairAndn (h : Half) (op : PairOp) (k : Half)
  /-- PAIR_SHL (R49): Pair half 0x0B, acting as SHL. -/
  | pairShl (h : Half) (op : PairOp) (k : Half)
  /-- PAIR_SHR (R49): Pair half 0x0C, acting as SHR. -/
  | pairShr (h : Half) (op : PairOp) (k : Half)
  /-- PAIR_SAR (R49): Pair half 0x0D, acting as SAR. -/
  | pairSar (h : Half) (op : PairOp) (k : Half)
  /-- PAIR_MOV (R49): Pair half 0x0E, acting as MOV. -/
  | pairMov (h : Half) (op : PairOp) (k : Half)
  /-- PAIR_FADD (R49): Pair half 0x10, acting as FADD under RNE. -/
  | pairFadd (h : Half) (op : PairOp) (k : Half)
  /-- PAIR_FSUB (R49): Pair half 0x11, acting as FSUB under RNE. -/
  | pairFsub (h : Half) (op : PairOp) (k : Half)
  /-- PAIR_FMUL (R49): Pair half 0x12, acting as FMUL under RNE. -/
  | pairFmul (h : Half) (op : PairOp) (k : Half)
  /-- PAIR_FMIN (R49): Pair half 0x13, acting as FMIN. -/
  | pairFmin (h : Half) (op : PairOp) (k : Half)
  /-- PAIR_FMAX (R49): Pair half 0x14, acting as FMAX. -/
  | pairFmax (h : Half) (op : PairOp) (k : Half)
  /-- PAIR_HADD2_F16 (R49): Pair half 0x15, acting as HADD2.f16. -/
  | pairHadd2F16 (h : Half) (op : PairOp) (k : Half)
  /-- PAIR_HMUL2_F16 (R49): Pair half 0x16, acting as HMUL2.f16. -/
  | pairHmul2F16 (h : Half) (op : PairOp) (k : Half)
  /-- PAIR_HADD2_BF16 (R49): Pair half 0x17, acting as HADD2.bf16. -/
  | pairHadd2Bf16 (h : Half) (op : PairOp) (k : Half)
  /-- PAIR_HMUL2_BF16 (R49): Pair half 0x18, acting as HMUL2.bf16. -/
  | pairHmul2Bf16 (h : Half) (op : PairOp) (k : Half)
  /-- PAIR_FABS (R49): Pair half 0x19, acting as FABS. -/
  | pairFabs (h : Half) (op : PairOp) (k : Half)
  /-- PAIR_FNEG (R49): Pair half 0x1A, acting as FNEG. -/
  | pairFneg (h : Half) (op : PairOp) (k : Half)
  /-- PAIR_S_IADD (R48): Pair s form 0x20: 64-bit add on an s register once per weft. -/
  | pairSIadd (h : Half) (op : PairOp) (k : Half)
  /-- PAIR_S_ISUB (R48): Pair s form 0x21: 64-bit subtract on an s register. -/
  | pairSIsub (h : Half) (op : PairOp) (k : Half)
  /-- PAIR_S_AND (R48): Pair s form 0x22: 64-bit AND. -/
  | pairSAnd (h : Half) (op : PairOp) (k : Half)
  /-- PAIR_S_OR (R48): Pair s form 0x23: 64-bit OR. -/
  | pairSOr (h : Half) (op : PairOp) (k : Half)
  /-- PAIR_S_XOR (R48): Pair s form 0x24: 64-bit XOR. -/
  | pairSXor (h : Half) (op : PairOp) (k : Half)
  /-- PAIR_S_SHL (R48): Pair s form 0x25: 64-bit shift left. -/
  | pairSShl (h : Half) (op : PairOp) (k : Half)
  /-- PAIR_S_SHR (R48): Pair s form 0x26: 64-bit shift right. -/
  | pairSShr (h : Half) (op : PairOp) (k : Half)
  /-- PAIR_S_MOV (R48): Pair s form 0x27: 64-bit copy. -/
  | pairSMov (h : Half) (op : PairOp) (k : Half)
  /-- INTERVAL_POINT (R60): The issue count of a bundle reaches 4 and a reformation is taken unless deferred. -/
  | intervalPoint
  /-- WEFT_TIMESLICE_SWITCH (R63): After 256 issue cycles the slot switches to another ready weft. -/
  | weftTimesliceSwitch (slot : Nat)
  /-- BAND_RESUME (R267): The host, through the keeper, resumes a stopped band. -/
  | bandResume (band : Nat)
  /-- RSSEED_WRITE (R86): Writing sr.rsseed seeds each acting lane's stochastic-rounding state. -/
  | rsseedWrite (seeds : List (Nat × W32))
  /-- REGISTER_BLOCK_GRANT (R176): A queued RACQ request reaches the head and fits, and its bundle resumes. -/
  | registerBlockGrant (core : Nat)
  /-- PRESENCE_BIT_SET (R185): The last byte of a copy lands in a line, setting its presence bit and waking parked bundles. -/
  | presenceBitSet (cmd : Nat) (place line : Nat)
  /-- FAR_REPLY_LAND (R223): A far load reply is written into the lane's registers. -/
  | farReplyLand (req : Nat) (ans : FarAnswer)
  /-- FATOM_REPLY (R224): A far atomic's old value, or its non-returning completion, comes back. -/
  | fatomReply (req : Nat) (ans : FarAnswer)
  /-- FSTORE_COMPLETE (R218): A far store's write completes at home and is counted. -/
  | fstoreComplete (req : Nat) (ans : FarAnswer)
  /-- ENGINE_COMMAND_START (R215): A queued copy or chain command begins its walk. -/
  | engineCommandStart (cmd : Nat)
  /-- ENGINE_BYTES_LAND (R218): Bytes of an engine command land and are added to its counter. -/
  | engineBytesLand (cmd : Nat) (what : Landing)
  /-- ENGINE_COMMAND_COMPLETE (R217): An engine command completes and clears its records' index counters. -/
  | engineCommandComplete (cmd : Nat)
  /-- ENGINE_COMMAND_ERROR (R217): An engine command ends in error, setting err, the fault record and the resume indices. -/
  | engineCommandError (cmd : Nat) (err : EngineErr)
  /-- PAGE_IN_RESUME (R317): The host's page-in service answers and the waiting engine resumes or faults. -/
  | pageInResume (who : Nat) (ok : Bool)
  /-- PHASE_COMPLETE (R199): Earlier writes land, stores are published and the snapshot point moves. -/
  | phaseComplete (band weft : Nat)
  /-- FENCE_COMPLETE (R204): Every access before a FENCE.X on its paths is performed, releasing later ones. -/
  | fenceComplete (band weft : Nat)
  /-- MATRIX_COMMAND_START (R233): A queued matrix command starts when its unit and tile are free. -/
  | matrixCommandStart (cmd : Nat)
  /-- MATRIX_COMMAND_COMPLETE (R237): A matrix command finishes its work. -/
  | matrixCommandComplete (cmd : Nat)
  /-- MATRIX_EXECUTION_ERROR (R234): A matrix command ends in error and later queued commands are discarded. -/
  | matrixExecutionError (cmd : Nat)
  /-- ACCUMULATOR_CLAIM (R228): The save engine spills, loads or zeroes tiles and retags them for a new owner. -/
  | accumulatorClaim (core band : Nat)
  /-- MATRIX_RESUME_CLAIM (R348): A resumed MLOOP or MEPI checks tags before its next step and claims as needed. -/
  | matrixResumeClaim (core band : Nat)
  /-- WEFT_RETIRE (R120): All launched lanes have exited and all writes landed; the weft retires. -/
  | weftRetire (band weft : Nat)
  /-- BAND_RETIRE (R291): All wefts and engine commands are done; the band publishes and frees its resources. -/
  | bandRetire (band : Nat)
  /-- LAUNCH_PORT_FIRST_HALF (R280): A 64-byte write of the first half of a record to a launch port. -/
  | launchPortFirstHalf (part port off : Nat) (data : List W64)
  /-- LAUNCH_PORT_SECOND_HALF (R280): A second-half write; with commit the record is checked and queued. -/
  | launchPortSecondHalf (part port off : Nat) (data : List W64)
  /-- LAUNCH_COUNTER_WRITE (R282): A host write to a launch completion counter, acting as CSET. -/
  | launchCounterWrite (n : Nat) (v : W64)
  /-- SCHEDULER_SELECTION (R284): The scheduler orders eligible queue heads and places their bands. -/
  | schedulerSelection (part : Nat)
  /-- GANG_BYPASS_TIMEOUT (R287): A gang has waited 100 µs and smaller launches stop bypassing it. -/
  | gangBypassTimeout (launch : Nat)
  /-- PLACEMENT_WAIT_EXPIRY (R290): A head has waited pwait µs and pre-emption of resident bands is sought. -/
  | placementWaitExpiry (part queue : Nat)
  /-- COMM_RAISE_START (R289): A lantern egress queue empties and feeds-communication bands gain priority. -/
  | commRaiseStart (port : Nat)
  /-- COMM_RAISE_END (R289): 1 µs after the queues refill, the communication raise ends. -/
  | commRaiseEnd (port : Nat)
  /-- LAUNCH_ABORT (R292): The host aborts a launch; its bands retire and the counter counts with err. -/
  | launchAbort (launch : Nat)
  /-- SAVE_REQUEST (R295): A save is requested for a band or context, or refused for lack of pool room. -/
  | saveRequest (byHost : Bool) (ctx : Nat) (band : Option Nat)
  /-- SAVE_DEADLINE_EXPIRY (R299): The pre-emption deadline passes and unstopped wefts stop for a full save. -/
  | saveDeadlineExpiry (band : Nat)
  /-- SAVE_START (R298): Every weft of the band has stopped and the save engine begins. -/
  | saveStart (band : Nat)
  /-- SAVE_COMPLETE (R300): The band's image has been written to the save pool. -/
  | saveComplete (band : Nat)
  /-- FLUSH_REQUEST (R307): A band is stopped and, if restartable, discarded and requeued. -/
  | flushRequest (who band : Nat)
  /-- CONTEXT_CREATE (R294): The keeper creates a context with its slices, key and serial counter. -/
  | contextCreate (c : CtxSpec)
  /-- CONTEXT_DESTROY (R308): The keeper destroys a context and its state is zeroed. -/
  | contextDestroy (ctx : Nat)
  /-- FAR_REQUEST_SEGMENT_STAGE (R312): A far request reaches its segment stage and is checked and resolved. -/
  | farRequestSegmentStage (req : Nat)
  /-- UALINK_INBOUND_REQUEST (R397): A request arriving over UALink is resolved through the export table. -/
  | ualinkInboundRequest (q : Inbound)
  /-- REGION_STAGE_LOOKUP (R315): A request reaches the region stage and is forwarded to a stack. -/
  | regionStageLookup (req : Nat)
  /-- BLOCK_STAGE_ACCESS (R316): A request reaches the base die's block stage and is queued on its channel. -/
  | blockStageAccess (req : Nat)
  /-- ATS_TRANSLATION_RESPONSE (R314): An ATS response arrives for a held host request. -/
  | atsTranslationResponse (req : Nat) (ans : AtsAnswer)
  /-- PRI_RESPONSE (R314): A Page Request Group Response arrives and the translation is retried or faults. -/
  | priResponse (req : Nat) (ok : Bool)
  /-- ATS_INVALIDATE_REQUEST (R324): The host IOMMU invalidates translations and a buoy is sent. -/
  | atsInvalidateRequest (pasid : Option Nat) (lo hi : Nat)
  /-- HOLD_QUEUE_RETRY (R322): 256 cycles after a RETRY the engine resends the request. -/
  | holdQueueRetry (req : Nat)
  /-- XLCMD_SET (R319): Translation command set installs an entry on an INVALID slot. -/
  | xlcmdSet (die stage part : Nat)
  /-- XLCMD_MOVE (R319): Translation command move holds new requests and sends a buoy. -/
  | xlcmdMove (die stage part : Nat)
  /-- XLCMD_REVOKE (R323): Translation command revoke refuses new requests and sends a buoy. -/
  | xlcmdRevoke (die stage part : Nat)
  /-- XLCMD_CLEAR (R319): Translation command clear holds requests and sends a buoy before INVALID. -/
  | xlcmdClear (die stage part : Nat)
  /-- XLCMD_RETIRE (R319): Translation command retire turns a REVOKED entry INVALID. -/
  | xlcmdRetire (die stage part : Nat)
  /-- BUOY_RETURN (R320): A buoy returns after every earlier request on the old path. -/
  | buoyReturn (buoy : Nat)
  /-- MOVE_COPY_DONE (R321): A move's copy finishes; the new entry is written and held requests released. -/
  | moveCopyDone (die : Nat)
  /-- MOVE_COPY_ERROR (R319): A move's copy meets an uncorrected error or a non-VALID label and keeps the old entry. -/
  | moveCopyError (die : Nat) (uncorrected : Bool)
  /-- PEER_TIMEOUT (R328): A request gets no response within tmo and completes with group 20. -/
  | peerTimeout (req : Nat)
  /-- CREDIT_REAPPORTION (R329): Every 1024 link cycles spare receive credits are re-apportioned. -/
  | creditReapportion (port : Nat) (used : List Nat)
  /-- TOKEN_BUCKET_TICK (R331): Each microsecond buckets refill and spill is pooled to backlogged buckets. -/
  | tokenBucketTick (port : Nat)
  /-- REQUEST_EGRESS (R331): A request leaves its port once its bucket holds its charge. -/
  | requestEgress (port : Nat) (msg : Egress)
  /-- CHANNEL_PAGE_WRITE (R332): The keeper configures a channel; state 1 on ERROR discards the queue. -/
  | channelPageWrite (ch : Nat) (d0 : W64)
  /-- CHANNEL_ITEM_START (R333): A channel item starts when its predecessor has issued and its wait is met. -/
  | channelItemStart (ch : Nat)
  /-- CHANNEL_ITEM_COMPLETE (R333): Every byte of an item lands and the channel count advances in order. -/
  | channelItemComplete (ch : Nat)
  /-- CHANNEL_ITEM_ERROR (R334): An item ends in error and its channel goes to ERROR. -/
  | channelItemError (ch : Nat) (err : EngineErr)
  /-- COMMUNICATOR_REGISTER (R336): The host registers a communicator with the beacon and members. -/
  | communicatorRegister (num : Nat) (members : List Member) (watermark : W32)
  /-- BEACON_KEY_REQUEST (R337): The beacon receives a key request and assigns or repeats its number. -/
  | beaconKeyRequest (comm : Nat) (call : W32) (acc : Nat) (ask : KeyAsk)
  /-- COLL_TICKET_LAND (R342): The beacon number arrives and COLL's ticket is written. -/
  | collTicketLand (ctx slot : Nat) (number : BitVec 48)
  /-- COLLECTIVE_RANK_START (R337): A rank starts a number after every preceding number has ended. -/
  | collectiveRankStart (ctx slot : Nat) (number : BitVec 48)
  /-- BANK_ADDER_COMBINE (R344): An arriving contribution is combined into the destination element. -/
  | bankAdderCombine (ctx slot rank elem : Nat) (vals : List W32)
  /-- RANK_STATE_REPORT (R338): A rank reports COMPLETE or ABORTED to the beacon. -/
  | rankStateReport (number : BitVec 48) (rank : Nat) (state : Nat)
  /-- BEACON_CANCEL (R338): A COLLC reaches the beacon, cancelling or aborting the number. -/
  | beaconCancel (number : BitVec 48) (by_ : Option Nat) (answer : Nat)
  /-- COLLECTIVE_TIMEOUT (R338): ctmo passes with a rank not started or ended; the number aborts with reason 2. -/
  | collectiveTimeout (number : BitVec 48)
  /-- MEMBER_LOSS_ABORT (R338): A member device times out or its port goes down; the number aborts with reason 3. -/
  | memberLossAbort (number : BitVec 48)
  /-- TRANSFER_ERROR_ABORT (R343): A rank's read or transfer error is reported and the number aborts with reason 5. -/
  | transferErrorAbort (number : BitVec 48) (own : Option (Nat × Nat × EngineErr))
  /-- COLLECTIVE_ABORT_RECEIVED (R338): A rank receives an abort and ends COMPLETE or ABORTED. -/
  | collectiveAbortReceived (number : BitVec 48) (part reason : Nat)
  /-- BEACON_HEARTBEAT (R339): The primary beacon sends its heartbeat every 10 µs. -/
  | beaconHeartbeat
  /-- STANDBY_TAKEOVER (R339): 200 µs without heartbeat, the standby becomes primary. -/
  | standbyTakeover
  /-- BEACON_PROMOTE_COMMAND (R339): The keeper commands the standby to take over at once. -/
  | beaconPromoteCommand
  /-- LANTERN_REQUEST_RETRY (R339): An unanswered beacon request is resent to the standby after tmo. -/
  | lanternRequestRetry (req : LanternReq) (id : Nat)
  /-- BEACON_LOSS (R339): Primary and standby are both lost; numbers abort and COLL fails. -/
  | beaconLoss
  /-- PATROL_SCRUB (R365): Patrol scrub reads, corrects and writes back codewords. -/
  | patrolScrub (unit index : Nat) (addr : W64) (badSymbols : Nat)
  /-- BER_WINDOW_END (R366): A 10^9-bit window ends and each lane's error count is judged. -/
  | berWindowEnd (port : Nat) (counts : List Nat)
  /-- LINK_WIDTH_SWITCH (R368): After the partner's acknowledgement both ends switch width and replay flits. -/
  | linkWidthSwitch (port : Nat)
  /-- PARTNER_WIDTH_REQUEST (R368): The partner asks this port to change width. -/
  | partnerWidthRequest (port lanes : Nat)
  /-- PARTNER_WIDTH_REFUSAL (R369): The partner refuses a width change and the port retrains at its width. -/
  | partnerWidthRefusal (port : Nat)
  /-- LANE_RETRAIN_DONE (R368): A lane's retraining succeeds and the port widens. -/
  | laneRetrainDone (port lane : Nat)
  /-- LANE_RETRAIN_FAIL (R369): A retraining fails; after three failures the lane is disabled. -/
  | laneRetrainFail (port lane : Nat)
  /-- HBM_SCHEDULE_DECISION (R373): A channel scheduler picks and performs its next request. -/
  | hbmScheduleDecision (stack chan : Nat)
  /-- PALLOC_ALLOCATE (R378): Tag free rows to a partition when R377 allows. -/
  | pallocAllocate (stack part chan bank row cnt : Nat)
  /-- PALLOC_GUARD (R378): Tag rows as guard rows. -/
  | pallocGuard (stack chan bank row cnt : Nat)
  /-- PALLOC_FREE (R378): Zero rows by in-array fill and tag them free. -/
  | pallocFree (stack chan bank row cnt : Nat)
  /-- PALLOC_QUERY (R378): Return the tag of a row. -/
  | pallocQuery (stack chan bank row : Nat)
  /-- HBM_CRC_WINDOW (R380): A 1 ms CRC window ends; above hard an urgent retraining starts. -/
  | hbmCrcWindow (stack count : Nat)
  /-- HBM_RETRAIN_REQUEST (R380): The keeper requests a retraining, deferred while a save streams. -/
  | hbmRetrainRequest (stack : Nat)
  /-- HBM_RETRAIN_DEADLINE (R380): rtdl expires and the requested retraining starts at once. -/
  | hbmRetrainDeadline (stack : Nat)
  /-- HBM_RETRAIN_DONE (R380): A retraining ends; its duration extends save deadlines and is logged. -/
  | hbmRetrainDone (stack micros : Nat)
  /-- PACKAGE_RESET (R393): Reset sets every register to its reset value and destroys all contexts. -/
  | packageReset
  /-- FIRMWARE_IMAGE_LOAD (R390): A replacement image is loaded through the management window and boot resumes. -/
  | firmwareImageLoad (kind : Nat) (header payload : List Byte)
  /-- SVN_RAISE (R390): A keeper command raises the fused security version of a type. -/
  | svnRaise (kind svn : Nat)
  /-- ATTESTATION_REQUEST (R392): The host gives a nonce and receives a signed report or a refusal. -/
  | attestationRequest (nonce : List Byte)
  /-- PARTITION_RESET (R393): One partition's launches are aborted and its contexts destroyed. -/
  | partitionReset (part : Nat)
  /-- POWER_CONTROL_TICK (R394): Each microsecond fclk is lowered or raised against the limits. -/
  | powerControlTick (pavg iavg : Nat) (tj : List Nat)
  /-- CURRENT_STEP (R394): Core-rail current above 5000 A halves fclk within 50 ns. -/
  | currentStep (amps : Nat)
  /-- THERMAL_WARN (R395): A die reaches warn and an event record is written. -/
  | thermalWarn (die tj : Nat)
  /-- THERMAL_THROTTLE (R395): A die reaches thr and the power controller lowers fclk. -/
  | thermalThrottle (die tj : Nat)
  /-- THERMAL_SHUTDOWN (R395): A die reaches crit and core rails lose power at once. -/
  | thermalShutdown (die tj : Nat)
  /-- KEEPER_REGISTER_WRITE (R11): A write to a register without behaviour of its own sets its fields under its access codes. -/
  | keeperRegisterWrite (r : KReg) (v : W64)
  /-- NEAR_FAR_SIDE_REPLY_LAND (R65): The reply of a die-scratchpad load or atomic, a spill load that missed the buffer, or an access to another band of the gang lands in the lane's register and its waiting weft becomes ready. -/
  | nearFarSideReplyLand (band weft reply : Nat)
  /-- LINK_LAYER_REPLAY (R327): A received link flit fails its CRC, and the unacknowledged link flits are replayed from the 64-flit replay buffer. -/
  | linkLayerReplay (port : Nat)
  /-- CREDIT_RETURN (R327): The UALink partner returns flow-control credits for a virtual channel, letting queued requests leave the port. -/
  | creditReturn (port vc n : Nat)
  /-- COMMUNICATOR_REMOVE (R336): The host removes a registered communicator from the beacon and its members. -/
  | communicatorRemove (num : Nat)
  /-- PARTITION_FORM (R280): The keeper forms or re-forms a partition from granules, maps its launch port page and assigns its queues and counters. -/
  | partitionForm (p : PartSpec)
  /-- CXL_HOST_WRITE (R280): The host writes device memory over its CXL link, and a later launch-port commit is ordered after the write. -/
  | cxlHostWrite (addr : Nat) (data : List Byte)
deriving DecidableEq, Repr

end Sys2Proof
end

