-- ==== Sys2Proof/Machine/Table.lean ====
section
/-! DEFINITION. The opcode table of the F3 words and of the pair halves (R37 to R42, R48), with the operand kinds,
modifier values and format pairs that each opcode accepts. The decoder, WellFormed and the meanings all read it. -/
namespace Sys2Proof

/-- How an instruction reads a source (R19, R37): the type decides what an inline constant supplies. -/
inductive SrcKind where
  | none | i32 | i64 | f32 | half | f16x2 | bf16x2 | i8x4 | i4x8 | pred | fmt | cvt
deriving DecidableEq, Repr

/-- What the dst field names (R21). -/
inductive DstKind where
  | none | v | vpair | p | s | mov | lstk | cvt
deriving DecidableEq, Repr

/-- Which values of ext an opcode accepts (R22, R104, R108, R109, R134, R136, R151, R153, R155). -/
inductive ExtRule where
  | zero | carry | cond10 | cond8 | sel | mov | any | half | pos | quad | lane | vote | mask
deriving DecidableEq, Repr

/-- A row of the F3 table. `isMod`: C is the modifier field; `rnds`: how many rnd values are accepted from 0. -/
structure F3Info where
  opc : Nat
  a : SrcKind
  b : SrcKind
  c : SrcKind
  dst : DstKind
  isMod : Bool
  rnds : Nat
  sat : Bool
  ext : ExtRule
deriving DecidableEq, Repr

/-- The F3 opcodes (R38 to R40, R42) with their operands. -/
def F3Op.info : F3Op → F3Info
  | .iadd => ⟨0x0, .i32, .i32, .none, .v, true, 1, true, .zero⟩
  | .iaddc => ⟨0x1, .i32, .i32, .none, .v, true, 1, false, .carry⟩
  | .isub => ⟨0x2, .i32, .i32, .none, .v, true, 1, true, .zero⟩
  | .isubb => ⟨0x3, .i32, .i32, .none, .v, true, 1, false, .carry⟩
  | .imul => ⟨0x4, .i32, .i32, .none, .v, true, 1, false, .zero⟩
  | .imulh => ⟨0x5, .i32, .i32, .none, .v, true, 1, false, .zero⟩
  | .imulhu => ⟨0x6, .i32, .i32, .none, .v, true, 1, false, .zero⟩
  | .imad => ⟨0x7, .i32, .i32, .i32, .v, false, 1, false, .zero⟩
  | .imadw => ⟨0x8, .i32, .i32, .i64, .vpair, false, 1, false, .zero⟩
  | .iadd64 => ⟨0x9, .i64, .i64, .none, .vpair, true, 1, false, .zero⟩
  | .ineg => ⟨0xa, .i32, .none, .none, .v, true, 1, true, .zero⟩
  | .iabs => ⟨0xb, .i32, .none, .none, .v, true, 1, true, .zero⟩
  | .imin => ⟨0xc, .i32, .i32, .none, .v, true, 1, false, .zero⟩
  | .imax => ⟨0xd, .i32, .i32, .none, .v, true, 1, false, .zero⟩
  | .iminu => ⟨0xe, .i32, .i32, .none, .v, true, 1, false, .zero⟩
  | .imaxu => ⟨0xf, .i32, .i32, .none, .v, true, 1, false, .zero⟩
  | .and => ⟨0x10, .i32, .i32, .none, .v, true, 1, false, .zero⟩
  | .or => ⟨0x11, .i32, .i32, .none, .v, true, 1, false, .zero⟩
  | .xor => ⟨0x12, .i32, .i32, .none, .v, true, 1, false, .zero⟩
  | .andn => ⟨0x13, .i32, .i32, .none, .v, true, 1, false, .zero⟩
  | .not => ⟨0x14, .i32, .none, .none, .v, true, 1, false, .zero⟩
  | .shl => ⟨0x15, .i32, .i32, .none, .v, true, 1, false, .zero⟩
  | .shr => ⟨0x16, .i32, .i32, .none, .v, true, 1, false, .zero⟩
  | .sar => ⟨0x17, .i32, .i32, .none, .v, true, 1, false, .zero⟩
  | .rotl => ⟨0x18, .i32, .i32, .none, .v, true, 1, false, .zero⟩
  | .funnel => ⟨0x19, .i32, .i32, .i32, .v, false, 1, false, .zero⟩
  | .bfx => ⟨0x1a, .i32, .i32, .i32, .v, false, 1, false, .zero⟩
  | .bfxu => ⟨0x1b, .i32, .i32, .i32, .v, false, 1, false, .zero⟩
  | .bfi => ⟨0x1c, .i32, .i32, .i32, .v, false, 1, false, .zero⟩
  | .popc => ⟨0x1d, .i32, .none, .none, .v, true, 1, false, .zero⟩
  | .clz => ⟨0x1e, .i32, .none, .none, .v, true, 1, false, .zero⟩
  | .brev => ⟨0x1f, .i32, .none, .none, .v, true, 1, false, .zero⟩
  | .icmp => ⟨0x20, .i32, .i32, .none, .p, true, 1, false, .cond10⟩
  | .sel => ⟨0x21, .i32, .i32, .none, .v, true, 1, false, .sel⟩
  | .mov => ⟨0x22, .i32, .none, .none, .mov, true, 1, false, .mov⟩
  | .lea => ⟨0x24, .i64, .i32, .none, .vpair, true, 1, false, .any⟩
  | .lstk => ⟨0x25, .i32, .i32, .i32, .lstk, false, 1, false, .zero⟩
  | .dot4i8 => ⟨0x26, .i8x4, .i8x4, .i32, .v, false, 1, false, .zero⟩
  | .dot4i8Sat => ⟨0x27, .i8x4, .i8x4, .i32, .v, false, 1, false, .zero⟩
  | .dot8i4 => ⟨0x28, .i4x8, .i4x8, .i32, .v, false, 1, false, .zero⟩
  | .dot8i4Sat => ⟨0x29, .i4x8, .i4x8, .i32, .v, false, 1, false, .zero⟩
  | .pand => ⟨0x30, .pred, .pred, .none, .p, true, 1, false, .zero⟩
  | .por => ⟨0x31, .pred, .pred, .none, .p, true, 1, false, .zero⟩
  | .pxor => ⟨0x32, .pred, .pred, .none, .p, true, 1, false, .zero⟩
  | .pnot => ⟨0x33, .pred, .none, .none, .p, true, 1, false, .zero⟩
  | .pmov => ⟨0x34, .pred, .none, .none, .p, true, 1, false, .zero⟩
  | .fadd => ⟨0x40, .f32, .f32, .none, .v, true, 4, false, .zero⟩
  | .fsub => ⟨0x41, .f32, .f32, .none, .v, true, 4, false, .zero⟩
  | .fmul => ⟨0x42, .f32, .f32, .none, .v, true, 4, false, .zero⟩
  | .fmin => ⟨0x43, .f32, .f32, .none, .v, true, 1, false, .zero⟩
  | .fmax => ⟨0x44, .f32, .f32, .none, .v, true, 1, false, .zero⟩
  | .fabs => ⟨0x45, .f32, .none, .none, .v, true, 1, false, .zero⟩
  | .fneg => ⟨0x46, .f32, .none, .none, .v, true, 1, false, .zero⟩
  | .fcmp => ⟨0x47, .f32, .f32, .none, .p, true, 1, false, .cond8⟩
  | .fclass => ⟨0x48, .f32, .none, .none, .v, true, 1, false, .zero⟩
  | .frnd => ⟨0x49, .f32, .none, .none, .v, true, 4, false, .zero⟩
  | .fscale => ⟨0x4a, .f32, .i32, .none, .v, true, 4, false, .zero⟩
  | .fexpn => ⟨0x4b, .f32, .none, .none, .v, true, 1, false, .zero⟩
  | .hadd2 => ⟨0x4c, .half, .half, .none, .v, true, 4, false, .half⟩
  | .hmul2 => ⟨0x4d, .half, .half, .none, .v, true, 4, false, .half⟩
  | .fcvt => ⟨0x4e, .cvt, .fmt, .none, .cvt, true, 5, true, .pos⟩
  | .qcvt => ⟨0x4f, .cvt, .fmt, .none, .v, true, 5, false, .zero⟩
  | .scalex => ⟨0x50, .cvt, .fmt, .none, .v, true, 1, false, .zero⟩
  | .i2f => ⟨0x51, .cvt, .fmt, .none, .cvt, true, 4, true, .pos⟩
  | .f2i => ⟨0x52, .cvt, .fmt, .none, .cvt, true, 4, false, .pos⟩
  | .ffmaRne => ⟨0x58, .f32, .f32, .f32, .v, false, 1, false, .zero⟩
  | .ffmaRz => ⟨0x59, .f32, .f32, .f32, .v, false, 1, false, .zero⟩
  | .ffmaRd => ⟨0x5a, .f32, .f32, .f32, .v, false, 1, false, .zero⟩
  | .ffmaRu => ⟨0x5b, .f32, .f32, .f32, .v, false, 1, false, .zero⟩
  | .hfma2F16Rne => ⟨0x5c, .f16x2, .f16x2, .f16x2, .v, false, 1, false, .zero⟩
  | .hfma2F16Rz => ⟨0x5d, .f16x2, .f16x2, .f16x2, .v, false, 1, false, .zero⟩
  | .hfma2F16Rd => ⟨0x5e, .f16x2, .f16x2, .f16x2, .v, false, 1, false, .zero⟩
  | .hfma2F16Ru => ⟨0x5f, .f16x2, .f16x2, .f16x2, .v, false, 1, false, .zero⟩
  | .hfma2Bf16Rne => ⟨0x60, .bf16x2, .bf16x2, .bf16x2, .v, false, 1, false, .zero⟩
  | .hfma2Bf16Rz => ⟨0x61, .bf16x2, .bf16x2, .bf16x2, .v, false, 1, false, .zero⟩
  | .hfma2Bf16Rd => ⟨0x62, .bf16x2, .bf16x2, .bf16x2, .v, false, 1, false, .zero⟩
  | .hfma2Bf16Ru => ⟨0x63, .bf16x2, .bf16x2, .bf16x2, .v, false, 1, false, .zero⟩
  | .fdot2F16Rne => ⟨0x64, .f16x2, .f16x2, .f32, .v, false, 1, false, .zero⟩
  | .fdot2F16Rz => ⟨0x65, .f16x2, .f16x2, .f32, .v, false, 1, false, .zero⟩
  | .fdot2F16Rd => ⟨0x66, .f16x2, .f16x2, .f32, .v, false, 1, false, .zero⟩
  | .fdot2F16Ru => ⟨0x67, .f16x2, .f16x2, .f32, .v, false, 1, false, .zero⟩
  | .fdot2Bf16Rne => ⟨0x68, .bf16x2, .bf16x2, .f32, .v, false, 1, false, .zero⟩
  | .fdot2Bf16Rz => ⟨0x69, .bf16x2, .bf16x2, .f32, .v, false, 1, false, .zero⟩
  | .fdot2Bf16Rd => ⟨0x6a, .bf16x2, .bf16x2, .f32, .v, false, 1, false, .zero⟩
  | .fdot2Bf16Ru => ⟨0x6b, .bf16x2, .bf16x2, .f32, .v, false, 1, false, .zero⟩
  | .rcp => ⟨0x80, .f32, .none, .none, .v, true, 4, false, .zero⟩
  | .rsq => ⟨0x81, .f32, .none, .none, .v, true, 1, false, .zero⟩
  | .sqrt => ⟨0x82, .f32, .none, .none, .v, true, 4, false, .zero⟩
  | .exp2 => ⟨0x83, .f32, .none, .none, .v, true, 1, false, .zero⟩
  | .log2 => ⟨0x84, .f32, .none, .none, .v, true, 1, false, .zero⟩
  | .sin => ⟨0x85, .f32, .none, .none, .v, true, 1, false, .zero⟩
  | .cos => ⟨0x86, .f32, .none, .none, .v, true, 1, false, .zero⟩
  | .tanh => ⟨0x87, .f32, .none, .none, .v, true, 1, false, .zero⟩
  | .sigm => ⟨0x88, .f32, .none, .none, .v, true, 1, false, .zero⟩
  | .erf => ⟨0x89, .f32, .none, .none, .v, true, 1, false, .zero⟩
  | .qswap => ⟨0xa0, .i32, .none, .none, .v, true, 1, false, .quad⟩
  | .qbcst => ⟨0xa1, .i32, .none, .none, .v, true, 1, false, .lane⟩
  | .vote => ⟨0xa2, .pred, .none, .none, .p, true, 1, false, .vote⟩
  | .ballot => ⟨0xa3, .pred, .none, .none, .s, true, 1, false, .zero⟩
  | .lanemask => ⟨0xa4, .none, .none, .none, .v, true, 1, false, .mask⟩
  | .racq => ⟨0xee, .none, .none, .none, .none, true, 1, false, .zero⟩
  | .rrel => ⟨0xef, .none, .none, .none, .none, true, 1, false, .zero⟩

/-- Every F3 opcode. -/
def F3Op.all : List F3Op :=
  [.iadd, .iaddc, .isub, .isubb, .imul, .imulh, .imulhu, .imad, .imadw, .iadd64,
   .ineg, .iabs, .imin, .imax, .iminu, .imaxu, .and, .or, .xor, .andn,
   .not, .shl, .shr, .sar, .rotl, .funnel, .bfx, .bfxu, .bfi, .popc,
   .clz, .brev, .icmp, .sel, .mov, .lea, .lstk, .dot4i8, .dot4i8Sat, .dot8i4,
   .dot8i4Sat, .pand, .por, .pxor, .pnot, .pmov, .fadd, .fsub, .fmul, .fmin,
   .fmax, .fabs, .fneg, .fcmp, .fclass, .frnd, .fscale, .fexpn, .hadd2, .hmul2,
   .fcvt, .qcvt, .scalex, .i2f, .f2i, .ffmaRne, .ffmaRz, .ffmaRd, .ffmaRu, .hfma2F16Rne,
   .hfma2F16Rz, .hfma2F16Rd, .hfma2F16Ru, .hfma2Bf16Rne, .hfma2Bf16Rz, .hfma2Bf16Rd, .hfma2Bf16Ru, .fdot2F16Rne, .fdot2F16Rz, .fdot2F16Rd,
   .fdot2F16Ru, .fdot2Bf16Rne, .fdot2Bf16Rz, .fdot2Bf16Rd, .fdot2Bf16Ru, .rcp, .rsq, .sqrt, .exp2, .log2,
   .sin, .cos, .tanh, .sigm, .erf, .qswap, .qbcst, .vote, .ballot, .lanemask,
   .racq, .rrel]

/-- The pair opcode of a half (R48). -/
def PairOp.popc : PairOp → Nat
  | .iadd => 0x0
  | .isub => 0x1
  | .imul => 0x2
  | .imin => 0x3
  | .imax => 0x4
  | .iminu => 0x5
  | .imaxu => 0x6
  | .and => 0x7
  | .or => 0x8
  | .xor => 0x9
  | .andn => 0xa
  | .shl => 0xb
  | .shr => 0xc
  | .sar => 0xd
  | .mov => 0xe
  | .fadd => 0x10
  | .fsub => 0x11
  | .fmul => 0x12
  | .fmin => 0x13
  | .fmax => 0x14
  | .hadd2F16 => 0x15
  | .hmul2F16 => 0x16
  | .hadd2Bf16 => 0x17
  | .hmul2Bf16 => 0x18
  | .fabs => 0x19
  | .fneg => 0x1a
  | .sIadd => 0x20
  | .sIsub => 0x21
  | .sAnd => 0x22
  | .sOr => 0x23
  | .sXor => 0x24
  | .sShl => 0x25
  | .sShr => 0x26
  | .sMov => 0x27

/-- The unpaired opcode a half acts as; none in the s forms (R48). -/
def PairOp.acts : PairOp → Option F3Op
  | .iadd => some .iadd
  | .isub => some .isub
  | .imul => some .imul
  | .imin => some .imin
  | .imax => some .imax
  | .iminu => some .iminu
  | .imaxu => some .imaxu
  | .and => some .and
  | .or => some .or
  | .xor => some .xor
  | .andn => some .andn
  | .shl => some .shl
  | .shr => some .shr
  | .sar => some .sar
  | .mov => some .mov
  | .fadd => some .fadd
  | .fsub => some .fsub
  | .fmul => some .fmul
  | .fmin => some .fmin
  | .fmax => some .fmax
  | .hadd2F16 => some .hadd2
  | .hmul2F16 => some .hmul2
  | .hadd2Bf16 => some .hadd2
  | .hmul2Bf16 => some .hmul2
  | .fabs => some .fabs
  | .fneg => some .fneg
  | .sIadd => none
  | .sIsub => none
  | .sAnd => none
  | .sOr => none
  | .sXor => none
  | .sShl => none
  | .sShr => none
  | .sMov => none

/-- Every pair half. -/
def PairOp.all : List PairOp :=
  [.iadd, .isub, .imul, .imin, .imax, .iminu, .imaxu, .and, .or, .xor, .andn, .shl,
   .shr, .sar, .mov, .fadd, .fsub, .fmul, .fmin, .fmax, .hadd2F16, .hmul2F16, .hadd2Bf16, .hmul2Bf16,
   .fabs, .fneg, .sIadd, .sIsub, .sAnd, .sOr, .sXor, .sShl, .sShr, .sMov]

/-- The ext of the unpaired opcode a half acts as (R48, R49). -/
def PairOp.ext : PairOp → Fin 32
  | .hadd2Bf16 | .hmul2Bf16 => 1
  | _ => 0

/-- The code of a format (R46). -/
def Fmt.code : Fmt → Nat
  | .f32 => 0 | .f16 => 1 | .bf16 => 2 | .e4m3 => 3 | .e5m2 => 4 | .e3m2 => 5 | .e2m3 => 6 | .e2m1 => 7
  | .e8m0 => 8 | .s32 => 9 | .u32 => 10 | .s8 => 11 | .s4 => 12

/-- The format of a code; 13 to 15 are reserved (R46). -/
def Fmt.ofCode : Nat → Option Fmt
  | 0 => some .f32 | 1 => some .f16 | 2 => some .bf16 | 3 => some .e4m3 | 4 => some .e5m2 | 5 => some .e3m2
  | 6 => some .e2m3 | 7 => some .e2m1 | 8 => some .e8m0 | 9 => some .s32 | 10 => some .u32 | 11 => some .s8
  | 12 => some .s4 | _ => none

/-- Element width of a format as held in a register (R136). -/
def Fmt.width : Fmt → Nat
  | .f32 | .s32 | .u32 => 32
  | .f16 | .bf16 => 16
  | .e4m3 | .e5m2 | .e3m2 | .e2m3 | .e8m0 | .s8 => 8
  | .e2m1 | .s4 => 4

/-- Fraction bits of a float format (R77). -/
def Fmt.fracBits : Fmt → Nat
  | .f32 => 23 | .f16 => 10 | .bf16 => 7 | .e4m3 => 3 | .e5m2 => 2 | .e3m2 => 2 | .e2m3 => 3 | .e2m1 => 1
  | _ => 0

/-- Exponent bits of a float format (R77, R78). -/
def Fmt.expBits : Fmt → Nat
  | .f32 | .bf16 | .e8m0 => 8 | .f16 | .e5m2 => 5 | .e4m3 => 4 | .e3m2 => 3 | .e2m3 | .e2m1 => 2
  | _ => 0

/-- Elements a conversion turns in each lane (R136). -/
def convN (d s : Fmt) : Nat := min (32 / s.width) (64 / d.width)

/-- A conversion writes a v pair (R136). -/
def convPair (d s : Fmt) : Bool := convN d s * d.width == 64

/-- The number of positions P of a conversion (R136). -/
def convP (d s : Fmt) : Nat :=
  if convN d s < 32 / s.width then (32 / s.width) / convN d s
  else if convN d s * d.width < 32 then (32 / d.width) / convN d s
  else 1

/-- A conversion narrows: RS is accepted (R85). -/
def narrows (d s : Fmt) : Bool := d.fracBits < s.fracBits || d.expBits < s.expBits

/-- Whether a format pair stands in an opcode that takes one (R137, R140, R141). -/
def fmtPairOk (op : F3Op) (d s : Fmt) : Bool :=
  match op with
  | .fcvt => s.code ≤ 8 && d.code ≤ 8 && d != s
  | .i2f => 9 ≤ s.code && d.code ≤ 7
  | .f2i => s.code ≤ 7 && 9 ≤ d.code
  | .qcvt | .scalex => s.code ≤ 2 && 3 ≤ d.code && d.code ≤ 7
  | _ => false

/-- Whether an opcode accepts a rounding code with a format pair (R22, R85, R137, R140). -/
def rndOk (op : F3Op) (d s : Fmt) (rnd : Nat) : Bool :=
  match op with
  | .fcvt => if d == .e8m0 || s == .e8m0 then rnd == 0 else rnd ≤ 3 || (rnd == 4 && narrows d s)
  | _ => rnd < op.info.rnds

/-- Whether an opcode accepts sat with a destination format (R22, R137). -/
def satOk (op : F3Op) (d : Fmt) (sat : Bool) : Bool :=
  !sat || (op.info.sat && !(op == .fcvt && d == .e8m0))

/-- Whether an ext value stands (R22). The position of a conversion lies below P (R136). -/
def extOk (r : ExtRule) (d s : Fmt) (e : Nat) : Bool :=
  match r with
  | .zero => e == 0
  | .carry => e < 7
  | .cond10 => e < 10
  | .cond8 => e < 8
  | .sel => e < 16
  | .mov => e < 4
  | .any => e < 32
  | .half => e < 2
  | .pos => e < 8 && e < convP d s
  | .quad => e < 3
  | .lane => e < 4
  | .vote => e < 3
  | .mask => e < 16 && e % 8 < 5

/-- A source kind is an operand that a route may name (R26). -/
def SrcKind.routable : SrcKind → Bool
  | .none | .pred | .fmt => false
  | _ => true

/-- The source kind of MOV's A, which its ext widens (R109). -/
def srcKindA (op : F3Op) (e : Nat) : SrcKind :=
  if op == .mov && e / 2 % 2 == 1 then .i64 else op.info.a

/-- Codes of SysReg (R270). -/
def SysReg.code : SysReg → Nat
  | .tcause => 0x0 | .tdet0 => 0x1 | .tdet1 => 0x2 | .tdet2 => 0x3 | .trappc => 0x4 | .tresume => 0x5
  | .flags => 0x10 | .rsseed => 0x11 | .hangk => 0x12 | .lane => 0x20 | .helper => 0x21 | .weft => 0x22
  | .width => 0x23 | .bandx => 0x24 | .bandy => 0x25 | .bandz => 0x26 | .gangpos => 0x27 | .core => 0x28
  | .ctx => 0x29 | .part => 0x2A | .bkey => 0x30 | .wlast => 0x31 | .cycle => 0x32

/-- Every system register (R270). -/
def SysReg.all : List SysReg :=
  [.tcause, .tdet0, .tdet1, .tdet2, .trappc, .tresume, .flags, .rsseed, .hangk, .lane, .helper, .weft, .width,
   .bandx, .bandy, .bandz, .gangpos, .core, .ctx, .part, .bkey, .wlast, .cycle]

end Sys2Proof
end

