-- ==== Sys2Proof/WellFormed.lean ====
section
/-! DEFINITION. Which terms of Instr have an encoding (R16 to R49 and the encoding tables of the engine commands):
every field holds a value that its description accepts. An event carries no encoding and is always well formed. -/
namespace Sys2Proof

/-- The 9-bit code of an operand (R18). -/
def Operand.code : Operand → Nat
  | .v n => n.val
  | .s n => 256 + n.val
  | .x d => 320 + d.val
  | .k c => 324 + c.val

/-- A 64-bit operand names an even v register, or no v register (R21, R102). -/
def Operand.wide : Operand → Bool
  | .v n => n.val % 2 == 0
  | _ => true

/-- An operand that is an s register. -/
def Operand.isS : Operand → Bool
  | .s _ => true
  | _ => false

/-- The always guard (R20). -/
def Guard.always : Guard := ⟨false, 7⟩

/-- R20: the negated always is reserved. -/
def Guard.ok (g : Guard) : Bool := !(g.neg && g.p.val == 7)

/-- The signed distance of a shift route (R25). -/
def sdist (d : Fin 64) : Int := if d.val < 32 then d.val else (d.val : Int) - 64

/-- The magnitude of a shift distance. -/
def shiftMag (d : Nat) : Nat := if d < 32 then d else 64 - d

/-- The quad-pattern codes of R27. -/
def quadOk (c : Nat) : Bool := c < 0x0B && c != 3

/-- A route modifier that passes the decode-time checks (R26). -/
def Route.ok : Route → Bool
  | .identity => true
  | .rotate seg d | .broadcast seg d => seg.val == 6 || d.val < 2 ^ (seg.val + 1)
  | .butterfly seg d => (d.val == 1 || d.val == 2 || d.val == 4 || d.val == 8 || d.val == 16 || d.val == 32)
      && (seg.val == 6 || d.val < 2 ^ (seg.val + 1))
  | .indexed _ _ => true
  | .quad c => quadOk c.val
  | .shift seg d => seg.val == 6 || shiftMag d.val < 2 ^ (seg.val + 1)

/-- The 12-bit code of a route (R25). -/
def Route.code : Route → Nat
  | .identity => 0
  | .rotate seg d => 512 + seg.val * 64 + d.val
  | .butterfly seg d => 1024 + seg.val * 64 + d.val
  | .broadcast seg d => 1536 + seg.val * 64 + d.val
  | .indexed seg d => 2048 + seg.val * 64 + d.val
  | .quad c => 2560 + 64 + c.val
  | .shift seg d => 3072 + seg.val * 64 + d.val

/-- Whether the source field a target names may be routed in an opcode (R26). -/
def targetOk (op : F3Op) : Target → Bool
  | .none => true
  | .a => op.info.a.routable
  | .b => op.info.b.routable
  | .c => op.info.c.routable

/-- A target goes with a modifier exactly when it is not none (R26). -/
def routeOk (op : F3Op) (t : Target) (r : Route) : Bool :=
  match t with
  | .none => r == .identity
  | t => targetOk op t && r != .identity && r.ok

/-- The formats of a format pair in B; elsewhere FP32 twice. -/
def F3.fmts (f : F3) : Fmt × Fmt :=
  match f.b with
  | .fmt d s => (d, s)
  | _ => (.f32, .f32)

/-- What the dst field of a word names, from its opcode and fields (R21, R109, R111, R136). -/
def dstKindOf (op : F3Op) (ext dst : Nat) (d s : Fmt) : DstKind :=
  match op.info.dst with
  | .mov => if ext % 2 == 1 then .s else if ext / 2 % 2 == 1 then .vpair else .v
  | .lstk => if dst % 2 == 0 then .vpair else .lstk
  | .cvt => if fmtPairOk op d s && convPair d s then .vpair else .v
  | k => k

/-- What the dst field of a word names; `lstk` is the odd form, which names s((dst - 1) / 2). -/
def F3.dstKind (op : F3Op) (f : F3) : DstKind :=
  dstKindOf op f.ext.val f.dst.val f.fmts.1 f.fmts.2

/-- R21, R23: the dst field stands. -/
def dstOk (k : DstKind) (dst : Nat) (nwb : Bool) : Bool :=
  match k with
  | .v => !nwb || dst == 0
  | .vpair => dst % 2 == 0 && (!nwb || dst == 0)
  | .p => dst < 7 && !nwb
  | .s => dst < 64 && !nwb
  | .lstk => dst < 128 && !nwb
  | _ => dst == 0 && !nwb

/-- A source field holds what the opcode reads there. -/
def srcOk (op : F3Op) (k : SrcKind) : Src → Bool
  | .none => k == .none
  | .pred _ => k == .pred
  | .fmt d s => k == .fmt && fmtPairOk op d s
  | .op o => k != .none && k != .pred && k != .fmt && (k != .i64 || o.wide)

/-- The modifier field stands (R22). -/
def modOk (op : F3Op) (f : F3) : Bool :=
  if op.info.isMod then
    f.c == .none && rndOk op f.fmts.1 f.fmts.2 f.rnd.val && satOk op f.fmts.1 f.sat
      && extOk op.info.ext f.fmts.1 f.fmts.2 f.ext.val
  else srcOk op op.info.c f.c && f.rnd.val == 0 && !f.sat && f.ext.val == 0

/-- RACQ and RREL take the always guard (R42). -/
def F3Op.fixedGuard (op : F3Op) : Bool := op == .racq || op == .rrel

/-- A well-formed F3 word of an opcode. -/
def F3.ok (op : F3Op) (f : F3) : Bool :=
  srcOk op (srcKindA op f.ext.val) f.a && srcOk op op.info.b f.b && modOk op f
    && dstOk (f.dstKind op) f.dst.val f.nwb && f.guard.ok && (!op.fixedGuard || f.guard == Guard.always)
    && routeOk op f.target f.route

/-- A well-formed FI word with a v destination (R113); the shifts take an immediate up to 31 (R103). -/
def FI.ok (shift : Bool) (f : FI) : Bool :=
  (!f.nwb || f.dst.val == 0) && f.guard.ok && (!shift || f.imm.toNat ≤ 31)

/-- A well-formed MOVI (R110). -/
def FMovi.ok (f : FMovi) : Bool :=
  f.guard.ok && (if f.sel.val == 0 then !f.nwb || f.dst.val == 0 else f.dst.val < 64 && !f.nwb)

/-- How an FB word uses its operand field (R41, R114, R115). -/
inductive FBOperand where
  | none | target | sreg | pair | counter
deriving DecidableEq, Repr

/-- R41: uses U, uses aux, the operand field, uses the offset. -/
structure FBInfo where
  u : Bool
  aux : Bool
  operand : FBOperand
  offset : Bool
deriving DecidableEq, Repr

/-- The operand of an FB word stands. -/
def FBOperand.ok : FBOperand → Option Operand → Bool
  | .none, o => o == Option.none
  | .target, some (.v n) => n.val % 2 == 0
  | .target, some (.s _) => true
  | .sreg, some (.s _) => true
  | .pair, some (.s n) => n.val % 2 == 0
  | .counter, some (.v _) => true
  | .counter, some (.s _) => true
  | _, _ => false

/-- A well-formed FB word. -/
def FB.ok (k : FBInfo) (f : FB) : Bool :=
  (k.u || !f.u) && (k.aux || f.aux.val == 0) && f.guard.ok && k.operand.ok f.operand
    && (k.offset || f.offset == 0)

/-- The near-memory opcodes by what they accept (R189, R192). -/
inductive FMKind where
  | ld | st | ldu | stu | atom | atom32 | cas
deriving DecidableEq, Repr

/-- The size code stands. -/
def FMKind.sizeOk (k : FMKind) (n : Nat) : Bool :=
  match k with
  | .ld | .st => n < 5
  | .ldu | .stu => n < 4
  | .atom | .cas => n == 2 || n == 3
  | .atom32 => n == 2

/-- The data register stands for a size (R21, R189, R192). Where the size of an ACAS is reserved too, the data register must
still be even (DESIGN CHOICE; log 64). -/
def FMKind.dataOk (k : FMKind) (size data : Nat) : Bool :=
  match k with
  | .ldu | .stu => data < 64
  | .cas => if size == 3 then data % 4 == 0 else data % 2 == 0
  | .atom | .atom32 => size != 3 || data % 2 == 0
  | _ => if size == 3 then data % 2 == 0 else size != 4 || data % 4 == 0

/-- The order hint stands (R189). -/
def FMKind.hintOk (k : FMKind) (acq rel : Bool) : Bool :=
  match k with
  | .ld | .ldu => !rel
  | .st | .stu => !acq
  | _ => true

/-- The base operand stands: LDU and STU take an s register or a constant (R189). -/
def FMKind.baseOk (k : FMKind) (o : Operand) : Bool :=
  match k, o with
  | .ldu, .v _ | .ldu, .x _ | .stu, .v _ | .stu, .x _ => false
  | _, _ => true

/-- The space stands: atomics take band and die only. -/
def FMKind.spaceOk (k : FMKind) (s : Space) : Bool :=
  match k, s with
  | .atom, .spill | .atom32, .spill | .cas, .spill => false
  | _, _ => true

/-- A well-formed FM word. -/
def FM.ok (k : FMKind) (f : FM) : Bool :=
  k.sizeOk f.size.val && k.dataOk f.size.val f.data.val && k.hintOk f.acq f.rel && k.baseOk f.base
    && k.spaceOk f.space && f.guard.ok

/-- The operand that stands for an unused one: v0, whose code is 0. -/
def Operand.zero : Operand := .v 0

/-- ITSET's operands fit its part (R213). -/
def itsetOk (part : ItPart) (a b : Operand) : Bool :=
  match part with
  | .base | .hdr => a.wide && b == Operand.zero
  | .dim _ => b.wide
  | .clr => a == Operand.zero && b == Operand.zero

/-- A far data register fits its register count (R223). -/
def FFar.ok (f : FFar) : Bool :=
  f.dst.val % 2 ^ f.size.val == 0 && (match f.a with | .v n => n.val % 2 == 0 | .s _ => true | _ => false)
    && f.guard.ok

/-- Registers that an atomic's operand takes (R192). -/
def atomRegs (op : AtomOp) (w64 : Bool) : Nat :=
  (if op == .cas then 2 else 1) * (if w64 then 2 else 1)

/-- A well-formed FATOM (R224). -/
def FFatom.ok (f : FFatom) : Bool :=
  f.dst.val % atomRegs f.op f.w64 == 0 && !(f.w64 && (f.op == .fadd || f.op == .inc))
    && (match f.a with | .v n => n.val % 2 == 0 | .s _ => true | _ => false) && f.guard.ok

/-- The weight formats of MLDW (R239). -/
def mldwFmtOk (f : Fmt) : Bool := (1 ≤ f.code && f.code ≤ 7) || f.code == 11 || f.code == 12

/-- A bank for pairing (R18); latches and constants have none. -/
def Operand.bank : Operand → Option Nat
  | .v n => some (n.val % 4)
  | .s _ => some 4
  | _ => none

/-- A half in the s forms 0x20 to 0x27. -/
def PairOp.sForm (p : PairOp) : Bool := p.acts == none

/-- The destination bank of a half. -/
def Half.dstBank (p : PairOp) (h : Half) : Nat := if p.sForm then 4 else h.dst.val % 4

/-- One half stands (R21, R48). -/
def Half.ok (p : PairOp) (h : Half) : Bool :=
  !p.sForm || (h.dst.val < 64 && h.route.val == 0 && (match h.src with | .v _ => false | _ => true))

/-- The two halves may stand together (R34). -/
def pairOk (p : PairOp) (h : Half) (q : PairOp) (k : Half) : Bool :=
  h.ok p && k.ok q && h.dstBank p != k.dstBank q
    && (h.src.bank == none || h.src.bank != k.src.bank)

/-- A well-formed ROUTEX instruction (R28). -/
def FX.ok (fx : FX) (op : F3Op) (f : F3) : Bool :=
  f.ok op && routeOk op fx.target2 fx.route2 && routeOk op fx.target3 fx.route3
    && (fx.target2 == .none || fx.target2 != f.target)
    && (fx.target3 == .none || (fx.target3 != f.target && fx.target3 != fx.target2))

/-- The input records of a chain word: a used one stands in its field, an unused field is zero, which is `none`. -/
def FChain.ok (f : FChain) : Bool := f.guard.ok

/-- MEPI's witness needs the clamp (R243). -/
def FMepi.ok (f : FMepi) : Bool := f.guard.ok && (f.wit == none || f.clamp != none)

/-- MRD (R244). -/
def FMrd.ok (f : FMrd) : Bool :=
  f.guard.ok && (!f.raw || (f.dst.val % 4 == 0 && f.rnd.val == 0 && !f.sat))

/-- WRED (R246). -/
def FWred.ok (f : FWred) : Bool :=
  f.guard.ok && (f.op.val == 2 || f.bound.val == 0) && !(f.last && (f.op.val == 2 || f.op.val == 4))

/-- TCOPYC (R343): a witness goes with ops 5 to 8. -/
def FTcopyc.ok (f : FTcopyc) : Bool :=
  f.guard.ok && (f.wit == none || 5 ≤ f.op.val)

/-- MFSR's 64-bit destination is given by its pair number, so every value stands (R271). -/
def mtsrOk (w64 : Bool) (a : Operand) : Bool := !w64 || a.wide

/-- The FB opcodes (R41), by name. -/
inductive FBOp where
  | bra | brx | call | callx | ret | rbset | rbwait | loop | exit | yield | nop
deriving DecidableEq, Repr

/-- What an FB opcode uses (R41). -/
def FBOp.info : FBOp → FBInfo
  | .bra => ⟨true, false, .none, true⟩
  | .brx => ⟨true, false, .target, false⟩
  | .call => ⟨true, false, .sreg, true⟩
  | .callx => ⟨true, false, .pair, false⟩
  | .ret => ⟨true, false, .sreg, false⟩
  | .rbset => ⟨false, true, .none, true⟩
  | .rbwait => ⟨false, true, .none, false⟩
  | .loop => ⟨true, false, .counter, true⟩
  | .exit => ⟨false, false, .none, false⟩
  | .yield => ⟨false, false, .none, false⟩
  | .nop => ⟨false, false, .none, false⟩

/-- The FM opcodes (R42), by name. -/
inductive FMOp where
  | ld | st | ldu | stu | aadd | afadd | amin | amax | aand | aor | axor | axchg | acas | ainc
deriving DecidableEq, Repr

/-- What an FM opcode accepts (R189, R192). -/
def FMOp.kind : FMOp → FMKind
  | .ld => .ld
  | .st => .st
  | .ldu => .ldu
  | .stu => .stu
  | .aadd => .atom
  | .afadd => .atom32
  | .amin => .atom
  | .amax => .atom
  | .aand => .atom
  | .aor => .atom
  | .axor => .atom
  | .axchg => .atom
  | .acas => .cas
  | .ainc => .atom32

/-- The encodable terms. Every row but an event has its own check; an event is always well formed. -/
def WellFormed : Instr → Bool
  | .iadd f => f.ok .iadd
  | .iaddc f => f.ok .iaddc
  | .isub f => f.ok .isub
  | .isubb f => f.ok .isubb
  | .imul f => f.ok .imul
  | .imulh f => f.ok .imulh
  | .imulhu f => f.ok .imulhu
  | .imad f => f.ok .imad
  | .imadw f => f.ok .imadw
  | .iadd64 f => f.ok .iadd64
  | .ineg f => f.ok .ineg
  | .iabs f => f.ok .iabs
  | .imin f => f.ok .imin
  | .imax f => f.ok .imax
  | .iminu f => f.ok .iminu
  | .imaxu f => f.ok .imaxu
  | .and f => f.ok .and
  | .or f => f.ok .or
  | .xor f => f.ok .xor
  | .andn f => f.ok .andn
  | .not f => f.ok .not
  | .shl f => f.ok .shl
  | .shr f => f.ok .shr
  | .sar f => f.ok .sar
  | .rotl f => f.ok .rotl
  | .funnel f => f.ok .funnel
  | .bfx f => f.ok .bfx
  | .bfxu f => f.ok .bfxu
  | .bfi f => f.ok .bfi
  | .popc f => f.ok .popc
  | .clz f => f.ok .clz
  | .brev f => f.ok .brev
  | .icmp f => f.ok .icmp
  | .sel f => f.ok .sel
  | .mov f => f.ok .mov
  | .movi f => f.ok
  | .lea f => f.ok .lea
  | .lstk f => f.ok .lstk
  | .dot4i8 f => f.ok .dot4i8
  | .dot4i8Sat f => f.ok .dot4i8Sat
  | .dot8i4 f => f.ok .dot8i4
  | .dot8i4Sat f => f.ok .dot8i4Sat
  | .pand f => f.ok .pand
  | .por f => f.ok .por
  | .pxor f => f.ok .pxor
  | .pnot f => f.ok .pnot
  | .pmov f => f.ok .pmov
  | .iaddImm f => f.ok false
  | .imulImm f => f.ok false
  | .andImm f => f.ok false
  | .orImm f => f.ok false
  | .xorImm f => f.ok false
  | .shlImm f => f.ok true
  | .shrImm f => f.ok true
  | .sarImm f => f.ok true
  | .fadd f => f.ok .fadd
  | .fsub f => f.ok .fsub
  | .fmul f => f.ok .fmul
  | .fmin f => f.ok .fmin
  | .fmax f => f.ok .fmax
  | .fabs f => f.ok .fabs
  | .fneg f => f.ok .fneg
  | .fcmp f => f.ok .fcmp
  | .fclass f => f.ok .fclass
  | .frnd f => f.ok .frnd
  | .fscale f => f.ok .fscale
  | .fexpn f => f.ok .fexpn
  | .hadd2 f => f.ok .hadd2
  | .hmul2 f => f.ok .hmul2
  | .fcvt f => f.ok .fcvt
  | .qcvt f => f.ok .qcvt
  | .scalex f => f.ok .scalex
  | .i2f f => f.ok .i2f
  | .f2i f => f.ok .f2i
  | .ffmaRne f => f.ok .ffmaRne
  | .ffmaRz f => f.ok .ffmaRz
  | .ffmaRd f => f.ok .ffmaRd
  | .ffmaRu f => f.ok .ffmaRu
  | .hfma2F16Rne f => f.ok .hfma2F16Rne
  | .hfma2F16Rz f => f.ok .hfma2F16Rz
  | .hfma2F16Rd f => f.ok .hfma2F16Rd
  | .hfma2F16Ru f => f.ok .hfma2F16Ru
  | .hfma2Bf16Rne f => f.ok .hfma2Bf16Rne
  | .hfma2Bf16Rz f => f.ok .hfma2Bf16Rz
  | .hfma2Bf16Rd f => f.ok .hfma2Bf16Rd
  | .hfma2Bf16Ru f => f.ok .hfma2Bf16Ru
  | .fdot2F16Rne f => f.ok .fdot2F16Rne
  | .fdot2F16Rz f => f.ok .fdot2F16Rz
  | .fdot2F16Rd f => f.ok .fdot2F16Rd
  | .fdot2F16Ru f => f.ok .fdot2F16Ru
  | .fdot2Bf16Rne f => f.ok .fdot2Bf16Rne
  | .fdot2Bf16Rz f => f.ok .fdot2Bf16Rz
  | .fdot2Bf16Rd f => f.ok .fdot2Bf16Rd
  | .fdot2Bf16Ru f => f.ok .fdot2Bf16Ru
  | .faddImm f => f.ok false
  | .fmulImm f => f.ok false
  | .rcp f => f.ok .rcp
  | .rsq f => f.ok .rsq
  | .sqrt f => f.ok .sqrt
  | .exp2 f => f.ok .exp2
  | .log2 f => f.ok .log2
  | .sin f => f.ok .sin
  | .cos f => f.ok .cos
  | .tanh f => f.ok .tanh
  | .sigm f => f.ok .sigm
  | .erf f => f.ok .erf
  | .qswap f => f.ok .qswap
  | .qbcst f => f.ok .qbcst
  | .vote f => f.ok .vote
  | .ballot f => f.ok .ballot
  | .lanemask f => f.ok .lanemask
  | .bra f => f.ok FBOp.bra.info
  | .brx f => f.ok FBOp.brx.info
  | .call f => f.ok FBOp.call.info
  | .callx f => f.ok FBOp.callx.info
  | .ret f => f.ok FBOp.ret.info
  | .rbset f => f.ok FBOp.rbset.info
  | .rbwait f => f.ok FBOp.rbwait.info
  | .loop f => f.ok FBOp.loop.info
  | .exit f => f.ok FBOp.exit.info
  | .yield f => f.ok FBOp.yield.info
  | .nop f => f.ok FBOp.nop.info
  | .ld f => f.ok .ld
  | .st f => f.ok .st
  | .ldu f => f.ok .ldu
  | .stu f => f.ok .stu
  | .aadd f => f.ok .atom
  | .afadd f => f.ok .atom32
  | .amin f => f.ok .atom
  | .amax f => f.ok .atom
  | .aand f => f.ok .atom
  | .aor f => f.ok .atom
  | .axor f => f.ok .atom
  | .axchg f => f.ok .atom
  | .acas f => f.ok .cas
  | .ainc f => f.ok .atom32
  | .racq => true
  | .rrel => true
  | .phase _ => true
  | .fenceX _ _ => true
  | .bar _ _ g => g.ok
  | .gbar _ _ g => g.ok
  | .bara _ n _ gang g => g.ok && (!gang || n.val < 4)
  | .barw _ n _ gang g => g.ok && (!gang || n.val < 4)
  | .itset _ part a b g => g.ok && itsetOk part a b
  | .itld _ a _ g => g.ok && a.wide
  | .tcopy _ _ _ _ g => g.ok
  | .fload f => f.ok
  | .fstore f => f.ok
  | .fatom f => f.ok
  | .cwait _ a _ g => g.ok && a.wide
  | .cadd _ a g => g.ok && a.wide
  | .cset _ a g => g.ok && a.wide
  | .chain f => f.ok
  | .fill _ _ pat w64 g => g.ok && (!w64 || pat.wide)
  | .mldw a fmt _ _ g => g.ok && a.wide && mldwFmtOk fmt
  | .mloop _ _ _ _ _ _ g => g.ok
  | .mwait _ g => g.ok
  | .mepi f => f.ok
  | .mzero _ _ g => g.ok
  | .mrd f => f.ok
  | .wred f => f.ok
  | .adjb f => f.guard.ok
  | .rcopy _ _ _ _ _ g => g.ok
  | .tcopyc f => f.ok
  | .coll _ _ g => g.ok
  | .collw _ _ g => g.ok
  | .collc _ _ g => g.ok
  | .mfsr _ _ g => g.ok
  | .mtsr w64 a _ g => g.ok && mtsrOk w64 a
  | .eret => true
  | .trapi g _ => g.ok
  | .bkpt g _ => g.ok
  | .ppoint _ => true
  | .launch _ a _ g => g.ok && a.wide
  | .probe _ a _ g => g.ok && a.wide
  | .routex fx op f => fx.ok op f
  | .pairIadd h op k => pairOk .iadd h op k
  | .pairIsub h op k => pairOk .isub h op k
  | .pairImul h op k => pairOk .imul h op k
  | .pairImin h op k => pairOk .imin h op k
  | .pairImax h op k => pairOk .imax h op k
  | .pairIminu h op k => pairOk .iminu h op k
  | .pairImaxu h op k => pairOk .imaxu h op k
  | .pairAnd h op k => pairOk .and h op k
  | .pairOr h op k => pairOk .or h op k
  | .pairXor h op k => pairOk .xor h op k
  | .pairAndn h op k => pairOk .andn h op k
  | .pairShl h op k => pairOk .shl h op k
  | .pairShr h op k => pairOk .shr h op k
  | .pairSar h op k => pairOk .sar h op k
  | .pairMov h op k => pairOk .mov h op k
  | .pairFadd h op k => pairOk .fadd h op k
  | .pairFsub h op k => pairOk .fsub h op k
  | .pairFmul h op k => pairOk .fmul h op k
  | .pairFmin h op k => pairOk .fmin h op k
  | .pairFmax h op k => pairOk .fmax h op k
  | .pairHadd2F16 h op k => pairOk .hadd2F16 h op k
  | .pairHmul2F16 h op k => pairOk .hmul2F16 h op k
  | .pairHadd2Bf16 h op k => pairOk .hadd2Bf16 h op k
  | .pairHmul2Bf16 h op k => pairOk .hmul2Bf16 h op k
  | .pairFabs h op k => pairOk .fabs h op k
  | .pairFneg h op k => pairOk .fneg h op k
  | .pairSIadd h op k => pairOk .sIadd h op k
  | .pairSIsub h op k => pairOk .sIsub h op k
  | .pairSAnd h op k => pairOk .sAnd h op k
  | .pairSOr h op k => pairOk .sOr h op k
  | .pairSXor h op k => pairOk .sXor h op k
  | .pairSShl h op k => pairOk .sShl h op k
  | .pairSShr h op k => pairOk .sShr h op k
  | .pairSMov h op k => pairOk .sMov h op k
  | .intervalPoint => true
  | .weftTimesliceSwitch _ => true
  | .bandResume _ => true
  | .rsseedWrite _ => true
  | .registerBlockGrant _ => true
  | .presenceBitSet _ _ _ => true
  | .farReplyLand _ _ => true
  | .fatomReply _ _ => true
  | .fstoreComplete _ _ => true
  | .engineCommandStart _ => true
  | .engineBytesLand _ _ => true
  | .engineCommandComplete _ => true
  | .engineCommandError _ _ => true
  | .pageInResume _ _ => true
  | .phaseComplete _ _ => true
  | .fenceComplete _ _ => true
  | .matrixCommandStart _ => true
  | .matrixCommandComplete _ => true
  | .matrixExecutionError _ => true
  | .accumulatorClaim _ _ => true
  | .matrixResumeClaim _ _ => true
  | .weftRetire _ _ => true
  | .bandRetire _ => true
  | .launchPortFirstHalf _ _ _ _ => true
  | .launchPortSecondHalf _ _ _ _ => true
  | .launchCounterWrite _ _ => true
  | .schedulerSelection _ => true
  | .gangBypassTimeout _ => true
  | .placementWaitExpiry _ _ => true
  | .commRaiseStart _ => true
  | .commRaiseEnd _ => true
  | .launchAbort _ => true
  | .saveRequest _ _ _ => true
  | .saveDeadlineExpiry _ => true
  | .saveStart _ => true
  | .saveComplete _ => true
  | .flushRequest _ _ => true
  | .contextCreate _ => true
  | .contextDestroy _ => true
  | .farRequestSegmentStage _ => true
  | .ualinkInboundRequest _ => true
  | .regionStageLookup _ => true
  | .blockStageAccess _ => true
  | .atsTranslationResponse _ _ => true
  | .priResponse _ _ => true
  | .atsInvalidateRequest _ _ _ => true
  | .holdQueueRetry _ => true
  | .xlcmdSet _ _ _ => true
  | .xlcmdMove _ _ _ => true
  | .xlcmdRevoke _ _ _ => true
  | .xlcmdClear _ _ _ => true
  | .xlcmdRetire _ _ _ => true
  | .buoyReturn _ => true
  | .moveCopyDone _ => true
  | .moveCopyError _ _ => true
  | .peerTimeout _ => true
  | .creditReapportion _ _ => true
  | .tokenBucketTick _ => true
  | .requestEgress _ _ => true
  | .channelPageWrite _ _ => true
  | .channelItemStart _ => true
  | .channelItemComplete _ => true
  | .channelItemError _ _ => true
  | .communicatorRegister _ _ _ => true
  | .beaconKeyRequest _ _ _ _ => true
  | .collTicketLand _ _ _ => true
  | .collectiveRankStart _ _ _ => true
  | .bankAdderCombine _ _ _ _ _ => true
  | .rankStateReport _ _ _ => true
  | .beaconCancel _ _ _ => true
  | .collectiveTimeout _ => true
  | .memberLossAbort _ => true
  | .transferErrorAbort _ _ => true
  | .collectiveAbortReceived _ _ _ => true
  | .beaconHeartbeat => true
  | .standbyTakeover => true
  | .beaconPromoteCommand => true
  | .lanternRequestRetry _ _ => true
  | .beaconLoss => true
  | .patrolScrub _ _ _ _ => true
  | .berWindowEnd _ _ => true
  | .linkWidthSwitch _ => true
  | .partnerWidthRequest _ _ => true
  | .partnerWidthRefusal _ => true
  | .laneRetrainDone _ _ => true
  | .laneRetrainFail _ _ => true
  | .hbmScheduleDecision _ _ => true
  | .pallocAllocate _ _ _ _ _ _ => true
  | .pallocGuard _ _ _ _ _ => true
  | .pallocFree _ _ _ _ _ => true
  | .pallocQuery _ _ _ _ => true
  | .hbmCrcWindow _ _ => true
  | .hbmRetrainRequest _ => true
  | .hbmRetrainDeadline _ => true
  | .hbmRetrainDone _ _ => true
  | .packageReset => true
  | .firmwareImageLoad _ _ _ => true
  | .svnRaise _ _ => true
  | .attestationRequest _ => true
  | .partitionReset _ => true
  | .powerControlTick _ _ _ => true
  | .currentStep _ => true
  | .thermalWarn _ _ => true
  | .thermalThrottle _ _ => true
  | .thermalShutdown _ _ => true
  | .keeperRegisterWrite _ _ => true
  | .nearFarSideReplyLand _ _ _ => true
  | .linkLayerReplay _ => true
  | .creditReturn _ _ _ => true
  | .communicatorRemove _ => true
  | .partitionForm _ => true
  | .cxlHostWrite _ _ => true

end Sys2Proof
end

