-- ==== Sys2Proof/Machine/Num.lean ====
section
/-! DEFINITION. Number formats, exact values, the round function and the special-value rules (R77 to R92, R100). A finite
exact value is a dyadic number with a sticky mark for what lies below its last bit. -/
namespace Sys2Proof

/-- The exceptions of sr.flags bits 5 to 0 (R93): SAT, IX, UF, OF, DZ, IV. -/
abbrev Exc := BitVec 6

/-- Invalid operation. -/
def Exc.iv : Exc := 1
/-- Division by zero, or a pole. -/
def Exc.dz : Exc := 2
/-- Overflow. -/
def Exc.of : Exc := 4
/-- Underflow. -/
def Exc.uf : Exc := 8
/-- Inexact. -/
def Exc.ix : Exc := 16
/-- Saturated. -/
def Exc.sat : Exc := 32

/-- An exception if a condition holds. -/
def Exc.on (b : Bool) (x : Exc) : Exc := if b then x else 0

/-- The rounding modes (R85), in the order of the rnd field (R22). -/
inductive Rnd where
  | rne | rz | rd | ru | rs
deriving DecidableEq, Repr

/-- The mode of a rnd value. -/
def Rnd.ofCode : Nat → Rnd
  | 0 => .rne | 1 => .rz | 2 => .rd | 3 => .ru | _ => .rs

/-- What the top exponent means (R77): infinity and NaN, the one NaN of E4M3, or nothing special. -/
inductive TopKind where
  | ieee | e4m3 | finite
deriving DecidableEq, Repr

/-- A floating-point format (R77, R83): exponent bits, fraction bits, bias, and whether it has signalling NaNs (R80). -/
structure FInfo where
  eb : Nat
  frac : Nat
  bias : Nat
  top : TopKind
  sig : Bool
deriving DecidableEq, Repr

/-- FP32. -/
def FInfo.f32 : FInfo := ⟨8, 23, 127, .ieee, true⟩
/-- FP16. -/
def FInfo.f16 : FInfo := ⟨5, 10, 15, .ieee, true⟩
/-- BF16. -/
def FInfo.bf16 : FInfo := ⟨8, 7, 127, .ieee, true⟩
/-- The accumulator's FP mode (R83). -/
def FInfo.acc : FInfo := ⟨11, 68, 1023, .ieee, false⟩

/-- The floating-point formats by code (R46); the remaining codes have none and are not used. -/
def Fmt.finfo : Fmt → FInfo
  | .f32 => .f32
  | .f16 => .f16
  | .bf16 => .bf16
  | .e4m3 => ⟨4, 3, 7, .e4m3, false⟩
  | .e5m2 => ⟨5, 2, 15, .ieee, false⟩
  | .e3m2 => ⟨3, 2, 3, .finite, false⟩
  | .e2m3 => ⟨2, 3, 1, .finite, false⟩
  | .e2m1 => ⟨2, 1, 1, .finite, false⟩
  | .e8m0 => ⟨8, 0, 127, .finite, false⟩
  | .s32 | .u32 | .s8 | .s4 => .f32

/-- The bits of an element that count: six of eight for FP6 (R82). -/
def Fmt.used : Fmt → Nat
  | .e3m2 | .e2m3 => 6
  | f => f.width

/-- A finite exact value (-1)^neg x m x 2^e; `sticky`: the magnitude lies strictly above m x 2^e and below
(m + 1) x 2^e. -/
structure Ex where
  neg : Bool
  m : Nat
  e : Int
  sticky : Bool := false
deriving DecidableEq, Repr

/-- A value: NaN (signalling or quiet), an infinity, or a finite exact value. -/
inductive Val where
  | nan (sig : Bool) | inf (neg : Bool) | fin (x : Ex)
deriving DecidableEq, Repr

/-- The smallest normal exponent (R84). -/
def FInfo.emin (F : FInfo) : Int := 1 - F.bias

/-- The largest finite magnitude, as an encoding without its sign (R77). -/
def FInfo.maxMag (F : FInfo) : Nat :=
  match F.top with
  | .ieee => (2 ^ F.eb - 1) * 2 ^ F.frac - 1
  | .e4m3 => 2 ^ (F.eb + F.frac) - 2
  | .finite => 2 ^ (F.eb + F.frac) - 1

/-- The exponent of the largest finite value. -/
def FInfo.emax (F : FInfo) : Int := (F.maxMag / 2 ^ F.frac : Nat) - F.bias

/-- An encoding with its sign. -/
def FInfo.signed (F : FInfo) (neg : Bool) (mag : Nat) : Nat := (if neg then 2 ^ (F.eb + F.frac) else 0) + mag

/-- The encoding of an infinity. -/
def FInfo.infMag (F : FInfo) : Nat := (2 ^ F.eb - 1) * 2 ^ F.frac

/-- The canonical NaN (R80), or +0 where the format has none. -/
def FInfo.nan (F : FInfo) : Nat :=
  match F.top with
  | .ieee => F.infMag + 2 ^ (F.frac - 1)
  | .e4m3 => 2 ^ (F.eb + F.frac) - 1
  | .finite => 0

/-- The value an encoding stands for (R77, R80, R81). -/
def FInfo.unpack (F : FInfo) (n : Nat) : Val :=
  let s := n / 2 ^ (F.eb + F.frac) % 2 == 1
  let e := n / 2 ^ F.frac % 2 ^ F.eb
  let m := n % 2 ^ F.frac
  if F.top = .ieee ∧ e = 2 ^ F.eb - 1 then
    if m = 0 then .inf s else .nan (F.sig && m < 2 ^ (F.frac - 1))
  else if F.top = .e4m3 ∧ e = 2 ^ F.eb - 1 ∧ m = 2 ^ F.frac - 1 then .nan false
  else if e = 0 then .fin ⟨s, m, F.emin - F.frac, false⟩
  else .fin ⟨s, 2 ^ F.frac + m, (e : Int) - F.bias - F.frac, false⟩

/-- Whether rounding goes to the neighbour away from zero (R84): `k` is the neighbour toward zero in units of the
spacing, `r / d` the fraction above it, and `st` a sticky part above r. -/
def roundUp (mode : Rnd) (neg : Bool) (draw k r d : Nat) (st : Bool) : Bool :=
  if r = 0 ∧ st = false then false else
  match mode with
  | .rne => d < 2 * r || (2 * r == d && (st || k % 2 == 1))
  | .rz => false
  | .rd => neg
  | .ru => !neg
  | .rs => draw % 65536 < r * 65536 / d

/-- The exponent floor(log2 |x|) of a nonzero exact value. -/
def Ex.log2 (x : Ex) : Int := x.e + (Nat.log2 x.m : Int)

/-- A delivered result: its bits and the exceptions it raises. -/
structure Res where
  bits : Nat
  exc : Exc
deriving DecidableEq, Repr

/-- The overflow result (R88): what a rounded magnitude above the largest finite value delivers. -/
def FInfo.overflow (F : FInfo) (mode : Rnd) (sat neg : Bool) : Res :=
  if sat then ⟨F.signed neg F.maxMag, Exc.sat ||| Exc.ix⟩ else
  let toInf := match mode with
    | .rne | .rs => true
    | .rz => false
    | .rd => neg
    | .ru => !neg
  match F.top with
  | .ieee => ⟨F.signed neg (if toInf then F.infMag else F.maxMag), Exc.of ||| Exc.ix⟩
  | .e4m3 => ⟨F.nan, Exc.of ||| Exc.ix⟩
  | .finite => ⟨F.signed neg F.maxMag, Exc.of ||| Exc.ix⟩

/-- The round function (R84) on a finite exact value, with the overflow rule of R88 and the flags of R89. The rounded
magnitude is an encoding that counts on past the largest exponent, so that one comparison finds an overflow. Under RZ an E4M3
magnitude from 480 on overflows, as R84 and the table of R88 give, and not from 512 on, as the example after the table says (DESIGN
CHOICE; log 61). -/
def FInfo.round (F : FInfo) (mode : Rnd) (draw : Nat) (sat : Bool) (x : Ex) : Res :=
  if x.m = 0 ∧ x.sticky = false then ⟨F.signed x.neg 0, 0⟩ else
  let e := max x.log2 F.emin
  if F.emax < e then F.overflow mode sat x.neg else
  let sh : Int := e - F.frac - x.e
  let dn := min sh.toNat (Nat.log2 x.m + 20)
  let k := if 0 ≤ sh then x.m / 2 ^ dn else x.m * 2 ^ (-sh).toNat
  let r := if 0 ≤ sh then x.m % 2 ^ dn else 0
  let k' := if roundUp mode x.neg draw k r (2 ^ dn) x.sticky then k + 1 else k
  let mag := (e - F.emin).toNat * 2 ^ F.frac + k'
  let inexact := r != 0 || x.sticky
  if F.maxMag < mag then F.overflow mode sat x.neg else
  ⟨F.signed x.neg mag, Exc.on inexact Exc.ix ||| Exc.on (inexact && decide (mag < 2 ^ F.frac)) Exc.uf⟩

/-- Deliver a value (R88): `iv` says that an input was signalling or the operation invalid. -/
def FInfo.deliver (F : FInfo) (mode : Rnd) (draw : Nat) (sat iv : Bool) : Val → Res
  | .nan _ => ⟨F.nan, Exc.on (iv || F.top == .finite) Exc.iv⟩
  | .inf neg =>
    if sat then ⟨F.signed neg F.maxMag, Exc.sat⟩ else
    match F.top with
    | .ieee => ⟨F.signed neg F.infMag, 0⟩
    | .e4m3 => ⟨F.nan, Exc.iv⟩
    | .finite => ⟨F.signed neg F.maxMag, Exc.iv⟩
  | .fin x =>
    let r := F.round mode draw sat x
    ⟨r.bits, r.exc ||| Exc.on iv Exc.iv⟩

/-- Whether a value is a signalling NaN. -/
def Val.isSig : Val → Bool
  | .nan s => s
  | _ => false

/-- Whether a value is a NaN. -/
def Val.isNan : Val → Bool
  | .nan _ => true
  | _ => false

/-- Whether a value is zero. -/
def Val.isZero : Val → Bool
  | .fin x => x.m == 0
  | _ => false

/-- Whether a value is infinite. -/
def Val.isInf : Val → Bool
  | .inf _ => true
  | _ => false

/-- The sign of a value. -/
def Val.neg : Val → Bool
  | .nan _ => false
  | .inf n => n
  | .fin x => x.neg

/-- A zero. -/
def Ex.zero (neg : Bool) : Ex := ⟨neg, 0, 0, false⟩

/-- The exact value of an integer. -/
def Ex.ofInt (i : Int) : Ex := ⟨decide (i < 0), i.natAbs, 0, false⟩

/-- The exact product. -/
def Ex.mul (x y : Ex) : Ex := ⟨x.neg != y.neg, x.m * y.m, x.e + y.e, false⟩

/-- The signed significand of an exact value at a lower exponent. -/
def Ex.at (x : Ex) (e : Int) : Int := (if x.neg then -1 else 1) * ((x.m * 2 ^ (x.e - e).toNat : Nat) : Int)

/-- The exact sum, with the sign rule of R128 for a zero. -/
def Ex.add (mode : Rnd) (x y : Ex) : Ex :=
  if x.m = 0 ∧ y.m = 0 then Ex.zero (if x.neg == y.neg then x.neg else mode == .rd)
  else if x.m = 0 then y
  else if y.m = 0 then x
  else
    let e := min x.e y.e
    let s := x.at e + y.at e
    if s = 0 then Ex.zero (mode == .rd) else ⟨decide (s < 0), s.natAbs, e, false⟩

/-- The product of two values, and whether it is infinity times zero (R128). -/
def Val.mul (a b : Val) : Val × Bool :=
  if (a.isInf && b.isZero) || (a.isZero && b.isInf) then (.nan false, true) else
  match a, b with
  | .nan _, _ => (.nan false, false)
  | _, .nan _ => (.nan false, false)
  | .inf s, y => (.inf (s != y.neg), false)
  | x, .inf t => (.inf (x.neg != t), false)
  | .fin x, .fin y => (.fin (x.mul y), false)

/-- The sum of two values, and whether it is of opposite infinities (R128). -/
def Val.add (mode : Rnd) (a b : Val) : Val × Bool :=
  match a, b with
  | .nan _, _ => (.nan false, false)
  | _, .nan _ => (.nan false, false)
  | .inf s, .inf t => if s == t then (.inf s, false) else (.nan false, true)
  | .inf s, _ => (.inf s, false)
  | _, .inf t => (.inf t, false)
  | .fin x, .fin y => (.fin (x.add mode y), false)

/-- The value with its sign inverted. -/
def Val.negate : Val → Val
  | .nan s => .nan s
  | .inf n => .inf (!n)
  | .fin x => .fin { x with neg := !x.neg }

/-- Addition in a format (R127, R128). -/
def FInfo.fadd (F : FInfo) (mode : Rnd) (a b : Nat) : Res :=
  let x := F.unpack a
  let y := F.unpack b
  let (v, bad) := x.add mode y
  F.deliver mode 0 false (bad || x.isSig || y.isSig) v

/-- Subtraction (R127, R128). -/
def FInfo.fsub (F : FInfo) (mode : Rnd) (a b : Nat) : Res :=
  let x := F.unpack a
  let y := F.unpack b
  let (v, bad) := x.add mode y.negate
  F.deliver mode 0 false (bad || x.isSig || y.isSig) v

/-- Multiplication (R127, R128). -/
def FInfo.fmul (F : FInfo) (mode : Rnd) (a b : Nat) : Res :=
  let x := F.unpack a
  let y := F.unpack b
  let (v, bad) := x.mul y
  F.deliver mode 0 false (bad || x.isSig || y.isSig) v

/-- Fused multiply-add with one rounding (R127, R128). -/
def FInfo.fma (F : FInfo) (mode : Rnd) (a b c : Nat) : Res :=
  let x := F.unpack a
  let y := F.unpack b
  let z := F.unpack c
  let (p, bad) := x.mul y
  let (v, bad2) := p.add mode z
  F.deliver mode 0 false (bad || bad2 || x.isSig || y.isSig || z.isSig) v

/-- The two-element dot product with a third addend, added exactly and rounded once to FP32 (R135). -/
def fdot2 (F : FInfo) (mode : Rnd) (a b c : Nat) : Res :=
  let a0 := F.unpack (a % 65536)
  let a1 := F.unpack (a / 65536)
  let b0 := F.unpack (b % 65536)
  let b1 := F.unpack (b / 65536)
  let z := FInfo.f32.unpack c
  let (p0, bad0) := a0.mul b0
  let (p1, bad1) := a1.mul b1
  let (s, bad2) := p0.add mode p1
  let (v, bad3) := s.add mode z
  let sig := a0.isSig || a1.isSig || b0.isSig || b1.isSig || z.isSig
  let zeros := p0.isZero && p1.isZero && z.isZero
  let v := if zeros then .fin (Ex.zero (if p0.neg == p1.neg && p1.neg == z.neg then z.neg else mode == .rd)) else v
  FInfo.f32.deliver mode 0 false (bad0 || bad1 || bad2 || bad3 || sig) v

/-- Compare two exact values: x < y. -/
def Ex.lt (x y : Ex) : Bool :=
  let e := min x.e y.e
  decide (x.at e < y.at e)

/-- Whether a < b, for values that are not NaN (R130). -/
def Val.lt : Val → Val → Bool
  | .inf true, .inf t => !t
  | .inf true, _ => true
  | .inf false, _ => false
  | _, .inf t => !t
  | .fin x, .fin y => x.lt y
  | _, _ => false

/-- Minimum and maximum number (R129): -0 orders below +0. -/
def fminmax (wantMax : Bool) (a b : Nat) : Res :=
  let F := FInfo.f32
  let x := F.unpack a
  let y := F.unpack b
  let exc := Exc.on (x.isSig || y.isSig) Exc.iv
  if x.isNan && y.isNan then ⟨F.nan, exc⟩
  else if x.isNan then ⟨b, exc⟩
  else if y.isNan then ⟨a, exc⟩
  else
    let less := x.lt y || (x.isZero && y.isZero && x.neg && !y.neg)
    ⟨if less != wantMax then a else b, exc⟩

/-- An exact value rounded to an integer (R91, R132), and whether that was inexact. -/
def Ex.toInt (mode : Rnd) (x : Ex) : Int × Bool :=
  let sg : Int := if x.neg then -1 else 1
  if 0 ≤ x.e then (sg * ((x.m * 2 ^ x.e.toNat : Nat) : Int), false)
  else
    let dn := min (-x.e).toNat (Nat.log2 x.m + 20)
    let k := x.m / 2 ^ dn
    let r := x.m % 2 ^ dn
    let k' := if roundUp mode x.neg 0 k r (2 ^ dn) false then k + 1 else k
    (sg * (k' : Int), r != 0)

/-- Round to an integral FP32 value (R132). -/
def frnd (mode : Rnd) (a : Nat) : Res :=
  let F := FInfo.f32
  match F.unpack a with
  | .nan s => ⟨F.nan, Exc.on s Exc.iv⟩
  | .inf n => ⟨F.signed n F.infMag, 0⟩
  | .fin x =>
    let i := (x.toInt mode).1
    ⟨(F.round .rne 0 false ⟨x.neg, i.natAbs, 0, false⟩).bits, 0⟩

/-- FSCALE (R133): multiply by a power of two with one rounding. -/
def fscale (mode : Rnd) (a : Nat) (b : Int) : Res :=
  let F := FInfo.f32
  match F.unpack a with
  | .nan s => ⟨F.nan, Exc.on s Exc.iv⟩
  | .inf n => ⟨F.signed n F.infMag, 0⟩
  | .fin x => F.round mode 0 false { x with e := if x.m = 0 then 0 else x.e + b }

/-- FEXPN (R133): floor(log2 |A|) as a signed integer. -/
def fexpn (a : Nat) : W32 × Exc :=
  match FInfo.f32.unpack a with
  | .nan _ => (0x7FFFFFFF, Exc.iv)
  | .inf _ => (0x7FFFFFFF, Exc.iv)
  | .fin x => if x.m = 0 then (0x80000000, Exc.dz) else (BitVec.ofInt 32 x.log2, 0)

/-- FCLASS (R131). -/
def fclass (a : Nat) : W32 :=
  match FInfo.f32.unpack a with
  | .nan s => if s then 0x100 else 0x200
  | .inf n => if n then 0x001 else 0x080
  | .fin x =>
    if x.m = 0 then (if x.neg then 0x008 else 0x010)
    else if x.m < 2 ^ 23 then (if x.neg then 0x004 else 0x020)
    else if x.neg then 0x002 else 0x040

/-- FCMP (R47, R130): the predicate and the exceptions, by condition code 0 to 7 (eq ne lt le gt ge un ord). -/
def fcmp (cond a b : Nat) : Bool × Exc :=
  let x := FInfo.f32.unpack a
  let y := FInfo.f32.unpack b
  let un := x.isNan || y.isNan
  let sig := x.isSig || y.isSig
  let eq := !un && !x.lt y && !y.lt x
  match cond with
  | 0 => (eq, Exc.on sig Exc.iv)
  | 1 => (!eq, Exc.on sig Exc.iv)
  | 2 => (!un && x.lt y, Exc.on un Exc.iv)
  | 3 => (!un && !y.lt x, Exc.on un Exc.iv)
  | 4 => (!un && y.lt x, Exc.on un Exc.iv)
  | 5 => (!un && !x.lt y, Exc.on un Exc.iv)
  | 6 => (un, Exc.on sig Exc.iv)
  | _ => (!un, Exc.on sig Exc.iv)

/-- One step of the stochastic-rounding state (R86). -/
def lfsrNext (s : W32) : W32 := if s.getLsbD 0 then (s >>> 1) ^^^ 0x80200003 else s >>> 1

/-- The state that a seed gives a lane (R86). -/
def lfsrSeed (lane : Nat) (seed : W32) : W32 :=
  let x := seed ^^^ BitVec.ofNat 32 (lane * 0x9E3779B9)
  if x = 0 then 1 else x

/-- To E8M0 (R90). Zero gives 2^-127, which differs from it: IX (R89; DEDUCED, log 66). -/
def toE8m0 : Val → Res
  | .nan _ => ⟨0xFF, Exc.iv⟩
  | .inf _ => ⟨0xFF, Exc.iv⟩
  | .fin x =>
    if x.m = 0 then ⟨0, Exc.ix⟩ else
    let l := max (-127) (min 127 x.log2)
    let exact := x.m == 2 ^ Nat.log2 x.m && x.log2 == l
    ⟨(l + 127).toNat, Exc.on (!exact) Exc.ix⟩

/-- From E8M0 (R78, R90). -/
def ofE8m0 (n : Nat) : Val := if n % 256 = 255 then .nan false else .fin ⟨false, 1, (n % 256 : Nat) - 127, false⟩

/-- The range of an integer format (R79). -/
def Fmt.range : Fmt → Int × Int
  | .u32 => (0, 2 ^ 32 - 1)
  | .s8 => (-128, 127)
  | .s4 => (-8, 7)
  | _ => (-2 ^ 31, 2 ^ 31 - 1)

/-- An integer to its bits. -/
def Fmt.ofInt (f : Fmt) (i : Int) : Nat := (i % 2 ^ f.width).toNat

/-- The integer an encoding of an integer format stands for (R79). -/
def Fmt.toInt (f : Fmt) (n : Nat) : Int :=
  let x := n % 2 ^ f.width
  if f != .u32 && 2 ^ (f.width - 1) ≤ x then (x : Int) - 2 ^ f.width else x

/-- A floating-point value to an integer format (R91). -/
def Fmt.fromVal (f : Fmt) (mode : Rnd) : Val → Res
  | .nan _ => ⟨0, Exc.iv⟩
  | .inf n => ⟨f.ofInt (if n then f.range.1 else f.range.2), Exc.iv⟩
  | .fin x =>
    let (i, inexact) := x.toInt mode
    if i < f.range.1 then ⟨f.ofInt f.range.1, Exc.iv⟩
    else if f.range.2 < i then ⟨f.ofInt f.range.2, Exc.iv⟩
    else ⟨f.ofInt i, Exc.on inexact Exc.ix⟩

/-- Clamp an integer to a range, with SAT when it changed (R91, R92). -/
def clampInt (lo hi i : Int) : Int × Exc :=
  if i < lo then (lo, Exc.sat) else if hi < i then (hi, Exc.sat) else (i, 0)

/-- The value of an element of any format. -/
def Fmt.value (f : Fmt) (n : Nat) : Val :=
  match f with
  | .e8m0 => ofE8m0 n
  | .s32 | .u32 | .s8 | .s4 => .fin (Ex.ofInt (f.toInt n))
  | f => f.finfo.unpack (n % 2 ^ f.used)

/-- One element of a plain conversion (R88 to R91, R137). -/
def convert (d s : Fmt) (mode : Rnd) (draw : Nat) (sat : Bool) (n : Nat) : Res :=
  let v := s.value n
  match d with
  | .e8m0 => toE8m0 v
  | .s32 | .u32 | .s8 | .s4 => d.fromVal mode v
  | d => d.finfo.deliver mode draw sat v.isSig v

/-- The largest exponent of an MX element format (R100). -/
def Fmt.emaxElem : Fmt → Int
  | .e4m3 => 8
  | .e5m2 => 15
  | .e3m2 => 4
  | _ => 2

/-- The shared scale of a block (R100): the E8M0 scale, and the exponent to divide by; no exponent where the block holds a
NaN or an infinity, or only zeros. -/
inductive Shared where
  | bad | zero | scale (e : Int)
deriving DecidableEq, Repr

/-- The shared scale of a block of values (R100). -/
def sharedScale (d : Fmt) (vs : List Val) : Shared :=
  if vs.any (fun v => v.isNan || v.isInf) then .bad else
  let logs := vs.filterMap (fun v => match v with
    | .fin x => if x.m = 0 then none else some x.log2
    | _ => none)
  match logs with
  | [] => .zero
  | l :: ls => .scale (max (-127) (min 127 (ls.foldl max l - d.emaxElem)))

/-- The E8M0 code of a shared scale. -/
def Shared.code : Shared → Nat
  | .bad => 0xFF
  | .zero => 0
  | .scale e => (e + 127).toNat

/-- One element quantised under a shared scale (R100). -/
def quantElem (d : Fmt) (mode : Rnd) (draw : Nat) (sh : Shared) (v : Val) : Res :=
  match sh with
  | .bad => ⟨d.finfo.nan, Exc.iv⟩
  | .zero => ⟨0, 0⟩
  | .scale e =>
    match v with
    | .fin x => d.finfo.deliver mode draw true false (.fin { x with e := if x.m = 0 then 0 else x.e - e })
    | v => d.finfo.deliver mode draw true v.isSig v

end Sys2Proof
end

