-- ==== Sys2Proof/Machine/Special.lean ====
section
/-! DEFINITION. The special functions (R142 to R144). RCP, RSQ and SQRT are exact with a sticky remainder. The others are
evaluated in fixed point with 1024 fraction bits, far beyond where an FP32 result could lie from a rounding boundary
(log 10), and rounded once. -/
namespace Sys2Proof

/-- Fraction bits of the fixed point. -/
def fxBits : Nat := 1024

/-- One in fixed point. -/
def fxOne : Nat := 2 ^ fxBits

/-- Integer square root, bit by bit. -/
def isqrtFrom (n : Nat) : Nat → Nat → Nat
  | 0, acc => acc
  | k + 1, acc =>
    let t := acc + 2 ^ k
    isqrtFrom n k (if t * t ≤ n then t else acc)

/-- Integer square root. -/
def isqrt (n : Nat) : Nat := isqrtFrom n (Nat.log2 n / 2 + 1) 0

/-- The alternating sum t/(2k+1) - t/(d(2k+3)) + ... of an arctangent of an inverse integer. -/
def atanInvSum (d : Nat) : Nat → Nat → Nat → Int
  | 0, _, _ => 0
  | n + 1, k, t => (t / (2 * k + 1) : Nat) - atanInvSum d n (k + 1) (t / d)

/-- Pi in fixed point, by Machin's formula. -/
def fxPi : Nat :=
  (16 * atanInvSum 25 300 0 (fxOne / 5) - 4 * atanInvSum (239 * 239) 100 0 (fxOne / 239)).toNat

/-- The sum z + z^3/3 + z^5/5 + ... from the term t = z^(2k+1). -/
def atanhSum (zz : Nat) : Nat → Nat → Nat → Nat
  | 0, _, _ => 0
  | n + 1, k, t => t / (2 * k + 1) + atanhSum zz n (k + 1) (t * zz / fxOne)

/-- The natural logarithm of p / q for 1 <= p / q < 2, in fixed point. -/
def fxLn (p q : Nat) : Nat :=
  let z := (p - q) * fxOne / (p + q)
  2 * atanhSum (z * z / fxOne) 330 0 z

/-- The natural logarithm of 2 in fixed point. -/
def fxLn2 : Nat := 2 * atanhSum (fxOne / 9) 330 0 (fxOne / 3)

/-- The sum of the exponential series from its term k on. -/
def expSum (r : Nat) : Nat → Nat → Nat → Nat
  | 0, _, _ => 0
  | n + 1, k, t => t + expSum r n (k + 1) (t * r / fxOne / k)

/-- e^r for a fixed-point r in [0, 1). -/
def fxExp (r : Nat) : Nat := expSum r 200 1 fxOne

/-- e^x for a fixed-point x. -/
def fxExpBig (x : Nat) : Nat := fxExp (x % fxLn2) * 2 ^ (x / fxLn2)

/-- The alternating sum of a sine or cosine series: the next divisor is k (k + 1). -/
def trigSum (rr : Nat) : Nat → Nat → Nat → Int
  | 0, _, _ => 0
  | n + 1, k, t => (t : Int) - trigSum rr n (k + 2) (t * rr / fxOne / (k * (k + 1)))

/-- Sine of a fixed-point angle in [0, pi/2). -/
def fxSin (r : Nat) : Int := trigSum (r * r / fxOne) 130 2 r

/-- Cosine of a fixed-point angle in [0, pi/2). -/
def fxCos (r : Nat) : Int := trigSum (r * r / fxOne) 130 1 fxOne

/-- The sine of q quarter turns and an angle. -/
def fxTurn (q r : Nat) : Int :=
  match q % 4 with
  | 0 => fxSin r
  | 1 => fxCos r
  | 2 => -fxSin r
  | _ => -fxCos r

/-- The alternating sum of the error function's series. -/
def erfSum (xx : Nat) : Nat → Nat → Nat → Int
  | 0, _, _ => 0
  | n + 1, k, t => (t / (2 * k + 1) : Nat) - erfSum xx n (k + 1) (t * xx / fxOne / (k + 1))

/-- The magnitude of an exact value in fixed point. -/
def Ex.fx (x : Ex) : Nat := if 0 ≤ x.e + fxBits then x.m * 2 ^ (x.e + fxBits).toNat else x.m / 2 ^ (-(x.e + fxBits)).toNat

/-- A fixed-point number as an irrational exact value. -/
def Ex.ofFx (neg : Bool) (m : Nat) : Ex := ⟨neg, m, -(fxBits : Int), true⟩

/-- A magnitude just below one. -/
def Ex.belowOne (neg : Bool) : Ex := Ex.ofFx neg (fxOne - 1)

/-- A magnitude far below the smallest subnormal. -/
def Ex.tiny : Ex := ⟨false, 1, -2000, true⟩

/-- 1 / x. -/
def rcpEx (x : Ex) : Ex := ⟨x.neg, fxOne / x.m, -x.e - fxBits, fxOne % x.m != 0⟩

/-- Make the exponent even. -/
def Ex.even (x : Ex) : Ex := if x.e % 2 = 0 then x else { x with m := 2 * x.m, e := x.e - 1 }

/-- The square root. -/
def sqrtEx (x : Ex) : Ex :=
  let y := x.even
  let n := y.m * 2 ^ 128
  let s := isqrt n
  ⟨false, s, y.e / 2 - 64, s * s != n⟩

/-- The reciprocal square root. -/
def rsqEx (x : Ex) : Ex :=
  let y := x.even
  let l := Nat.log2 y.m
  ⟨false, isqrt (2 ^ 512 / y.m), -(y.e / 2) - 256, !(y.m == 2 ^ l && l % 2 == 0)⟩

/-- 2^x. -/
def exp2Ex (x : Ex) : Ex :=
  if 8 ≤ x.log2 then (if x.neg then Ex.tiny else ⟨false, 1, 300, false⟩) else
  let i := x.fx / fxOne
  let f := x.fx % fxOne
  if f = 0 then ⟨false, 1, if x.neg then -(i : Int) else i, false⟩
  else if x.neg then
    { Ex.ofFx false (fxExp ((fxOne - f) * fxLn2 / fxOne)) with e := -(i : Int) - 1 - fxBits }
  else { Ex.ofFx false (fxExp (f * fxLn2 / fxOne)) with e := (i : Int) - fxBits }

/-- log2 x of a positive value. -/
def log2Ex (x : Ex) : Ex :=
  let l := Nat.log2 x.m
  let k := x.log2
  if x.m = 2 ^ l then Ex.ofInt k else
  let v : Int := k * (fxOne : Int) + (fxLn x.m (2 ^ l) * fxOne / fxLn2 : Nat)
  Ex.ofFx (decide (v < 0)) v.natAbs

/-- sin x and cos x. -/
def sincosEx (cosine : Bool) (x : Ex) : Ex :=
  let h := fxPi / 2
  let v := fxTurn (x.fx / h + if cosine then 1 else 0) (x.fx % h)
  Ex.ofFx (decide (v < 0) != (x.neg && !cosine)) v.natAbs

/-- tanh x. -/
def tanhEx (x : Ex) : Ex :=
  if 6 ≤ x.log2 then Ex.belowOne x.neg else
  let a := fxExpBig (2 * x.fx)
  Ex.ofFx x.neg ((a - fxOne) * fxOne / (a + fxOne))

/-- The logistic sigmoid. -/
def sigmEx (x : Ex) : Ex :=
  if 8 ≤ x.log2 then (if x.neg then Ex.tiny else Ex.belowOne false) else
  let a := fxExpBig x.fx
  Ex.ofFx false (if x.neg then fxOne * fxOne / (fxOne + a) else a * fxOne / (fxOne + a))

/-- The error function. -/
def erfEx (x : Ex) : Ex :=
  if 3 ≤ x.log2 then Ex.belowOne x.neg else
  let s := (erfSum (x.fx * x.fx / fxOne) 700 0 x.fx).toNat
  Ex.ofFx x.neg (2 * s * fxOne / isqrt (fxPi * fxOne))

/-- The ten special functions, in the order of their opcodes (R142). -/
inductive SFn where
  | rcp | rsq | sqrt | exp2 | log2 | sin | cos | tanh | sigm | erf
deriving DecidableEq, Repr

/-- The results at the infinities and zeros (R144), as FP32 bits and exceptions: negative infinity, -0, +0, positive
infinity. -/
def SFn.special : SFn → (neg zero : Bool) → Nat × Exc
  | .rcp, n, z => (FInfo.f32.signed n (if z then 0x7F800000 else 0), Exc.on z Exc.dz)
  | .sqrt, n, true => (FInfo.f32.signed n 0, 0)
  | .sqrt, n, false => if n then (0x7FC00000, Exc.iv) else (0x7F800000, 0)
  | .rsq, n, true => (FInfo.f32.signed n 0x7F800000, Exc.dz)
  | .rsq, n, false => if n then (0x7FC00000, Exc.iv) else (0, 0)
  | .exp2, n, z => (if z then 0x3F800000 else if n then 0 else 0x7F800000, 0)
  | .log2, n, z => if z then (0xFF800000, Exc.dz) else if n then (0x7FC00000, Exc.iv) else (0x7F800000, 0)
  | .sin, n, z => if z then (FInfo.f32.signed n 0, 0) else (0x7FC00000, Exc.iv)
  | .cos, _, z => if z then (0x3F800000, 0) else (0x7FC00000, Exc.iv)
  | .tanh, n, z => (FInfo.f32.signed n (if z then 0 else 0x3F800000), 0)
  | .sigm, n, z => (if z then 0x3F000000 else if n then 0 else 0x3F800000, 0)
  | .erf, n, z => (FInfo.f32.signed n (if z then 0 else 0x3F800000), 0)

/-- The exact result at a finite nonzero input, or none where it is invalid (R143, R144). -/
def SFn.exact (f : SFn) (x : Ex) : Option Ex :=
  match f with
  | .rcp => some (rcpEx x)
  | .sqrt => if x.neg then none else some (sqrtEx x)
  | .rsq => if x.neg then none else some (rsqEx x)
  | .exp2 => some (exp2Ex x)
  | .log2 => if x.neg then none else some (log2Ex x)
  | .sin => some (sincosEx false x)
  | .cos => some (sincosEx true x)
  | .tanh => some (tanhEx x)
  | .sigm => some (sigmEx x)
  | .erf => some (erfEx x)

/-- A special function of an FP32 value. -/
def SFn.eval (f : SFn) (mode : Rnd) (a : Nat) : Res :=
  let F := FInfo.f32
  match F.unpack a with
  | .nan s => ⟨F.nan, Exc.on s Exc.iv⟩
  | .inf n => ⟨(f.special n false).1, (f.special n false).2⟩
  | .fin x =>
    if x.m = 0 then ⟨(f.special x.neg true).1, (f.special x.neg true).2⟩ else
    match f.exact x with
    | none => ⟨F.nan, Exc.iv⟩
    | some y => F.round mode 0 false y

end Sys2Proof
end

