-- ==== Sys2Proof/Decode.lean ====
section
/-! DEFINITION. The decoder (R16 to R47): total on any words, rejecting by name every reserved encoding with the field
that R36 and R259 report; and the encoder, written from the same tables. Words are natural numbers below 2^64. -/
namespace Sys2Proof

/-- Bits hi down to lo of a word. -/
def bits (w hi lo : Nat) : Nat := w / 2 ^ lo % 2 ^ (hi - lo + 1)

/-- An offending field (R36): its bits, its highest offending bit and the reason of R259. -/
structure Bad where
  hi : Nat
  lo : Nat
  bit : Nat
  reason : Nat
deriving DecidableEq, Repr

/-- A field that must be zero: its offending bits are those that hold 1 (reason 4). -/
def mbz (w hi lo : Nat) : List Bad :=
  if bits w hi lo == 0 then [] else [⟨hi, lo, lo + Nat.log2 (bits w hi lo), 4⟩]

/-- Any other field: where its value is reserved, all its bits offend. -/
def rsv (ok : Bool) (hi lo reason : Nat) : List Bad := if ok then [] else [⟨hi, lo, hi, reason⟩]

/-- The order in which an offending field is reported: highest offending bit first. -/
def Bad.key (b : Bad) : Nat := ((b.bit * 64 + b.hi) * 64 + b.lo) * 16 + b.reason

/-- The field to report (R36). -/
def worst : List Bad → Option Bad
  | [] => none
  | b :: bs => match worst bs with
    | none => some b
    | some c => if b.key < c.key then some c else some b

/-- What a decoder answers: an instruction and its length in words, or the reason and detail of group 1 (R259). -/
inductive Dec where
  | ok (i : Instr) (words : Nat)
  | bad (reason : Nat) (detail : Detail)
deriving DecidableEq, Repr

/-- The detail of group 1 for an offending field of a word; `next` says that it is the F3 word of a ROUTEX (R259). -/
def badDetail (w : Nat) (next : Bool) (b : Bad) : Detail :=
  BitVec.ofNat 96 (w * 2 ^ 32 + (if next then 2 ^ 24 else 0) + b.hi * 2 ^ 16 + b.lo * 2 ^ 8 + b.bit)

/-- Accept an instruction unless a field offends. -/
def Dec.of (w : Nat) (bads : List Bad) (i : Instr) (words : Nat) : Dec :=
  match worst bads with
  | none => .ok i words
  | some b => .bad b.reason (badDetail w false b)

/-- The operand of a 9-bit code below 340 (R18). -/
def Operand.ofCode (n : Nat) : Operand :=
  if n < 256 then .v (Fin.ofNat 256 n) else if n < 320 then .s (Fin.ofNat 64 n)
  else if n < 324 then .x (Fin.ofNat 4 n) else .k (Fin.ofNat 16 (n - 324))

/-- The guard of a 4-bit code (R20). -/
def Guard.ofCode (n : Nat) : Guard := ⟨n / 8 % 2 == 1, Fin.ofNat 8 n⟩

/-- The 4-bit code of a guard. -/
def Guard.code (g : Guard) : Nat := (if g.neg then 8 else 0) + g.p.val

/-- The guard field stands (R20). -/
def guardBad (w lo : Nat) : List Bad := rsv (bits w (lo + 3) lo != 15) (lo + 3) lo 3

/-- A guard field that must hold always. -/
def guardFixed (w lo : Nat) : List Bad := rsv (bits w (lo + 3) lo == 7) (lo + 3) lo 3

/-- A 9-bit operand of any kind (R18). -/
def opAny (w hi lo : Nat) : List Bad := rsv (bits w hi lo < 340) hi lo 5

/-- A 9-bit operand read as 64 bits: a v register is even (R21). -/
def opWide (w hi lo : Nat) : List Bad :=
  rsv (bits w hi lo < 340 && (256 ≤ bits w hi lo || bits w hi lo % 2 == 0)) hi lo 5

/-- A 9-bit operand that must be an s register. -/
def opS (w hi lo : Nat) : List Bad := rsv (256 ≤ bits w hi lo && bits w hi lo < 320) hi lo 5

/-- An s register with an even number. -/
def opSEven (w hi lo : Nat) : List Bad :=
  rsv (256 ≤ bits w hi lo && bits w hi lo < 320 && bits w hi lo % 2 == 0) hi lo 5

/-- An even v register, or an s register. -/
def opAddr (w hi lo : Nat) : List Bad :=
  rsv (bits w hi lo < 320 && (256 ≤ bits w hi lo || bits w hi lo % 2 == 0)) hi lo 5

/-- An iterator record number in an operand field. -/
def opRec (w hi lo : Nat) : List Bad := rsv (bits w hi lo < 16) hi lo 5

/-- A dst field below a bound. -/
def dstBelow (w n : Nat) : List Bad := rsv (bits w 53 46 < n) 53 46 5

/-- A field whose values end at a maximum. -/
def upTo (w hi lo n : Nat) : List Bad := rsv (bits w hi lo ≤ n) hi lo 3

/-! ## F3 words -/

/-- The format of a code below 13. -/
def Fmt.ofBits (n : Nat) : Fmt := (Fmt.ofCode n).getD .f32

/-- A source field as an opcode reads it. -/
def srcOf (k : SrcKind) (n : Nat) : Src :=
  match k with
  | .none => .none
  | .pred => .pred (Fin.ofNat 8 n)
  | .fmt => .fmt (Fmt.ofBits (n / 16 % 16)) (Fmt.ofBits (n % 16))
  | _ => .op (Operand.ofCode n)

/-- The offending bits of a source field (R18, R21, R37, R46). The two format codes of R46 are one field in a report (DESIGN
CHOICE; log 53). -/
def srcBad (op : F3Op) (k : SrcKind) (w hi lo : Nat) : List Bad :=
  match k with
  | .none => mbz w hi lo
  | .pred => rsv (bits w hi lo < 8) hi lo 5
  | .fmt => mbz w hi hi ++ rsv (match Fmt.ofCode (bits w (lo + 7) (lo + 4)), Fmt.ofCode (bits w (lo + 3) lo) with
      | some d, some s => fmtPairOk op d s
      | _, _ => false) (hi - 1) lo 3
  | .i64 => opWide w hi lo
  | _ => opAny w hi lo

/-- The ext field [22:18] by its rule. -/
def extBad (r : ExtRule) (p w : Nat) : List Bad :=
  match r with
  | .zero => mbz w 22 18
  | .carry => mbz w 22 21 ++ rsv (bits w 20 18 < 7) 20 18 3
  | .cond10 => rsv (bits w 22 18 < 10) 22 18 3
  | .cond8 => rsv (bits w 22 18 < 8) 22 18 3
  | .sel => mbz w 22 22
  | .mov => mbz w 22 20
  | .any => []
  | .half => mbz w 22 19
  | .pos => mbz w 22 21 ++ rsv (bits w 20 18 < p) 20 18 3
  | .quad => rsv (bits w 22 18 < 3) 22 18 3
  | .lane => rsv (bits w 22 18 < 4) 22 18 3
  | .vote => mbz w 22 21 ++ rsv (bits w 20 18 < 3) 20 18 3
  | .mask => mbz w 22 22 ++ rsv (bits w 20 18 < 5) 20 18 3

/-- Opcodes whose whole C field must be zero (R42, R112). -/
def F3Op.cZero : F3Op → Bool
  | .pand | .por | .pxor | .pnot | .pmov | .racq | .rrel => true
  | _ => false

/-- Opcodes in which rnd and sat must be zero (R152, R155). -/
def F3Op.rsZero : F3Op → Bool
  | .vote | .ballot | .lanemask => true
  | _ => false

/-- The C field (R22, R37). -/
def cBad (op : F3Op) (d s : Fmt) (w : Nat) : List Bad :=
  if op.cZero then mbz w 26 18
  else if op.info.isMod then
    (if op.rsZero then mbz w 26 24 ++ mbz w 23 23
     else rsv (rndOk op d s (bits w 26 24)) 26 24 3 ++ rsv (satOk op d (bits w 23 23 == 1)) 23 23 3)
    ++ extBad op.info.ext (convP d s) w
  else srcBad op op.info.c w 26 18

/-- The dst and nwb fields (R21, R23). -/
def dstBad (k : DstKind) (w : Nat) : List Bad :=
  match k with
  | .v => if bits w 45 45 == 1 then mbz w 53 46 else []
  | .vpair => rsv (bits w 53 46 % 2 == 0) 53 46 5 ++ (if bits w 45 45 == 1 then mbz w 53 46 else [])
  | .p => dstBelow w 7 ++ rsv (bits w 45 45 == 0) 45 45 3
  | .s => dstBelow w 64 ++ rsv (bits w 45 45 == 0) 45 45 3
  | .lstk => dstBelow w 128 ++ rsv (bits w 45 45 == 0) 45 45 3
  | _ => mbz w 53 46 ++ mbz w 45 45

/-- The target of a code. -/
def Target.ofCode : Nat → Target
  | 1 => .a
  | 2 => .b
  | 3 => .c
  | _ => .none

/-- The code of a target (R17). -/
def Target.code : Target → Nat
  | .none => 0
  | .a => 1
  | .b => 2
  | .c => 3

/-- A route modifier whose class and segment are not reserved (R25). -/
def Route.ofCode (m : Nat) : Route :=
  let seg := Fin.ofNat 7 (m / 64 % 8)
  let d := Fin.ofNat 64 m
  match m / 512 % 8 with
  | 1 => .rotate seg d
  | 2 => .butterfly seg d
  | 3 => .broadcast seg d
  | 4 => .indexed seg d
  | 5 => .quad d
  | 6 => .shift seg d
  | _ => .identity

/-- A nonzero-class modifier that stands at decode (R26). -/
def routeCodeOk (m : Nat) : Bool :=
  m / 512 % 8 != 0 && m / 512 % 8 != 7 && m / 64 % 8 != 7
    && (m / 512 % 8 != 5 || m / 64 % 8 == 1) && (Route.ofCode m).ok

/-- One route and its target (R26, R28): the target names a routable source that no earlier target names, and the modifier
is one that R25 does not reserve. Where a nonzero target stands with modifier 0 the target is the offending field (DESIGN CHOICE;
log 64). -/
def routeBad (op : F3Op) (taken : List Target) (w thi mhi mlo : Nat) : List Bad :=
  let t := Target.ofCode (bits w thi (thi - 1))
  let m := bits w mhi mlo
  if t == .none then rsv (m == 0) mhi mlo 3
  else rsv (targetOk op t && !taken.contains t && m / 512 % 8 != 0) thi (thi - 1) 3 ++ rsv (m == 0 || routeCodeOk m) mhi mlo 3

/-- No source of the opcode may be routed: both route fields must be zero (R42, R112, R152, R155). -/
def F3Op.noRoute (op : F3Op) : Bool := !(targetOk op .a || targetOk op .b || targetOk op .c)

/-- The F3 word of an opcode as a term. -/
def f3Of (op : F3Op) (w : Nat) : F3 :=
  let e := if op.info.isMod then bits w 22 18 else 0
  { dst := Fin.ofNat 256 (bits w 53 46), nwb := bits w 45 45 == 1,
    a := srcOf (srcKindA op e) (bits w 44 36), b := srcOf op.info.b (bits w 35 27),
    c := if op.info.isMod then .none else srcOf op.info.c (bits w 26 18),
    rnd := if op.info.isMod then Fin.ofNat 5 (bits w 26 24) else 0,
    sat := op.info.isMod && bits w 23 23 == 1, ext := Fin.ofNat 32 e,
    guard := Guard.ofCode (bits w 17 14), target := Target.ofCode (bits w 13 12),
    route := if bits w 13 12 == 0 then .identity else Route.ofCode (bits w 11 0) }

/-- Every offending field of an F3 word of an opcode. With a format pair that is not accepted the destination is checked as
one v register (DESIGN CHOICE; log 64). -/
def f3Bad (op : F3Op) (w : Nat) : List Bad :=
  let f := f3Of op w
  let b := srcBad op op.info.b w 35 27
  dstBad (if op.info.dst == .cvt && b.any (fun x => x.reason == 3) then .v else f.dstKind op) w
    ++ srcBad op (srcKindA op f.ext.val) w 44 36 ++ b
    ++ cBad op f.fmts.1 f.fmts.2 w
    ++ (if op.fixedGuard then guardFixed w 14 else guardBad w 14)
    ++ (if op.noRoute then mbz w 13 12 ++ mbz w 11 0 else routeBad op [] w 13 11 0)

/-- The F3 opcode of a code (R37). -/
def F3Op.ofCode (n : Nat) : Option F3Op := F3Op.all.find? (fun o => o.info.opc == n)

/-- The pair half of a code (R48). -/
def PairOp.ofCode (n : Nat) : Option PairOp := PairOp.all.find? (fun o => o.popc == n)

/-- The instruction of an F3 word. -/
def instrOfF3 (op : F3Op) (f : F3) : Instr :=
  match op with
  | .iadd => .iadd f
  | .iaddc => .iaddc f
  | .isub => .isub f
  | .isubb => .isubb f
  | .imul => .imul f
  | .imulh => .imulh f
  | .imulhu => .imulhu f
  | .imad => .imad f
  | .imadw => .imadw f
  | .iadd64 => .iadd64 f
  | .ineg => .ineg f
  | .iabs => .iabs f
  | .imin => .imin f
  | .imax => .imax f
  | .iminu => .iminu f
  | .imaxu => .imaxu f
  | .and => .and f
  | .or => .or f
  | .xor => .xor f
  | .andn => .andn f
  | .not => .not f
  | .shl => .shl f
  | .shr => .shr f
  | .sar => .sar f
  | .rotl => .rotl f
  | .funnel => .funnel f
  | .bfx => .bfx f
  | .bfxu => .bfxu f
  | .bfi => .bfi f
  | .popc => .popc f
  | .clz => .clz f
  | .brev => .brev f
  | .icmp => .icmp f
  | .sel => .sel f
  | .mov => .mov f
  | .lea => .lea f
  | .lstk => .lstk f
  | .dot4i8 => .dot4i8 f
  | .dot4i8Sat => .dot4i8Sat f
  | .dot8i4 => .dot8i4 f
  | .dot8i4Sat => .dot8i4Sat f
  | .pand => .pand f
  | .por => .por f
  | .pxor => .pxor f
  | .pnot => .pnot f
  | .pmov => .pmov f
  | .fadd => .fadd f
  | .fsub => .fsub f
  | .fmul => .fmul f
  | .fmin => .fmin f
  | .fmax => .fmax f
  | .fabs => .fabs f
  | .fneg => .fneg f
  | .fcmp => .fcmp f
  | .fclass => .fclass f
  | .frnd => .frnd f
  | .fscale => .fscale f
  | .fexpn => .fexpn f
  | .hadd2 => .hadd2 f
  | .hmul2 => .hmul2 f
  | .fcvt => .fcvt f
  | .qcvt => .qcvt f
  | .scalex => .scalex f
  | .i2f => .i2f f
  | .f2i => .f2i f
  | .ffmaRne => .ffmaRne f
  | .ffmaRz => .ffmaRz f
  | .ffmaRd => .ffmaRd f
  | .ffmaRu => .ffmaRu f
  | .hfma2F16Rne => .hfma2F16Rne f
  | .hfma2F16Rz => .hfma2F16Rz f
  | .hfma2F16Rd => .hfma2F16Rd f
  | .hfma2F16Ru => .hfma2F16Ru f
  | .hfma2Bf16Rne => .hfma2Bf16Rne f
  | .hfma2Bf16Rz => .hfma2Bf16Rz f
  | .hfma2Bf16Rd => .hfma2Bf16Rd f
  | .hfma2Bf16Ru => .hfma2Bf16Ru f
  | .fdot2F16Rne => .fdot2F16Rne f
  | .fdot2F16Rz => .fdot2F16Rz f
  | .fdot2F16Rd => .fdot2F16Rd f
  | .fdot2F16Ru => .fdot2F16Ru f
  | .fdot2Bf16Rne => .fdot2Bf16Rne f
  | .fdot2Bf16Rz => .fdot2Bf16Rz f
  | .fdot2Bf16Rd => .fdot2Bf16Rd f
  | .fdot2Bf16Ru => .fdot2Bf16Ru f
  | .rcp => .rcp f
  | .rsq => .rsq f
  | .sqrt => .sqrt f
  | .exp2 => .exp2 f
  | .log2 => .log2 f
  | .sin => .sin f
  | .cos => .cos f
  | .tanh => .tanh f
  | .sigm => .sigm f
  | .erf => .erf f
  | .qswap => .qswap f
  | .qbcst => .qbcst f
  | .vote => .vote f
  | .ballot => .ballot f
  | .lanemask => .lanemask f
  | .racq => .racq
  | .rrel => .rrel

/-- The instruction of a pair word: its constructor is the first half. -/
def instrOfPair (p : PairOp) (h : Half) (q : PairOp) (k : Half) : Instr :=
  match p with
  | .iadd => .pairIadd h q k
  | .isub => .pairIsub h q k
  | .imul => .pairImul h q k
  | .imin => .pairImin h q k
  | .imax => .pairImax h q k
  | .iminu => .pairIminu h q k
  | .imaxu => .pairImaxu h q k
  | .and => .pairAnd h q k
  | .or => .pairOr h q k
  | .xor => .pairXor h q k
  | .andn => .pairAndn h q k
  | .shl => .pairShl h q k
  | .shr => .pairShr h q k
  | .sar => .pairSar h q k
  | .mov => .pairMov h q k
  | .fadd => .pairFadd h q k
  | .fsub => .pairFsub h q k
  | .fmul => .pairFmul h q k
  | .fmin => .pairFmin h q k
  | .fmax => .pairFmax h q k
  | .hadd2F16 => .pairHadd2F16 h q k
  | .hmul2F16 => .pairHmul2F16 h q k
  | .hadd2Bf16 => .pairHadd2Bf16 h q k
  | .hmul2Bf16 => .pairHmul2Bf16 h q k
  | .fabs => .pairFabs h q k
  | .fneg => .pairFneg h q k
  | .sIadd => .pairSIadd h q k
  | .sIsub => .pairSIsub h q k
  | .sAnd => .pairSAnd h q k
  | .sOr => .pairSOr h q k
  | .sXor => .pairSXor h q k
  | .sShl => .pairSShl h q k
  | .sShr => .pairSShr h q k
  | .sMov => .pairSMov h q k

/-! ## FI, FB and FM words -/

/-- The FI word of an opcode with an operand in A (R113). -/
def fiOf (w : Nat) : FI :=
  { dst := Fin.ofNat 256 (bits w 53 46), nwb := bits w 45 45 == 1, a := Operand.ofCode (bits w 44 36),
    guard := Guard.ofCode (bits w 35 32), imm := BitVec.ofNat 32 (bits w 31 0) }

/-- The offending fields of an FI word with an operand in A. -/
def fiBad (shift : Bool) (w : Nat) : List Bad :=
  dstBad .v w ++ opAny w 44 36 ++ guardBad w 32 ++ rsv (!shift || bits w 31 0 ≤ 31) 31 0 3

/-- The MOVI word (R110). -/
def moviOf (w : Nat) : FMovi :=
  { dst := Fin.ofNat 256 (bits w 53 46), nwb := bits w 45 45 == 1, sel := Fin.ofNat 3 (bits w 44 36),
    guard := Guard.ofCode (bits w 35 32), imm := BitVec.ofNat 32 (bits w 31 0) }

/-- The offending fields of MOVI. -/
def moviBad (w : Nat) : List Bad :=
  dstBad (if bits w 44 36 == 0 || 2 < bits w 44 36 then .v else .s) w ++ upTo w 44 36 2 ++ guardBad w 32

/-- The offending fields of TRAPI and BKPT (R44, R266, R267). -/
def trapiBad (w : Nat) : List Bad := mbz w 53 46 ++ mbz w 45 45 ++ mbz w 44 36 ++ guardBad w 32

/-- The FB word (R17). -/
def fbOf (k : FBInfo) (w : Nat) : FB :=
  { u := bits w 53 53 == 1, aux := Fin.ofNat 16 (bits w 52 49), guard := Guard.ofCode (bits w 48 45),
    operand := if k.operand == .none then none else some (Operand.ofCode (bits w 44 36)),
    offset := BitVec.ofNat 32 (bits w 31 0) }

/-- The offending fields of an FB word (R29, R41, R114, R115). -/
def fbBad (k : FBInfo) (w : Nat) : List Bad :=
  (if k.u then [] else mbz w 53 53) ++ (if k.aux then [] else mbz w 52 49) ++ guardBad w 45
    ++ (match k.operand with
      | .none => mbz w 44 36
      | .target => opAddr w 44 36
      | .sreg => opS w 44 36
      | .pair => opSEven w 44 36
      | .counter => rsv (bits w 44 36 < 320) 44 36 5)
    ++ mbz w 35 32 ++ (if k.offset then [] else mbz w 31 0)

/-- The FM word (R17). -/
def fmOf (w : Nat) : FM :=
  { data := Fin.ofNat 256 (bits w 53 46), base := Operand.ofCode (bits w 45 37), size := Fin.ofNat 5 (bits w 36 34),
    space := if bits w 33 32 == 0 then .spill else if bits w 33 32 == 1 then .band else .die,
    guard := Guard.ofCode (bits w 31 28), acq := bits w 26 26 == 1, rel := bits w 27 27 == 1,
    offset := BitVec.ofNat 26 (bits w 25 0) }

/-- The offending fields of an FM word (R30, R189, R192). -/
def fmBad (k : FMKind) (w : Nat) : List Bad :=
  rsv (k.sizeOk (bits w 36 34)) 36 34 3 ++ rsv (k.dataOk (bits w 36 34) (bits w 53 46)) 53 46 5
    ++ rsv (bits w 45 37 < 340 && k.baseOk (Operand.ofCode (bits w 45 37))) 45 37 5
    ++ rsv (bits w 33 32 < 3 && k.spaceOk (fmOf w).space) 33 32 3 ++ guardBad w 28
    ++ rsv (k.hintOk (bits w 26 26 == 1) (bits w 27 27 == 1)) 27 26 3

/-! ## FE and FS words -/

/-- The guard of an FE word. -/
def feGuard (w : Nat) : Guard := Guard.ofCode (bits w 18 15)
/-- The dst field of an FE word as a number below n. -/
def feDst (w n : Nat) [NeZero n] : Fin n := Fin.ofNat n (bits w 53 46)
/-- A field as a number below n. -/
def feFin (w hi lo n : Nat) [NeZero n] : Fin n := Fin.ofNat n (bits w hi lo)
/-- An operand field. -/
def feOp (w hi lo : Nat) : Operand := Operand.ofCode (bits w hi lo)
/-- The s register of an operand field. -/
def feS (w hi lo : Nat) : Fin 64 := Fin.ofNat 64 (bits w hi lo)
/-- A flag bit. -/
def feBit (w i : Nat) : Bool := bits w i i == 1
/-- The atomic op of a code (R224). -/
def AtomOp.ofCode : Nat → AtomOp
  | 0 => .add | 1 => .fadd | 2 => .min | 3 => .max | 4 => .and | 5 => .or | 6 => .xor | 7 => .xchg | 8 => .cas
  | _ => .inc
/-- The code of an atomic op. -/
def AtomOp.code : AtomOp → Nat
  | .add => 0 | .fadd => 1 | .min => 2 | .max => 3 | .and => 4 | .or => 5 | .xor => 6 | .xchg => 7 | .cas => 8
  | .inc => 9
/-- The phase scope of a code (R43). -/
def Scope.ofCode : Nat → Scope
  | 0 => .gang | 1 => .die | 2 => .dev | 3 => .pod | _ => .sys
/-- The code of a scope. -/
def Scope.code : Scope → Nat
  | .gang => 0 | .die => 1 | .dev => 2 | .pod => 3 | .sys => 4
/-- The path of a code (R194). -/
def Path.ofCode : Nat → Path
  | 0 => .lane | 1 => .copy | 2 => .chain | 3 => .matrix | _ => .coll
/-- The code of a path. -/
def Path.code : Path → Nat
  | .lane => 0 | .copy => 1 | .chain => 2 | .matrix => 3 | .coll => 4
/-- The scale mode of a code (R239). -/
def ScaleMode.ofCode : Nat → ScaleMode
  | 0 => .none | 1 => .fs | _ => .mx
/-- The code of a scale mode. -/
def ScaleMode.code : ScaleMode → Nat
  | .none => 0 | .fs => 1 | .mx => 2
/-- The ITSET part of a code (R213). -/
def itPartOf (w : Nat) : ItPart :=
  match bits w 14 12 with
  | 0 => .base | 1 => .hdr | 2 => .dim (feFin w 11 8 12) | _ => .clr
/-- The part and dimension fields of ITSET. -/
def ItPart.code : ItPart → Nat
  | .base => 0 | .hdr => 4096 | .dim k => 8192 + 256 * k.val | .clr => 12288

/-- The system register of a number (R270). -/
def SysReg.ofCode (n : Nat) : Option SysReg := SysReg.all.find? (fun r => r.code == n)

/-- The fields A, B and C of an FE word that must be zero. -/
def zA (w : Nat) : List Bad := mbz w 45 37
/-- As zA, for B. -/
def zB (w : Nat) : List Bad := mbz w 36 28
/-- As zA, for C. -/
def zC (w : Nat) : List Bad := mbz w 27 19

/-- The single-word FE commands (R43, R44): their offending fields and their term. In an ITSET with a reserved part (4 to 7) B is
held to be zero and A is not looked at (DESIGN CHOICE; log 53). A FATOM with a reserved op (10 to 15) has its dst checked as that
of .inc (DESIGN CHOICE; log 64). -/
def feDecode (opc w : Nat) : Option (List Bad × Instr) :=
  let g := feGuard w
  let gb := guardBad w 15
  match opc with
  | 0x100 => some (mbz w 53 46 ++ zA w ++ zB w ++ zC w ++ guardFixed w 15 ++ upTo w 14 12 4 ++ mbz w 11 0,
      .phase (Scope.ofCode (bits w 14 12)))
  | 0x101 => some (mbz w 53 46 ++ zA w ++ zB w ++ zC w ++ guardFixed w 15 ++ upTo w 14 12 4 ++ upTo w 11 9 4
      ++ mbz w 8 0, .fenceX (Path.ofCode (bits w 14 12)) (Path.ofCode (bits w 11 9)))
  | 0x102 => some (mbz w 53 46 ++ zA w ++ zB w ++ zC w ++ gb ++ rsv (bits w 9 9 == 0) 9 9 3 ++ mbz w 8 0,
      .bar (feFin w 14 11 16) (feBit w 10) g)
  | 0x103 => some (mbz w 53 46 ++ zA w ++ zB w ++ zC w ++ gb ++ upTo w 14 11 3 ++ rsv (bits w 9 9 == 0) 9 9 3
      ++ mbz w 8 0, .gbar (feFin w 14 11 4) (feBit w 10) g)
  | 0x104 => some (zA w ++ zB w ++ zC w ++ gb ++ rsv (bits w 9 9 == 0 || bits w 14 11 < 4) 14 11 3 ++ mbz w 8 0,
      .bara (feDst w 256) (feFin w 14 11 16) (feBit w 10) (feBit w 9) g)
  | 0x105 => some (mbz w 53 46 ++ opAny w 45 37 ++ zB w ++ zC w ++ gb
      ++ rsv (bits w 9 9 == 0 || bits w 14 11 < 4) 14 11 3 ++ mbz w 8 0,
      .barw (feOp w 45 37) (feFin w 14 11 16) (feBit w 10) (feBit w 9) g)
  | 0x120 => some (dstBelow w 16 ++ (match bits w 14 12 with
        | 0 | 1 => opWide w 45 37 ++ zB w
        | 2 => opAny w 45 37 ++ opWide w 36 28
        | 3 => zA w ++ zB w
        | _ => zB w)
      ++ zC w ++ gb ++ upTo w 14 12 3 ++ (if bits w 14 12 == 2 then upTo w 11 8 11 else mbz w 11 8) ++ mbz w 7 0,
      .itset (feDst w 16) (itPartOf w) (feOp w 45 37) (feOp w 36 28) g)
  | 0x121 => some (dstBelow w 16 ++ opWide w 45 37 ++ zB w ++ zC w ++ gb
      ++ rsv (bits w 14 13 == 1 || bits w 14 13 == 2) 14 13 3 ++ mbz w 12 0,
      .itld (feDst w 16) (feOp w 45 37) (bits w 14 13 == 2) g)
  | 0x122 => some (dstBelow w 64 ++ opRec w 45 37 ++ opRec w 36 28 ++ zC w ++ gb ++ mbz w 13 0,
      .tcopy (feDst w 64) (feFin w 45 37 16) (feFin w 36 28 16) (feBit w 14) g)
  | 0x123 => some (farBad w, .fload (farOf w))
  | 0x124 => some (farBad w, .fstore (farOf w))
  | 0x125 => some (rsv (bits w 53 46 % atomRegs (AtomOp.ofCode (bits w 14 11)) (feBit w 10) == 0) 53 46 5
      ++ opAddr w 45 37 ++ opAny w 36 28 ++ zC w ++ gb ++ upTo w 14 11 9
      ++ rsv (!(feBit w 10 && (bits w 14 11 == 1 || bits w 14 11 == 9))) 10 10 3
      ++ (if feBit w 8 then [] else mbz w 7 2) ++ mbz w 1 0,
      .fatom
        { dst := feDst w 256, a := feOp w 45 37, b := feOp w 36 28, op := AtomOp.ofCode (bits w 14 11),
          w64 := feBit w 10, nr := feBit w 9, ctr := if feBit w 8 then some (feFin w 7 2 64) else none, guard := g })
  | 0x126 => some (dstBelow w 64 ++ opWide w 45 37 ++ zB w ++ zC w ++ gb
      ++ (if feBit w 14 then upTo w 13 11 6 else mbz w 13 11) ++ mbz w 10 0,
      .cwait (feDst w 64) (feOp w 45 37) (if feBit w 14 then some (feFin w 13 11 7) else none) g)
  | 0x127 => some (dstBelow w 64 ++ opWide w 45 37 ++ zB w ++ zC w ++ gb ++ mbz w 14 0,
      .cadd (feDst w 64) (feOp w 45 37) g)
  | 0x128 => some (dstBelow w 64 ++ opWide w 45 37 ++ zB w ++ zC w ++ gb ++ mbz w 14 0,
      .cset (feDst w 64) (feOp w 45 37) g)
  | 0x12A => some (dstBelow w 64 ++ opRec w 45 37 ++ (if feBit w 14 then opWide w 36 28 else opAny w 36 28) ++ zC w
      ++ gb ++ mbz w 13 0, .fill (feDst w 64) (feFin w 45 37 16) (feOp w 36 28) (feBit w 14) g)
  | 0x12B => some (mbz w 53 46 ++ opWide w 45 37 ++ zB w ++ zC w ++ gb
      ++ rsv (bits w 14 11 < 13 && mldwFmtOk (Fmt.ofBits (bits w 14 11))) 14 11 3 ++ upTo w 10 9 2 ++ mbz w 4 0,
      .mldw (feOp w 45 37) (Fmt.ofBits (bits w 14 11)) (ScaleMode.ofCode (bits w 10 9)) (feFin w 8 5 16) g)
  | 0x12C => some (mbz w 53 46 ++ opRec w 45 37 ++ opSEven w 36 28
      ++ rsv (256 ≤ bits w 27 19 && bits w 27 19 < 320 || bits w 27 19 == 324) 27 19 5 ++ gb ++ mbz w 1 0,
      .mloop (feFin w 45 37 16) (Fin.ofNat 32 (bits w 36 28 / 2))
        (if bits w 27 19 == 324 then none else some (feS w 27 19)) (feFin w 14 13 4) (feFin w 12 9 16)
        (feFin w 8 2 128) g)
  | 0x12D => some (mbz w 53 46 ++ zA w ++ zB w ++ zC w ++ gb ++ (if feBit w 12 then mbz w 14 13 else []) ++ mbz w 11 0,
      .mwait (if feBit w 12 then none else some (feFin w 14 13 4)) g)
  | 0x12E => some ((if feBit w 10 then dstBelow w 64 else mbz w 53 46) ++ opRec w 45 37
      ++ (if feBit w 12 then opS w 36 28 else zB w) ++ (if feBit w 11 then opS w 27 19 else zC w) ++ gb
      ++ rsv (!feBit w 10 || feBit w 11) 10 10 3 ++ upTo w 9 7 3 ++ mbz w 2 0,
      .mepi
        { wit := if feBit w 10 then some (feDst w 64) else none, out := feFin w 45 37 16,
          bias := if feBit w 12 then some (feS w 36 28) else none,
          clamp := if feBit w 11 then some (feS w 27 19) else none, tile := feFin w 14 13 4,
          rnd := feFin w 9 7 4, sat := feBit w 6, row0 := feFin w 5 3 8, guard := g })
  | 0x12F => some (mbz w 53 46 ++ zA w ++ zB w ++ zC w ++ gb ++ mbz w 11 0,
      .mzero (feFin w 14 13 4) (feBit w 12) g)
  | 0x130 => some ((if feBit w 12 then rsv (bits w 53 46 % 4 == 0) 53 46 5 else []) ++ opAny w 45 37 ++ opAny w 36 28
      ++ zC w ++ gb ++ (if feBit w 12 then mbz w 11 9 ++ mbz w 8 8 else upTo w 11 9 3) ++ mbz w 7 0,
      .mrd
        { dst := feDst w 256, a := feOp w 45 37, b := feOp w 36 28, tile := feFin w 14 13 4, raw := feBit w 12,
          rnd := feFin w 11 9 4, sat := feBit w 8, guard := g })
  | 0x131 => some (dstBelow w 64 ++ opRec w 45 37 ++ opRec w 36 28
      ++ rsv (256 ≤ bits w 27 19 && bits w 27 19 < 320 && bits w 27 19 % 2 == 0 || bits w 27 19 == 324) 27 19 5 ++ gb
      ++ upTo w 14 11 4 ++ rsv (!(feBit w 10 && (bits w 14 11 == 2 || bits w 14 11 == 4))) 10 10 3
      ++ (if bits w 14 11 == 2 then [] else mbz w 9 4)
      ++ (if bits w 27 19 == 324 then mbz w 3 2 else upTo w 3 2 2) ++ mbz w 1 0,
      .wred
        { ctr := feDst w 64, out := feFin w 45 37 16, inp := feFin w 36 28 16,
          wit := if bits w 27 19 == 324 then none else some (Fin.ofNat 32 (bits w 27 19 / 2), feFin w 3 2 3),
          op := feFin w 14 11 5, last := feBit w 10, bound := feFin w 9 4 64, guard := g })
  | 0x132 => some (dstBelow w 64 ++ opRec w 45 37 ++ opRec w 36 28 ++ opSEven w 27 19 ++ gb ++ upTo w 13 12 2
      ++ mbz w 11 0, .adjb
        { ctr := feDst w 64, grad := feFin w 45 37 16, up := feFin w 36 28 16,
          wit := Fin.ofNat 32 (bits w 27 19 / 2), acc := feBit w 14, space := feFin w 13 12 3, guard := g })
  | 0x133 => some (dstBelow w 64 ++ opAny w 45 37 ++ opRec w 36 28 ++ opRec w 27 19 ++ gb
      ++ (if feBit w 14 then [] else mbz w 13 8) ++ mbz w 7 0,
      .rcopy (feDst w 64) (feOp w 45 37) (feFin w 36 28 16) (feFin w 27 19 16)
        (if feBit w 14 then some (feFin w 13 8 64) else none) g)
  | 0x134 => some (dstBelow w 64 ++ opRec w 45 37 ++ opRec w 36 28 ++ opSEven w 27 19 ++ gb ++ upTo w 14 11 8
      ++ rsv (!feBit w 10 || (5 ≤ bits w 14 11 && bits w 14 11 ≤ 8)) 10 10 3
      ++ (if feBit w 10 then [] else mbz w 9 4) ++ mbz w 3 0,
      .tcopyc
        { ctr := feDst w 64, dst := feFin w 45 37 16, src := feFin w 36 28 16,
          desc := Fin.ofNat 32 (bits w 27 19 / 2), op := feFin w 14 11 9,
          wit := if feBit w 10 then some (feFin w 9 4 64) else none, guard := g })
  | 0x135 => some (dstBelow w 64 ++ opS w 45 37 ++ zB w ++ zC w ++ gb ++ mbz w 14 0,
      .coll (feDst w 64) (feS w 45 37) g)
  | 0x136 => some (dstBelow w 64 ++ opS w 45 37 ++ zB w ++ zC w ++ gb ++ mbz w 14 0,
      .collw (feDst w 64) (feS w 45 37) g)
  | 0x137 => some (dstBelow w 64 ++ opS w 45 37 ++ zB w ++ zC w ++ gb ++ mbz w 14 0,
      .collc (feDst w 64) (feS w 45 37) g)
  | 0x166 => some (dstBelow w 64 ++ opWide w 45 37 ++ zB w ++ zC w ++ gb
      ++ rsv (bits w 14 13 == 1 || bits w 14 13 == 2) 14 13 3 ++ mbz w 12 0,
      .launch (feDst w 64) (feOp w 45 37) (bits w 14 13 == 2) g)
  | 0x167 => some (dstBelow w 64 ++ opWide w 45 37 ++ zB w ++ zC w ++ gb ++ mbz w 12 0,
      .probe (feDst w 64) (feOp w 45 37) (feFin w 14 13 4) g)
  | _ => none
where
  /-- FLOAD and FSTORE (R223). -/
  farOf (w : Nat) : FFar :=
    { dst := feDst w 256, a := feOp w 45 37, b := feOp w 36 28, size := feFin w 14 12 6,
      ctr := if feBit w 11 then some (feFin w 10 5 64) else none, guard := feGuard w }
  /-- Their offending fields. -/
  farBad (w : Nat) : List Bad :=
    rsv (bits w 14 12 > 5 || bits w 53 46 % 2 ^ bits w 14 12 == 0) 53 46 5 ++ opAddr w 45 37 ++ opAny w 36 28 ++ zC w
      ++ guardBad w 15 ++ upTo w 14 12 5 ++ (if feBit w 11 then [] else mbz w 10 5) ++ mbz w 4 0

/-- CHAIN with its literal words (R225, R45). -/
def chainOf (w l0 l1 : Nat) : FChain :=
  { ctr := feDst w 64, out := feFin w 45 37 16, in0 := feFin w 36 28 16,
    in1 := if feBit w 14 then some (feFin w 27 19 16) else none,
    in2 := if feBit w 13 then some (feFin w 12 9 16) else none, ks := feFin w 8 3 64, sat := feBit w 2,
    guard := feGuard w, l0 := BitVec.ofNat 64 l0, l1 := BitVec.ofNat 64 l1 }

/-- The offending fields of CHAIN's FE word. -/
def chainBad (w : Nat) : List Bad :=
  dstBelow w 64 ++ opRec w 45 37 ++ opRec w 36 28 ++ (if feBit w 14 then opRec w 27 19 else zC w) ++ guardBad w 15
    ++ (if feBit w 13 then [] else mbz w 12 9) ++ mbz w 1 0

/-- PPOINT with its literal word (R297). -/
def ppointOf (w l : Nat) : FPpoint :=
  { start0 := BitVec.ofNat 14 (bits w 53 40), len0 := BitVec.ofNat 14 (bits w 39 26),
    live := BitVec.ofNat 32 (bits l 63 32), start1 := BitVec.ofNat 14 (bits l 31 18),
    len1 := BitVec.ofNat 14 (bits l 17 4), ignored := BitVec.ofNat 4 (bits l 3 0) }

/-- The offending fields of PPOINT's FE word. -/
def ppointBad (w : Nat) : List Bad := mbz w 25 19 ++ guardFixed w 15 ++ mbz w 14 0

/-- MFSR and MTSR (R31, R270, R271). -/
def fsDecode (opc w : Nat) : Option (List Bad × Instr) :=
  let g := Guard.ofCode (bits w 20 17)
  let sr := (SysReg.ofCode (bits w 36 21)).getD .tcause
  let common := rsv (SysReg.ofCode (bits w 36 21)).isSome 36 21 3 ++ guardBad w 17 ++ mbz w 16 0
  match opc with
  | 0x160 => some ((match bits w 45 37 with
      | 0 => []
      | 1 => rsv (bits w 53 46 % 2 == 0) 53 46 5
      | 2 => dstBelow w 64
      | _ => rsv false 45 37 5) ++ common,
      .mfsr (match bits w 45 37 with
        | 0 => .v32 (feDst w 256)
        | 1 => .v64 (Fin.ofNat 128 (bits w 53 46 / 2))
        | _ => .s (feDst w 64)) sr g)
  | 0x161 => some (rsv (bits w 53 46 < 2) 53 46 5
      ++ (if bits w 53 46 == 1 then opWide w 45 37 else opAny w 45 37) ++ common,
      .mtsr (bits w 53 46 == 1) (feOp w 45 37) sr g)
  | 0x162 => some (mbz w 53 46 ++ zA w ++ mbz w 36 21 ++ guardFixed w 17 ++ mbz w 16 0, .eret)
  | _ => none

/-! ## Pairs and ROUTEX -/

/-- A half whose lowest bit is word bit b (R32). -/
def halfOf (w b : Nat) : Half :=
  { dst := Fin.ofNat 256 (bits w (b + 23) (b + 16)), src := Operand.ofCode (bits w (b + 15) (b + 7)),
    p := Fin.ofNat 8 (bits w (b + 6) (b + 4)), route := Fin.ofNat 16 (bits w (b + 3) b) }

/-- The offending fields of a half (R21, R48). -/
def halfBad (p : PairOp) (w b : Nat) : List Bad :=
  if p.sForm then
    rsv (bits w (b + 23) (b + 16) < 64) (b + 23) (b + 16) 5
      ++ rsv (256 ≤ bits w (b + 15) (b + 7) && bits w (b + 15) (b + 7) < 340) (b + 15) (b + 7) 5
      ++ rsv (bits w (b + 3) b == 0) (b + 3) b 3
  else opAny w (b + 15) (b + 7)

/-- The bank rules of R34; the second half's fields are reported (log 16). -/
def bankBad (p : PairOp) (h : Half) (q : PairOp) (k : Half) : List Bad :=
  rsv (h.dstBank p != k.dstBank q) 24 17 7
    ++ rsv (h.src.bank == none || h.src.bank != k.src.bank) 16 8 7

/-- A pair word. -/
def pairDecode (w : Nat) : Dec :=
  match PairOp.ofCode (bits w 62 56), PairOp.ofCode (bits w 31 25) with
  | some p, some q =>
    Dec.of w (mbz w 0 0 ++ halfBad p w 32 ++ halfBad q w 1 ++ bankBad p (halfOf w 32) q (halfOf w 1))
      (instrOfPair p (halfOf w 32) q (halfOf w 1)) 1
  | p, q =>
    Dec.of w (mbz w 0 0 ++ rsv p.isSome 62 56 2 ++ rsv q.isSome 31 25 2
      ++ (match p with | some p => halfBad p w 32 | none => [])
      ++ (match q with | some q => halfBad q w 1 | none => [])) .eret 1

/-- The two routes of an FX word. -/
def fxOf (w : Nat) : FX :=
  { route2 := if bits w 41 40 == 0 then .identity else Route.ofCode (bits w 53 42),
    target2 := Target.ofCode (bits w 41 40),
    route3 := if bits w 27 26 == 0 then .identity else Route.ofCode (bits w 39 28),
    target3 := Target.ofCode (bits w 27 26) }

/-- A ROUTEX instruction: the FX word and the word after it in the section, if there is one (R28, R36). Where targets 2 and 3
repeat each other, target 3 is the offending one (DESIGN CHOICE; log 53). -/
def routexDecode (w : Nat) (next : Option Nat) : Dec :=
  match next.bind (fun n => if bits n 63 63 == 0 then (F3Op.ofCode (bits n 62 54)).map (fun o => (n, o)) else none) with
  | none => Dec.of w (rsv false 62 54 6) .eret 2
  | some (n, op) =>
    let f := f3Of op n
    let t2 := Target.ofCode (bits w 41 40)
    let bads := routeBad op [f.target] w 41 53 42 ++ routeBad op [f.target, t2] w 27 39 28 ++ mbz w 25 0
    match worst bads with
    | some b => .bad b.reason (badDetail w false b)
    | none =>
      match worst (f3Bad op n) with
      | some b => .bad b.reason (badDetail n true b)
      | none => .ok (.routex (fxOf w) op f) 2

/-! ## The decoder -/

/-- The words an instruction takes, by its first word (R45). -/
def wordsOf (w : Nat) : Nat :=
  if bits w 63 63 == 1 then 1
  else match bits w 62 54 with
    | 0x129 => 3
    | 0x165 => 2
    | 0x1FF => 2
    | _ => 1

/-- The FI forms of R38 and R39. -/
def fiDecode (opc w : Nat) : Option (List Bad × Instr) :=
  match opc with
  | 0x023 => some (moviBad w, .movi (moviOf w))
  | 0x038 => some (fiBad false w, .iaddImm (fiOf w))
  | 0x039 => some (fiBad false w, .imulImm (fiOf w))
  | 0x03A => some (fiBad false w, .andImm (fiOf w))
  | 0x03B => some (fiBad false w, .orImm (fiOf w))
  | 0x03C => some (fiBad false w, .xorImm (fiOf w))
  | 0x03D => some (fiBad true w, .shlImm (fiOf w))
  | 0x03E => some (fiBad true w, .shrImm (fiOf w))
  | 0x03F => some (fiBad true w, .sarImm (fiOf w))
  | 0x06C => some (fiBad false w, .faddImm (fiOf w))
  | 0x06D => some (fiBad false w, .fmulImm (fiOf w))
  | 0x163 => some (trapiBad w, .trapi (Guard.ofCode (bits w 35 32)) (BitVec.ofNat 32 (bits w 31 0)))
  | 0x164 => some (trapiBad w, .bkpt (Guard.ofCode (bits w 35 32)) (BitVec.ofNat 32 (bits w 31 0)))
  | _ => none

/-- The control words of R41. -/
def fbDecode (opc w : Nat) : Option (List Bad × Instr) :=
  match opc with
  | 0x0C0 => some (fbBad FBOp.bra.info w, .bra (fbOf FBOp.bra.info w))
  | 0x0C1 => some (fbBad FBOp.brx.info w, .brx (fbOf FBOp.brx.info w))
  | 0x0C2 => some (fbBad FBOp.call.info w, .call (fbOf FBOp.call.info w))
  | 0x0C3 => some (fbBad FBOp.callx.info w, .callx (fbOf FBOp.callx.info w))
  | 0x0C4 => some (fbBad FBOp.ret.info w, .ret (fbOf FBOp.ret.info w))
  | 0x0C5 => some (fbBad FBOp.rbset.info w, .rbset (fbOf FBOp.rbset.info w))
  | 0x0C6 => some (fbBad FBOp.rbwait.info w, .rbwait (fbOf FBOp.rbwait.info w))
  | 0x0C7 => some (fbBad FBOp.loop.info w, .loop (fbOf FBOp.loop.info w))
  | 0x0C8 => some (fbBad FBOp.exit.info w, .exit (fbOf FBOp.exit.info w))
  | 0x0C9 => some (fbBad FBOp.yield.info w, .yield (fbOf FBOp.yield.info w))
  | 0x0CA => some (fbBad FBOp.nop.info w, .nop (fbOf FBOp.nop.info w))
  | _ => none

/-- The near-memory words of R42. -/
def fmDecode (opc w : Nat) : Option (List Bad × Instr) :=
  match opc with
  | 0x0E0 => some (fmBad FMOp.ld.kind w, .ld (fmOf w))
  | 0x0E1 => some (fmBad FMOp.st.kind w, .st (fmOf w))
  | 0x0E2 => some (fmBad FMOp.ldu.kind w, .ldu (fmOf w))
  | 0x0E3 => some (fmBad FMOp.stu.kind w, .stu (fmOf w))
  | 0x0E4 => some (fmBad FMOp.aadd.kind w, .aadd (fmOf w))
  | 0x0E5 => some (fmBad FMOp.afadd.kind w, .afadd (fmOf w))
  | 0x0E6 => some (fmBad FMOp.amin.kind w, .amin (fmOf w))
  | 0x0E7 => some (fmBad FMOp.amax.kind w, .amax (fmOf w))
  | 0x0E8 => some (fmBad FMOp.aand.kind w, .aand (fmOf w))
  | 0x0E9 => some (fmBad FMOp.aor.kind w, .aor (fmOf w))
  | 0x0EA => some (fmBad FMOp.axor.kind w, .axor (fmOf w))
  | 0x0EB => some (fmBad FMOp.axchg.kind w, .axchg (fmOf w))
  | 0x0EC => some (fmBad FMOp.acas.kind w, .acas (fmOf w))
  | 0x0ED => some (fmBad FMOp.ainc.kind w, .ainc (fmOf w))
  | _ => none

/-- The single-word formats other than F3. -/
def oneWord (opc w : Nat) : Option (List Bad × Instr) :=
  if opc < 0xC0 then fiDecode opc w
  else if opc < 0xE0 then fbDecode opc w
  else if opc < 0x100 then fmDecode opc w
  else if 0x163 ≤ opc && opc ≤ 0x164 then fiDecode opc w
  else if 0x160 ≤ opc && opc ≤ 0x162 then fsDecode opc w
  else feDecode opc w

/-- Decode the instruction whose first word is w; `rest` are the words after it in its section, in order. -/
def decode (w : Nat) (rest : List Nat) : Dec :=
  if bits w 63 63 == 1 then pairDecode w
  else
    let opc := bits w 62 54
    match F3Op.ofCode opc with
    | some op => Dec.of w (f3Bad op w) (instrOfF3 op (f3Of op w)) 1
    | none =>
      if opc == 0x1FF then routexDecode w rest.head?
      else if opc == 0x129 then
        match rest with
        | l0 :: l1 :: _ => Dec.of w (chainBad w) (.chain (chainOf w l0 l1)) 3
        | _ => Dec.of w (rsv false 62 54 8 ++ chainBad w) .eret 3
      else if opc == 0x165 then
        match rest with
        | l :: _ => Dec.of w (ppointBad w) (.ppoint (ppointOf w l)) 2
        | _ => Dec.of w (rsv false 62 54 8 ++ ppointBad w) .eret 2
      else match oneWord opc w with
        | some (bads, i) => Dec.of w bads i 1
        | none => Dec.of w (rsv false 62 54 1) .eret 1

/-- The words of a byte string, each of eight bytes, the first byte lowest (R10, R16). -/
def wordsOfBytes : List Byte → List Nat
  | b0 :: b1 :: b2 :: b3 :: b4 :: b5 :: b6 :: b7 :: rest =>
    (b0.toNat + b1.toNat * 2 ^ 8 + b2.toNat * 2 ^ 16 + b3.toNat * 2 ^ 24 + b4.toNat * 2 ^ 32 + b5.toNat * 2 ^ 40
      + b6.toNat * 2 ^ 48 + b7.toNat * 2 ^ 56) :: wordsOfBytes rest
  | _ => []

/-- Decode from bytes as they lie in memory; no whole word is no instruction. -/
def decodeBytes (bs : List Byte) : Option Dec :=
  match wordsOfBytes bs with
  | w :: rest => some (decode w rest)
  | [] => none

/-- The bytes of a word, lowest first (R10). -/
def bytesOfWord (w : Nat) : List Byte :=
  (List.range 8).map (fun i => BitVec.ofNat 8 (w / 2 ^ (8 * i)))

/-- The instruction the decoder reads from an instruction whose bits are w, bit 0 being the lowest bit of the first
word; the bits at or above nbits are zero. -/
def decodeTableWord (nbits w : Nat) : Option Instr :=
  let v := w % 2 ^ nbits
  let bs := bytesOfWord (v % 2 ^ 64) ++ bytesOfWord (v / 2 ^ 64 % 2 ^ 64) ++ bytesOfWord (v / 2 ^ 128 % 2 ^ 64)
  match decodeBytes bs with
  | some (.ok i _) => some i
  | _ => none

/-! ## The encoder -/

/-- A field value at its place. -/
def at_ (v lo : Nat) : Nat := v * 2 ^ lo

/-- The 9-bit code of a source field. -/
def Src.code : Src → Nat
  | .none => 0
  | .op o => o.code
  | .pred i => i.val
  | .fmt d s => d.code * 16 + s.code

/-- A Boolean as a bit. -/
def bit (b : Bool) : Nat := if b then 1 else 0

/-- The word of an F3 instruction (R17, R22). -/
def encF3 (op : F3Op) (f : F3) : Nat :=
  at_ op.info.opc 54 + at_ f.dst.val 46 + at_ (bit f.nwb) 45 + at_ f.a.code 36 + at_ f.b.code 27
    + at_ (if op.info.isMod then f.rnd.val * 64 + bit f.sat * 32 + f.ext.val else f.c.code) 18
    + at_ f.guard.code 14 + at_ f.target.code 12 + f.route.code

/-- The word of an FI instruction. -/
def encFI (opc : Nat) (f : FI) : Nat :=
  at_ opc 54 + at_ f.dst.val 46 + at_ (bit f.nwb) 45 + at_ f.a.code 36 + at_ f.guard.code 32 + f.imm.toNat

/-- The word of MOVI. -/
def encMovi (f : FMovi) : Nat :=
  at_ 0x023 54 + at_ f.dst.val 46 + at_ (bit f.nwb) 45 + at_ f.sel.val 36 + at_ f.guard.code 32 + f.imm.toNat

/-- The word of an FB instruction. -/
def encFB (opc : Nat) (f : FB) : Nat :=
  at_ opc 54 + at_ (bit f.u) 53 + at_ f.aux.val 49 + at_ f.guard.code 45
    + at_ (match f.operand with | some o => o.code | none => 0) 36 + f.offset.toNat

/-- The code of a near space (R17). -/
def Space.code : Space → Nat
  | .spill => 0
  | .band => 1
  | .die => 2

/-- The word of an FM instruction. -/
def encFM (opc : Nat) (f : FM) : Nat :=
  at_ opc 54 + at_ f.data.val 46 + at_ f.base.code 37 + at_ f.size.val 34 + at_ f.space.code 32 + at_ f.guard.code 28
    + at_ (bit f.rel) 27 + at_ (bit f.acq) 26 + f.offset.toNat

/-- An FE word from its fields (R17). -/
def encFE (opc dst a b c : Nat) (g : Guard) (eng : Nat) : Nat :=
  at_ opc 54 + at_ dst 46 + at_ a 37 + at_ b 28 + at_ c 19 + at_ g.code 15 + eng

/-- The word of FLOAD or FSTORE. -/
def encFar (opc : Nat) (f : FFar) : Nat :=
  encFE opc f.dst.val f.a.code f.b.code 0 f.guard
    (at_ f.size.val 12 + (match f.ctr with | some k => 2048 + at_ k.val 5 | none => 0))

/-- An FS word. -/
def encFS (opc dst a sr : Nat) (g : Guard) : Nat :=
  at_ opc 54 + at_ dst 46 + at_ a 37 + at_ sr 21 + at_ g.code 17

/-- A half in 31 bits (R32). -/
def encHalf (p : PairOp) (h : Half) : Nat :=
  at_ p.popc 24 + at_ h.dst.val 16 + at_ h.src.code 7 + at_ h.p.val 4 + h.route.val

/-- A pair word. -/
def encPair (p : PairOp) (h : Half) (q : PairOp) (k : Half) : Nat :=
  2 ^ 63 + at_ (encHalf p h) 32 + at_ (encHalf q k) 1

/-- An FX word. -/
def encFX (fx : FX) : Nat :=
  at_ 0x1FF 54 + at_ fx.route2.code 42 + at_ fx.target2.code 40 + at_ fx.route3.code 28 + at_ fx.target3.code 26

/-- RACQ and RREL as F3 terms: every field but the guard is zero (R42). -/
def rTerm : F3 :=
  { dst := 0, nwb := false, a := .none, b := .none, c := .none, rnd := 0, sat := false, ext := 0,
    guard := Guard.always, target := .none, route := .identity }

/-- The words of an instruction, first word first; an event has none. -/
def encode : Instr → List Nat
  | .iadd f => [encF3 .iadd f]
  | .iaddc f => [encF3 .iaddc f]
  | .isub f => [encF3 .isub f]
  | .isubb f => [encF3 .isubb f]
  | .imul f => [encF3 .imul f]
  | .imulh f => [encF3 .imulh f]
  | .imulhu f => [encF3 .imulhu f]
  | .imad f => [encF3 .imad f]
  | .imadw f => [encF3 .imadw f]
  | .iadd64 f => [encF3 .iadd64 f]
  | .ineg f => [encF3 .ineg f]
  | .iabs f => [encF3 .iabs f]
  | .imin f => [encF3 .imin f]
  | .imax f => [encF3 .imax f]
  | .iminu f => [encF3 .iminu f]
  | .imaxu f => [encF3 .imaxu f]
  | .and f => [encF3 .and f]
  | .or f => [encF3 .or f]
  | .xor f => [encF3 .xor f]
  | .andn f => [encF3 .andn f]
  | .not f => [encF3 .not f]
  | .shl f => [encF3 .shl f]
  | .shr f => [encF3 .shr f]
  | .sar f => [encF3 .sar f]
  | .rotl f => [encF3 .rotl f]
  | .funnel f => [encF3 .funnel f]
  | .bfx f => [encF3 .bfx f]
  | .bfxu f => [encF3 .bfxu f]
  | .bfi f => [encF3 .bfi f]
  | .popc f => [encF3 .popc f]
  | .clz f => [encF3 .clz f]
  | .brev f => [encF3 .brev f]
  | .icmp f => [encF3 .icmp f]
  | .sel f => [encF3 .sel f]
  | .mov f => [encF3 .mov f]
  | .movi f => [encMovi f]
  | .lea f => [encF3 .lea f]
  | .lstk f => [encF3 .lstk f]
  | .dot4i8 f => [encF3 .dot4i8 f]
  | .dot4i8Sat f => [encF3 .dot4i8Sat f]
  | .dot8i4 f => [encF3 .dot8i4 f]
  | .dot8i4Sat f => [encF3 .dot8i4Sat f]
  | .pand f => [encF3 .pand f]
  | .por f => [encF3 .por f]
  | .pxor f => [encF3 .pxor f]
  | .pnot f => [encF3 .pnot f]
  | .pmov f => [encF3 .pmov f]
  | .iaddImm f => [encFI 0x038 f]
  | .imulImm f => [encFI 0x039 f]
  | .andImm f => [encFI 0x03A f]
  | .orImm f => [encFI 0x03B f]
  | .xorImm f => [encFI 0x03C f]
  | .shlImm f => [encFI 0x03D f]
  | .shrImm f => [encFI 0x03E f]
  | .sarImm f => [encFI 0x03F f]
  | .fadd f => [encF3 .fadd f]
  | .fsub f => [encF3 .fsub f]
  | .fmul f => [encF3 .fmul f]
  | .fmin f => [encF3 .fmin f]
  | .fmax f => [encF3 .fmax f]
  | .fabs f => [encF3 .fabs f]
  | .fneg f => [encF3 .fneg f]
  | .fcmp f => [encF3 .fcmp f]
  | .fclass f => [encF3 .fclass f]
  | .frnd f => [encF3 .frnd f]
  | .fscale f => [encF3 .fscale f]
  | .fexpn f => [encF3 .fexpn f]
  | .hadd2 f => [encF3 .hadd2 f]
  | .hmul2 f => [encF3 .hmul2 f]
  | .fcvt f => [encF3 .fcvt f]
  | .qcvt f => [encF3 .qcvt f]
  | .scalex f => [encF3 .scalex f]
  | .i2f f => [encF3 .i2f f]
  | .f2i f => [encF3 .f2i f]
  | .ffmaRne f => [encF3 .ffmaRne f]
  | .ffmaRz f => [encF3 .ffmaRz f]
  | .ffmaRd f => [encF3 .ffmaRd f]
  | .ffmaRu f => [encF3 .ffmaRu f]
  | .hfma2F16Rne f => [encF3 .hfma2F16Rne f]
  | .hfma2F16Rz f => [encF3 .hfma2F16Rz f]
  | .hfma2F16Rd f => [encF3 .hfma2F16Rd f]
  | .hfma2F16Ru f => [encF3 .hfma2F16Ru f]
  | .hfma2Bf16Rne f => [encF3 .hfma2Bf16Rne f]
  | .hfma2Bf16Rz f => [encF3 .hfma2Bf16Rz f]
  | .hfma2Bf16Rd f => [encF3 .hfma2Bf16Rd f]
  | .hfma2Bf16Ru f => [encF3 .hfma2Bf16Ru f]
  | .fdot2F16Rne f => [encF3 .fdot2F16Rne f]
  | .fdot2F16Rz f => [encF3 .fdot2F16Rz f]
  | .fdot2F16Rd f => [encF3 .fdot2F16Rd f]
  | .fdot2F16Ru f => [encF3 .fdot2F16Ru f]
  | .fdot2Bf16Rne f => [encF3 .fdot2Bf16Rne f]
  | .fdot2Bf16Rz f => [encF3 .fdot2Bf16Rz f]
  | .fdot2Bf16Rd f => [encF3 .fdot2Bf16Rd f]
  | .fdot2Bf16Ru f => [encF3 .fdot2Bf16Ru f]
  | .faddImm f => [encFI 0x06C f]
  | .fmulImm f => [encFI 0x06D f]
  | .rcp f => [encF3 .rcp f]
  | .rsq f => [encF3 .rsq f]
  | .sqrt f => [encF3 .sqrt f]
  | .exp2 f => [encF3 .exp2 f]
  | .log2 f => [encF3 .log2 f]
  | .sin f => [encF3 .sin f]
  | .cos f => [encF3 .cos f]
  | .tanh f => [encF3 .tanh f]
  | .sigm f => [encF3 .sigm f]
  | .erf f => [encF3 .erf f]
  | .qswap f => [encF3 .qswap f]
  | .qbcst f => [encF3 .qbcst f]
  | .vote f => [encF3 .vote f]
  | .ballot f => [encF3 .ballot f]
  | .lanemask f => [encF3 .lanemask f]
  | .bra f => [encFB 0x0C0 f]
  | .brx f => [encFB 0x0C1 f]
  | .call f => [encFB 0x0C2 f]
  | .callx f => [encFB 0x0C3 f]
  | .ret f => [encFB 0x0C4 f]
  | .rbset f => [encFB 0x0C5 f]
  | .rbwait f => [encFB 0x0C6 f]
  | .loop f => [encFB 0x0C7 f]
  | .exit f => [encFB 0x0C8 f]
  | .yield f => [encFB 0x0C9 f]
  | .nop f => [encFB 0x0CA f]
  | .ld f => [encFM 0x0E0 f]
  | .st f => [encFM 0x0E1 f]
  | .ldu f => [encFM 0x0E2 f]
  | .stu f => [encFM 0x0E3 f]
  | .aadd f => [encFM 0x0E4 f]
  | .afadd f => [encFM 0x0E5 f]
  | .amin f => [encFM 0x0E6 f]
  | .amax f => [encFM 0x0E7 f]
  | .aand f => [encFM 0x0E8 f]
  | .aor f => [encFM 0x0E9 f]
  | .axor f => [encFM 0x0EA f]
  | .axchg f => [encFM 0x0EB f]
  | .acas f => [encFM 0x0EC f]
  | .ainc f => [encFM 0x0ED f]
  | .racq => [encF3 .racq rTerm]
  | .rrel => [encF3 .rrel rTerm]
  | .phase sc => [encFE 0x100 0 0 0 0 Guard.always (at_ sc.code 12)]
  | .fenceX p q => [encFE 0x101 0 0 0 0 Guard.always (at_ p.code 12 + at_ q.code 9)]
  | .bar n ph g => [encFE 0x102 0 0 0 0 g (at_ n.val 11 + at_ (bit ph) 10)]
  | .gbar n ph g => [encFE 0x103 0 0 0 0 g (at_ n.val 11 + at_ (bit ph) 10)]
  | .bara d n ph gang g => [encFE 0x104 d.val 0 0 0 g (at_ n.val 11 + at_ (bit ph) 10 + at_ (bit gang) 9)]
  | .barw t n ph gang g => [encFE 0x105 0 t.code 0 0 g (at_ n.val 11 + at_ (bit ph) 10 + at_ (bit gang) 9)]
  | .itset it part a b g => [encFE 0x120 it.val a.code b.code 0 g part.code]
  | .itld it a die g => [encFE 0x121 it.val a.code 0 0 g (at_ (if die then 2 else 1) 13)]
  | .tcopy ctr d s cls g => [encFE 0x122 ctr.val d.val s.val 0 g (at_ (bit cls) 14)]
  | .fload f => [encFar 0x123 f]
  | .fstore f => [encFar 0x124 f]
  | .fatom f => [encFE 0x125 f.dst.val f.a.code f.b.code 0 f.guard (at_ f.op.code 11 + at_ (bit f.w64) 10 + at_ (bit f.nr) 9
      + (match f.ctr with | some k => 256 + at_ k.val 2 | none => 0))]
  | .cwait ctr a t g => [encFE 0x126 ctr.val a.code 0 0 g
      (match t with | some p => 16384 + at_ p.val 11 | none => 0)]
  | .cadd ctr a g => [encFE 0x127 ctr.val a.code 0 0 g 0]
  | .cset ctr a g => [encFE 0x128 ctr.val a.code 0 0 g 0]
  | .chain f => [encFE 0x129 f.ctr.val f.out.val f.in0.val (match f.in1 with | some n => n.val | none => 0) f.guard
      (at_ (bit f.in1.isSome) 14 + at_ (bit f.in2.isSome) 13 + at_ (match f.in2 with | some n => n.val | none => 0) 9
        + at_ f.ks.val 3 + at_ (bit f.sat) 2), f.l0.toNat, f.l1.toNat]
  | .fill ctr d pat w64 g => [encFE 0x12A ctr.val d.val pat.code 0 g (at_ (bit w64) 14)]
  | .mldw a fmt sm mc g => [encFE 0x12B 0 a.code 0 0 g (at_ fmt.code 11 + at_ sm.code 9 + at_ mc.val 5)]
  | .mloop act ctl scale tile mc row0 g => [encFE 0x12C 0 act.val (256 + 2 * ctl.val)
      (match scale with | some s => 256 + s.val | none => 324) g (at_ tile.val 13 + at_ mc.val 9 + at_ row0.val 2)]
  | .mwait tile g => [encFE 0x12D 0 0 0 0 g (match tile with | some t => at_ t.val 13 | none => 4096)]
  | .mepi f => [encFE 0x12E (match f.wit with | some s => s.val | none => 0) f.out.val
      (match f.bias with | some s => 256 + s.val | none => 0) (match f.clamp with | some s => 256 + s.val | none => 0) f.guard
      (at_ f.tile.val 13 + at_ (bit f.bias.isSome) 12 + at_ (bit f.clamp.isSome) 11 + at_ (bit f.wit.isSome) 10
        + at_ f.rnd.val 7 + at_ (bit f.sat) 6 + at_ f.row0.val 3)]
  | .mzero tile int g => [encFE 0x12F 0 0 0 0 g (at_ tile.val 13 + at_ (bit int) 12)]
  | .mrd f => [encFE 0x130 f.dst.val f.a.code f.b.code 0 f.guard
      (at_ f.tile.val 13 + at_ (bit f.raw) 12 + at_ f.rnd.val 9 + at_ (bit f.sat) 8)]
  | .wred f => [encFE 0x131 f.ctr.val f.out.val f.inp.val (match f.wit with | some (n, _) => 256 + 2 * n.val | none => 324)
      f.guard (at_ f.op.val 11 + at_ (bit f.last) 10 + at_ f.bound.val 4
        + at_ (match f.wit with | some (_, sp) => sp.val | none => 0) 2)]
  | .adjb f => [encFE 0x132 f.ctr.val f.grad.val f.up.val (256 + 2 * f.wit.val) f.guard
      (at_ (bit f.acc) 14 + at_ f.space.val 12)]
  | .rcopy ctr ch d s wt g => [encFE 0x133 ctr.val ch.code d.val s.val g
      (match wt with | some k => 16384 + at_ k.val 8 | none => 0)]
  | .tcopyc f => [encFE 0x134 f.ctr.val f.dst.val f.src.val (256 + 2 * f.desc.val) f.guard
      (at_ f.op.val 11 + (match f.wit with | some k => 1024 + at_ k.val 4 | none => 0))]
  | .coll d k g => [encFE 0x135 d.val (256 + k.val) 0 0 g 0]
  | .collw d k g => [encFE 0x136 d.val (256 + k.val) 0 0 g 0]
  | .collc d k g => [encFE 0x137 d.val (256 + k.val) 0 0 g 0]
  | .mfsr d sr g => [match d with
      | .v32 n => encFS 0x160 n.val 0 sr.code g
      | .v64 n => encFS 0x160 (2 * n.val) 1 sr.code g
      | .s n => encFS 0x160 n.val 2 sr.code g]
  | .mtsr w64 a sr g => [encFS 0x161 (bit w64) a.code sr.code g]
  | .eret => [encFS 0x162 0 0 0 Guard.always]
  | .trapi g imm => [at_ 0x163 54 + at_ g.code 32 + imm.toNat]
  | .bkpt g imm => [at_ 0x164 54 + at_ g.code 32 + imm.toNat]
  | .ppoint f => [at_ 0x165 54 + at_ f.start0.toNat 40 + at_ f.len0.toNat 26 + at_ Guard.always.code 15,
      at_ f.live.toNat 32 + at_ f.start1.toNat 18 + at_ f.len1.toNat 4 + f.ignored.toNat]
  | .launch d a die g => [encFE 0x166 d.val a.code 0 0 g (at_ (if die then 2 else 1) 13)]
  | .probe d a kind g => [encFE 0x167 d.val a.code 0 0 g (at_ kind.val 13)]
  | .routex fx op f => [encFX fx, encF3 op f]
  | .pairIadd h q k => [encPair .iadd h q k]
  | .pairIsub h q k => [encPair .isub h q k]
  | .pairImul h q k => [encPair .imul h q k]
  | .pairImin h q k => [encPair .imin h q k]
  | .pairImax h q k => [encPair .imax h q k]
  | .pairIminu h q k => [encPair .iminu h q k]
  | .pairImaxu h q k => [encPair .imaxu h q k]
  | .pairAnd h q k => [encPair .and h q k]
  | .pairOr h q k => [encPair .or h q k]
  | .pairXor h q k => [encPair .xor h q k]
  | .pairAndn h q k => [encPair .andn h q k]
  | .pairShl h q k => [encPair .shl h q k]
  | .pairShr h q k => [encPair .shr h q k]
  | .pairSar h q k => [encPair .sar h q k]
  | .pairMov h q k => [encPair .mov h q k]
  | .pairFadd h q k => [encPair .fadd h q k]
  | .pairFsub h q k => [encPair .fsub h q k]
  | .pairFmul h q k => [encPair .fmul h q k]
  | .pairFmin h q k => [encPair .fmin h q k]
  | .pairFmax h q k => [encPair .fmax h q k]
  | .pairHadd2F16 h q k => [encPair .hadd2F16 h q k]
  | .pairHmul2F16 h q k => [encPair .hmul2F16 h q k]
  | .pairHadd2Bf16 h q k => [encPair .hadd2Bf16 h q k]
  | .pairHmul2Bf16 h q k => [encPair .hmul2Bf16 h q k]
  | .pairFabs h q k => [encPair .fabs h q k]
  | .pairFneg h q k => [encPair .fneg h q k]
  | .pairSIadd h q k => [encPair .sIadd h q k]
  | .pairSIsub h q k => [encPair .sIsub h q k]
  | .pairSAnd h q k => [encPair .sAnd h q k]
  | .pairSOr h q k => [encPair .sOr h q k]
  | .pairSXor h q k => [encPair .sXor h q k]
  | .pairSShl h q k => [encPair .sShl h q k]
  | .pairSShr h q k => [encPair .sShr h q k]
  | .pairSMov h q k => [encPair .sMov h q k]
  | .intervalPoint | .weftTimesliceSwitch _ | .bandResume _ | .rsseedWrite _ | .registerBlockGrant _
  | .presenceBitSet _ _ _ | .farReplyLand _ _ | .fatomReply _ _ | .fstoreComplete _ _ | .engineCommandStart _
  | .engineBytesLand _ _ | .engineCommandComplete _ | .engineCommandError _ _ | .pageInResume _ _
  | .phaseComplete _ _ | .fenceComplete _ _ | .matrixCommandStart _ | .matrixCommandComplete _
  | .matrixExecutionError _ | .accumulatorClaim _ _ | .matrixResumeClaim _ _ | .weftRetire _ _ | .bandRetire _
  | .launchPortFirstHalf _ _ _ _ | .launchPortSecondHalf _ _ _ _ | .launchCounterWrite _ _ | .schedulerSelection _
  | .gangBypassTimeout _ | .placementWaitExpiry _ _ | .commRaiseStart _ | .commRaiseEnd _ | .launchAbort _
  | .saveRequest _ _ _ | .saveDeadlineExpiry _ | .saveStart _ | .saveComplete _ | .flushRequest _ _
  | .contextCreate _ | .contextDestroy _ | .farRequestSegmentStage _ | .ualinkInboundRequest _
  | .regionStageLookup _ | .blockStageAccess _ | .atsTranslationResponse _ _ | .priResponse _ _
  | .atsInvalidateRequest _ _ _ | .holdQueueRetry _ | .xlcmdSet _ _ _ | .xlcmdMove _ _ _ | .xlcmdRevoke _ _ _
  | .xlcmdClear _ _ _ | .xlcmdRetire _ _ _ | .buoyReturn _ | .moveCopyDone _ | .moveCopyError _ _ | .peerTimeout _
  | .creditReapportion _ _ | .tokenBucketTick _ | .requestEgress _ _ | .channelPageWrite _ _ | .channelItemStart _
  | .channelItemComplete _ | .channelItemError _ _ | .communicatorRegister _ _ _ | .beaconKeyRequest _ _ _ _
  | .collTicketLand _ _ _ | .collectiveRankStart _ _ _ | .bankAdderCombine _ _ _ _ _ | .rankStateReport _ _ _
  | .beaconCancel _ _ _ | .collectiveTimeout _ | .memberLossAbort _ | .transferErrorAbort _ _ 
  | .collectiveAbortReceived _ _ _ | .beaconHeartbeat | .standbyTakeover | .beaconPromoteCommand
  | .lanternRequestRetry _ _ | .beaconLoss | .patrolScrub _ _ _ _ | .berWindowEnd _ _ | .linkWidthSwitch _
  | .partnerWidthRequest _ _ | .partnerWidthRefusal _ | .laneRetrainDone _ _ | .laneRetrainFail _ _
  | .hbmScheduleDecision _ _ | .pallocAllocate _ _ _ _ _ _ | .pallocGuard _ _ _ _ _ | .pallocFree _ _ _ _ _
  | .pallocQuery _ _ _ _ | .hbmCrcWindow _ _ | .hbmRetrainRequest _ | .hbmRetrainDeadline _ | .hbmRetrainDone _ _
  | .packageReset | .firmwareImageLoad _ _ _ | .svnRaise _ _ | .attestationRequest _ | .partitionReset _
  | .powerControlTick _ _ _ | .currentStep _ | .thermalWarn _ _ | .thermalThrottle _ _ | .thermalShutdown _ _
  | .keeperRegisterWrite _ _ | .nearFarSideReplyLand _ _ _ | .linkLayerReplay _ | .creditReturn _ _ _
  | .communicatorRemove _ | .partitionForm _ | .cxlHostWrite _ _ => []

end Sys2Proof
end

