-- ==== Sys2Proof/Machine/Sparse.lean ====
section
/-! DEFINITION. Sparse tables: lists of (key, value) pairs with keys strictly rising. A table with a default lists no
entry equal to it, so that equal tables are equal lists. Memory is such a table of bytes. -/
namespace Sys2Proof.Machine

/-- A table of values by number. -/
abbrev SMap (α : Type) := List (Nat × α)

/-- The entry at a key, if listed. -/
def SMap.find? {α : Type} : SMap α → Nat → Option α
  | [], _ => none
  | (j, v) :: m, k => if k = j then some v else SMap.find? m k

/-- The value at a key, with a default. -/
def SMap.get {α : Type} (m : SMap α) (d : α) (k : Nat) : α := (SMap.find? m k).getD d

/-- Remove a key. -/
def SMap.erase {α : Type} (m : SMap α) (k : Nat) : SMap α := m.filter (fun e => e.1 != k)

/-- Insert or replace an entry. -/
def SMap.insert {α : Type} : SMap α → Nat → α → SMap α
  | [], k, x => [(k, x)]
  | (j, v) :: m, k, x =>
    if k = j then (k, x) :: m else if k < j then (k, x) :: (j, v) :: m else (j, v) :: SMap.insert m k x

/-- Set a value under a default: the default's own value is not listed. -/
def SMap.set {α : Type} [DecidableEq α] (m : SMap α) (d : α) (k : Nat) (x : α) : SMap α :=
  if x = d then SMap.erase m k else SMap.insert m k x

/-- Apply a function to the entry at a key, if listed. -/
def SMap.modify {α : Type} (m : SMap α) (k : Nat) (f : α → α) : SMap α :=
  match SMap.find? m k with
  | some v => SMap.insert m k (f v)
  | none => m

/-- Keep the entries whose key meets a test. -/
def SMap.keep {α : Type} (m : SMap α) (p : Nat → Bool) : SMap α := m.filter (fun e => p e.1)

/-- The values. -/
def SMap.vals {α : Type} (m : SMap α) : List α := m.map (fun e => e.2)

/-- The least number that is not a key above every key. -/
def SMap.fresh {α : Type} (m : SMap α) : Nat := m.foldl (fun a e => max a (e.1 + 1)) 0

/-- Keys rise strictly and lie at or above a bound. -/
def SMap.risingFrom {α : Type} : Nat → SMap α → Bool
  | _, [] => true
  | b, (j, _) :: m => decide (b ≤ j) && SMap.risingFrom (j + 1) m

/-- The canonical form of a table with a default. -/
def SMap.wf {α : Type} [DecidableEq α] (d : α) (m : SMap α) : Bool :=
  SMap.risingFrom 0 m && m.all (fun e => decide (e.2 ≠ d))

/-- Memory: (address, byte) pairs in canonical form. An unlisted address reads 0 (R9, R308; log 8). -/
abbrev Mem := List Host.Cell

/-- What an unlisted address reads as. -/
def Mem.unlisted : Byte := 0

/-- The byte at an address. -/
def Mem.get (m : Mem) (a : Nat) : Byte := SMap.get m Mem.unlisted a

/-- Write one byte. -/
def Mem.set (m : Mem) (a : Nat) (x : Byte) : Mem := SMap.set m Mem.unlisted a x

/-- n bytes from an address upward. -/
def Mem.read (m : Mem) (a n : Nat) : List Byte := (List.range n).map (fun i => Mem.get m (a + i))

/-- Write bytes from an address upward. -/
def Mem.write (m : Mem) (a : Nat) : List Byte → Mem
  | [] => m
  | b :: bs => Mem.write (Mem.set m a b) (a + 1) bs

/-- The canonical form of memory. -/
def Mem.wf (m : Mem) : Bool := SMap.wf Mem.unlisted m

/-- Zero a range of addresses. -/
def Mem.clear (m : Mem) (lo hi : Nat) : Mem := SMap.keep m (fun a => a < lo || hi ≤ a)

/-- The value of bytes, the first byte lowest (R10). -/
def leNat : List Byte → Nat
  | [] => 0
  | b :: bs => b.toNat + 256 * leNat bs

/-- The n low bytes of a value, lowest first (R10). -/
def leBytes : Nat → Nat → List Byte
  | 0, _ => []
  | n + 1, v => BitVec.ofNat 8 v :: leBytes n (v / 256)

end Sys2Proof.Machine
end

