-- ==== Sys2Proof/Machine/Types.lean ====
section
/-! DEFINITION. The pieces of the machine's state that a kernel sees: lanes, wefts, bands, engine commands, and the
places storage lies in. Every type is plain data. -/
namespace Sys2Proof.Machine

/-- A cause of a trap: its group, reason, detail (R257, R259) and whether the second half of a pair raised it. -/
structure Cause where
  group : Nat
  reason : Nat
  detail : Detail
  half : Bool := false
deriving DecidableEq, Repr

/-- Where storage lies: a band's scratchpad, a context's slice on a die, HBM by physical address, host memory by I/O
address, a peer's memory, or the spill storage of a weft, by lane, 64 for its uniform area, which the weft itself holds. -/
inductive Place where
  | band (id : Nat) | die (ctx die : Nat) | hbm | host | peer (acc : Nat) | spill (band weft lane : Nat)
deriving DecidableEq, Repr

/-- A line of 128 bytes with presence bits (R185). -/
structure Line where
  place : Place
  line : Nat
deriving DecidableEq, Repr

/-- What a parked lane waits for (R58): absent lines (R186), its extended block (R176), a barrier generation (R208),
a counter (R219), matrix commands (R241), a collective (R345), or the page-in of its code (R117, R264). -/
inductive Park where
  | lines (ls : List Line)
  | block
  | barrier (gang : Bool) (n : Nat) (tok : BitVec 16) (ph : Bool)
  | counter (c : Nat) (target : W64)
  | matrix (tile : Option Nat) (before : Nat)
  | coll (slot : Nat) (number : BitVec 48)
  | code
deriving DecidableEq, Repr

/-- The lane states of R58; `trapped` is a lane of a sub-weft that may issue in it (R261). -/
inductive LaneState where
  | live | waiting (b : Fin 16) | parked (why : Park) | trapped | exited | unlaunched
deriving DecidableEq, Repr

/-- One lane: its PC-table entry (R58), its run (0 is the main run, R261), its trap registers (R257), its
stochastic-rounding state (R86) and breakpoint record (R267). -/
structure Lane where
  pc : W64
  state : LaneState
  yield : Bool
  starve : Nat
  helper : Bool
  run : Nat
  tcause : W64
  tdet : Detail
  trappc : W64
  tresume : W64
  rs : W32
  bkpt : W64
deriving DecidableEq, Repr

/-- A latch entry (R23): values by lane, its width, the word that pushed it (R68), and the near reply it waits for. -/
structure Latch where
  vals : SMap W64
  wide : Bool
  pc : W64
  seq : Nat
  reply : Option Nat
deriving DecidableEq, Repr

/-- The latch chain under way (R68): its head and the number of the head among the bundle's words. -/
structure ChainSt where
  pc : W64
  seq : Nat
deriving DecidableEq, Repr

/-- An armed reconvergence barrier (R122): its members and join address. -/
structure RBar where
  members : W64
  join : W64
deriving DecidableEq, Repr

/-- A near, far-side reply in flight (R65): the v registers by register * 64 + lane and the s register it writes. -/
structure NearReply where
  id : Nat
  v : List (Nat × W32)
  s : Option (Nat × W64)
deriving DecidableEq, Repr

/-- A register that awaits a reply: v registers 0 to 255 with the lane, s registers 256 to 319. -/
structure Await where
  key : Nat
  lane : Nat
  req : Nat
deriving DecidableEq, Repr

/-- A lane-path store to die scratchpad that is not published yet (R197, R198). -/
structure DieStore where
  addr : Nat
  bytes : List Byte
deriving DecidableEq, Repr

/-- A FENCE.X that has not completed (R204): its number, its two paths and the accesses issued before it. -/
structure Fence where
  id : Nat
  p : Path
  q : Path
  before : Nat
deriving DecidableEq, Repr

/-- What a completed FENCE.X orders (R203): the writes that a weft of a band made on path p, published up to a time, before
accesses on path q. `fence` is the FENCE.X while it has not completed; `heard` the stamp from which the accesses of the weft that
holds this are issued after it: its own FENCE.X, or a signal. -/
structure Fenced where
  band : Nat
  weft : Nat
  p : Path
  q : Path
  time : Nat
  fence : Option Nat
  heard : Nat
deriving DecidableEq, Repr

/-- A write of band scratchpad that a read on another path may be performed before (R203): its bytes by address in rising order, each
with its value before, the band, weft and path that made it, and its time. -/
structure Old where
  cells : List (Nat × Byte)
  who : Nat × Nat × Path
  time : Nat
deriving DecidableEq, Repr

/-- A PHASE that has not completed (R199). `ends`: its completion ends the band's restartability (R306). `launch`: the
publish and wait of a LAUNCH (R293), with its record. -/
structure PhaseSt where
  scope : Scope
  before : Nat
  refresh : Bool
  ends : Bool
  launch : Option (Nat × List Byte)
deriving DecidableEq, Repr

/-- Why a weft issues nothing: stopped for a save at a PPOINT or in full (R298, R299), or restored and waiting for its
extended block (R302). -/
inductive Stop where
  | ppoint (f : FPpoint) | full | block
deriving DecidableEq, Repr

/-- A lane that raised group 19, with what its handler will find when the host resumes the band, and the run of the sub-weft
that its word formed (R260, R264). -/
structure LateTrap where
  run : Nat
  lane : Nat
  cause : Cause
  trappc : W64
  resume : W64
  chain : Bool
deriving DecidableEq, Repr

/-- One weft. `frozen`: a band stop has taken it; `slack`: the words it may still issue before a stop of its band takes it
(R268; log 5); `begun`: a PHASE or a FENCE.X that it has begun waits for the stores whose error it must raise (R217); `spent`: the slot turns to another ready weft first (R63). -/
structure Weft where
  width : Nat
  slot : Nat
  lanes : List Lane
  v : SMap W32
  p : SMap W64
  s : SMap W64
  uni : List Nat
  await : List Await
  failed : SMap Cause
  replies : List NearReply
  latches : List Latch
  bundle : W64
  run : Nat
  reform : Bool
  issued : Nat
  seq : Nat
  chain : Option ChainSt
  rb : SMap RBar
  flags : W64
  hangk : W64
  wlast : W64
  ext : Bool
  subs : Nat
  snap : Nat
  seen : SMap Nat
  fenced : List Fenced
  wbuf : List DieStore
  phase : Option PhaseSt
  fences : List Fence
  held : Option Cause
  stop : Option Stop
  frozen : Bool
  slack : Nat
  begun : Bool
  spent : Bool
  spill : Mem
  uspill : Mem
  fetched : SMap W64
  late : List LateTrap
  retired : Bool
  slotCycles : Nat
deriving DecidableEq, Repr

/-- A dimension of an iterator record (R209). -/
structure Dim where
  stride : W64
  extent : W32
  index : W32
deriving DecidableEq, Repr

/-- An iterator record as its image holds it (R210): base, header double, the zero bits, and twelve dimensions. `ver`
counts the ITSET and ITLD writes, for R217's rule about a record written since issue. -/
structure Rec where
  base : W64
  hdr : W64
  zero : BitVec 128
  dims : List Dim
  ver : Nat
deriving DecidableEq, Repr

/-- A band or gang barrier (R207). `arrived` holds weft * 64 + lane, for a gang barrier with band * 4096 added; `carried` what the
fences of the wefts that have arrived order, and `done` the same for complete generations (R203). -/
structure Barrier where
  gen : BitVec 16
  arrived : List Nat
  carried : List Fenced
  done : SMap (List Fenced)
deriving DecidableEq, Repr

/-- The latched weight tile image (R227, R239): format, scale mode, address Wcur, the image and its scales. -/
structure WeightLatch where
  fmt : Fmt
  sm : ScaleMode
  wcur : W64
  image : List Byte
  scales : List Byte
deriving DecidableEq, Repr

/-- A matrix command (R238): as decoded, with its operands captured at issue. -/
inductive MKind where
  | mldw (addr : W64) (fmt : Fmt) (sm : ScaleMode) (mc : Nat)
  | mloop (act : Rec) (n : Nat) (incA incS incW : Int) (scale : Option W64) (tile : Nat) (mc row0 : Nat)
  | mepi (out : Nat × Rec) (bias : Option W64) (clamp : Option W64) (wit : Option (W64 × W64)) (tile rnd : Nat)
      (sat : Bool) (row0 : Nat)
  | mzero (tile : Nat) (int : Bool)
  | mrd (lanes : List (Nat × Nat × Nat)) (dst : Nat) (raw : Bool) (tile rnd : Nat) (sat : Bool)
deriving DecidableEq, Repr

/-- A queued matrix command, with the weft that issued it and its place in issue order. `cells` holds the output bytes of an MEPI
as (address, value, bits written), the latest first, and `wits` its witness rows: its completion publishes them (R198). -/
structure MCmd where
  id : Nat
  weft : Nat
  kind : MKind
  started : Bool
  progress : Nat
  cells : List (Nat × Nat × Nat)
  wits : List (Nat × Nat)
deriving DecidableEq, Repr

/-- A multicast fetch that another may join (R236): its gang, group, place, bytes and time. -/
structure Mcast where
  gang : Nat
  group : Nat
  place : Place
  off : Nat
  bytes : List Byte
  at_ : Nat
deriving DecidableEq, Repr

/-- Whether a band issues: resident, stopped (R268), saving or saved (R298 to R302), retired (R291). -/
inductive RunState where
  | resident | saving | saved | retired
deriving DecidableEq, Repr

/-- Who asks for a save (R295): the scheduler for the head of a queue, with the bands it has tried for it already; the host;
or the host's debugger. -/
inductive SaveWho where
  | scheduler (part queue : Nat) (tried : List Nat)
  | host
  | debugger
deriving DecidableEq, Repr

/-- A pending save (R295, R299): when it was requested, whether its deadline has passed, whether it is a flush and for whom
(R307), and who asked for it. -/
structure SaveReq where
  at_ : Nat
  full : Bool
  flush : Bool
  flushWho : Nat
  who : SaveWho
deriving DecidableEq, Repr

/-- One band (R279, R288). -/
structure Band where
  launch : Nat
  ctx : Nat
  part : Nat
  core : Nat
  gang : Nat
  gangPos : Nat
  gangSize : Nat
  index : Nat
  x : Nat
  y : Nat
  z : Nat
  width : Nat
  base8 : Nat
  ext8 : Nat
  spillBytes : Nat
  padBytes : Nat
  prio : Nat
  pclass : Nat
  comm : Bool
  trapEntry : W64
  since : Nat
  wefts : List Weft
  pad : Mem
  signals : SMap (List Fenced)
  old : List Old
  absent : SMap Nat
  ctr : SMap W64
  ctrFault : SMap Cause
  it : SMap Rec
  bar : SMap Barrier
  mq : List MCmd
  mfault : Option Cause
  restartable : Bool
  wroteFar : Bool
  stopped : Bool
  state : RunState
  save : Option SaveReq
  image : Nat
deriving DecidableEq, Repr

/-- A gang: its members by position, and its gang barriers (R207). -/
structure Gang where
  members : List Nat
  bar : SMap Barrier
deriving DecidableEq, Repr

/-- The operation of a copy or chain command, its operands captured at issue (R215). `hdr` is the witness header that an
ADJB has read (R254). -/
inductive CmdKind where
  | tcopy (cls : Bool)
  | fill (pat : W64) (w64 : Bool)
  | chain (f : FChain) (k0 k1 : W32)
  | wred (op : Nat) (last : Bool) (bound : W64) (wit : Option (Nat × W64 × W64))
  | adjb (acc : Bool) (space : Nat) (wit serial : W64) (hdr : Option (W64 × W64))
  | item (ch : Nat) (wait : Option (Nat × BitVec 48))
deriving DecidableEq, Repr

/-- What an engine does in one step: it writes the output elements that touch a 32-byte sector (R205) there, or for ADJB one upstream
entry's gradients (R255); a witness's marker, entries of its body, or its header (R251); or it reads the header (R254). -/
inductive Work where
  | out (sec : Nat) (ks : List Nat)
  | entry (k : Nat)
  | mark
  | body (lo hi : Nat)
  | head
  | hdrRead
deriving DecidableEq, Repr

/-- A queued or running command of a copy or chain engine or a channel. `recs` holds (record number, record as captured), the
written record first; `snap` its weft's snapshot point at issue; `todo` what it has not done, in its order; `flight` the far
writes under way, each with the bits that its landing delivers; `loads` the 32-byte sectors asked of far memory, by request,
and `got` the sectors read, each by its key; `wits` the witness entries of the outputs done; `bits` the bits delivered;
`lines` the lines whose presence bits it cleared, each with the works that still touch it (R185); `made` the elements across two
sectors that have been written in one of them, and `carry` their bytes in the other; `cut` says that its first work is the rest of
a sector; and `whole` that it reads all of its source before it writes (R221). -/
structure Cmd where
  band : Nat
  weft : Nat
  stamp : Nat
  path : Path
  ctr : Nat
  recs : List (Nat × Rec)
  kind : CmdKind
  snap : Nat
  started : Bool
  todo : List Work
  flight : List (Nat × Nat)
  loads : List (Nat × Nat)
  got : SMap (List Byte)
  wits : List (Nat × Nat)
  bits : Nat
  lines : List (Nat × Line)
  made : List Nat
  carry : SMap (Nat × Nat)
  cut : Bool
  whole : Bool
deriving DecidableEq, Repr

/-- A poisoned codeword of HBM (R362): its address, and which of its two sectors the command that wrote one of them last has
covered whole, with the command's number. -/
structure Poison where
  word : Nat
  half : Option (Nat × Bool)
deriving DecidableEq, Repr

/-- What the machine meets by chance (log 58): a stage's cache lacks the entry that a request needs (R316), or a core the code
that a weft issues next, or the beacon reads or writes its state (R371); or a fault that a unit's check finds (R360 to R363): one that is corrected; two wrong bits in
a memory of a lantern, the keeper, a port or CXL; in a lane's register, in a word of a scratchpad, of spill storage or of HBM, in
the tiles or latch that a band's matrix command uses, or in a stage's entry or hold queue for a request; a wrong residue in a step of MLOOP or in the word that a slot issues, once or again
on its replay; or wrong parity in the control of a core or of a shared unit; or the beacon's standby on
another device answers no more, or answers again (R339). -/
inductive Chance where
  | miss (req : Nat)
  | codeMiss (band weft : Nat)
  | beacon (phys : Nat)
  | masked (unit inst : Nat)
  | unmasked (unit inst : Nat)
  | register (band weft key lane : Nat)
  | word (place : Place) (addr : Nat)
  | tiles (band : Nat)
  | entry (req : Nat)
  | arrayResidue (band : Nat) (again : Bool)
  | wordResidue (core slot : Nat) (lanes : W64) (again : Bool)
  | control (unit inst : Nat)
  | standby (answers : Bool)
deriving DecidableEq, Repr

/-- One part of the model's own order of agents (log 2): an issue slot's turn, an event, time that passes, or a chance. -/
inductive Turn where
  | slot (core slot : Nat)
  | event (e : Instr)
  | wait (ns : Nat)
  | chance (c : Chance)
deriving DecidableEq, Repr

/-- A published write (R198): when, where, which bytes with their old and new values; for a write published under a PHASE
the scope, band and gang of its publisher (R199); the band, weft and path that made it (R202, R203); and whether presence
bits order it before later reads (R203). -/
structure Pub where
  time : Nat
  place : Place
  cells : List (Nat × Byte × Byte)
  scope : Option (Scope × Nat × Nat)
  who : Option (Nat × Nat × Path)
  present : Bool
deriving DecidableEq, Repr

end Sys2Proof.Machine
end

