-- ==== Sys2Proof/Machine/KReg.lean ====
section
/-! DEFINITION. The keeper's registers (R11 and the layout tables): the reset value of each, and its access masks. A
register is kept only where it differs from its reset value. -/
namespace Sys2Proof

/-- A mask of bits hi down to lo. -/
def maskBits (hi lo : Nat) : W64 := BitVec.ofNat 64 (2 ^ (hi + 1) - 2 ^ lo)

/-- The reset value of a register (its table's Reset column). `plink.lanesup` reads 0 at reset: no port carries traffic
before stage 4 of boot (R388; log 14). -/
def KReg.reset : KReg → W64
  | .psched _ => BitVec.ofNat 64 (50 * 2 ^ 8 + 8)
  | .psave _ => BitVec.ofNat 64 (2 ^ 32 + 200)
  | .hbmdl _ => BitVec.ofNat 64 (25000 * 2 ^ 48 + 2500 * 2 ^ 32 + 125 * 2 ^ 16 + 250)
  | .ptmo _ => 100
  | .pberr _ => BitVec.ofNat 64 (10000 * 2 ^ 44 + 1000 * 2 ^ 24)
  | .pbeacon => 10000
  | .pscrub _ => BitVec.ofNat 64 (2 ^ 63 + 8)
  | .hbmret _ => BitVec.ofNat 64 (64 * 2 ^ 48 + 10 * 2 ^ 32)
  | .pwrlim => BitVec.ofNat 64 (2400 * 2 ^ 48 + 5000 * 2 ^ 32 + 10 * 2 ^ 16)
  | .pwrstat => BitVec.ofNat 64 (1400 * 2 ^ 16)
  | .ptherm _ => BitVec.ofNat 64 (95 * 2 ^ 48 + 105 * 2 ^ 40 + 115 * 2 ^ 32)
  | _ => 0

/-- The bits a write sets (RW and WO fields). -/
def KReg.rw : KReg → W64
  | .psched _ => maskBits 40 8 ||| maskBits 3 0
  | .psave _ => maskBits 63 40 ||| maskBits 32 32 ||| maskBits 15 0
  | .pseg _ => maskBits 55 12 ||| maskBits 5 0
  | .hbmdl _ => maskBits 63 0
  | .bucket _ _ => maskBits 63 56 ||| maskBits 51 32 ||| maskBits 19 0
  | .pexport => maskBits 55 16 ||| maskBits 0 0
  | .xlcmd _ 1 => maskBits 63 53
  | .xlcmd _ _ => maskBits 63 0
  | .ptmo _ => maskBits 19 0
  | .pberr _ => maskBits 63 24
  | .pbeacon => maskBits 53 32 ||| maskBits 23 0
  | .errcnt unit _ => if unit = 9 then maskBits 63 0 else maskBits 63 16
  | .pscrub _ => maskBits 63 63 ||| maskBits 15 0
  | .mdcnt _ => maskBits 63 0
  | .hbmret _ => maskBits 63 32
  | .palloc _ => maskBits 63 20
  | .evbase => maskBits 63 12 ||| maskBits 4 0
  | .evack => maskBits 31 0
  | .pwrlim => maskBits 63 32 ||| maskBits 23 16
  | .ptherm _ => maskBits 55 40
  | _ => 0

/-- The bits that read zero whatever was written (WO). -/
def KReg.wo : KReg → W64
  | .xlcmd _ _ => maskBits 63 0
  | .palloc _ => maskBits 63 0
  | _ => 0

/-- What a read of a register gives from the value it holds (R11). -/
def KReg.read (r : KReg) (v : W64) : W64 := v &&& ~~~ r.wo

/-- The instances of a unit code (R2, R383). -/
def unitCount : Nat → Nat
  | 0x01 | 0x02 | 0x04 | 0x05 | 0x06 | 0x07 | 0x08 | 0x10 => 160
  | 0x03 | 0x0F | 0x11 => 4
  | 0x09 | 0x0A => 12
  | 0x0B | 0x0D => 16
  | 0x0C | 0x0E => 1
  | _ => 0

/-- Whether a package has the register (R1 to R3, R365, R375): its partition, die, port, stack or unit exists. -/
def KReg.present : KReg → Bool
  | .psched p | .psave p | .pseg p | .hbmdl p => decide (p < 20)
  | .bucket p n | .tokens p n => decide (p < 20) && decide (n < 16)
  | .xlcmd d k => decide (d < 4) && decide (k < 4)
  | .xlstat d | .ptherm d => decide (d < 4)
  | .ptmo n | .pberr n | .plink n => decide (n < 16)
  | .errcnt u i => decide (i < unitCount u)
  | .pscrub u => decide (u < 16)
  | .mdcnt r => decide (r < 357)
  | .hbmret k | .palloc k | .pallocst k => decide (k < 12)
  | .pexport | .pbeacon | .evbase | .evseq | .evack | .evlost | .bootst | .pwrlim | .pwrstat => true

/-- The bits that writing 1 clears (W1C). -/
def KReg.w1c : KReg → W64
  | .xlstat _ => maskBits 59 59
  | _ => 0

/-- The value after a write under the access codes of R11: RW fields take the written bits, W1C fields clear where 1 is
written, every other field keeps its value. -/
def KReg.written (r : KReg) (old new : W64) : W64 :=
  ((old &&& ~~~ r.rw) ||| (new &&& r.rw)) &&& ~~~ (new &&& r.w1c)

end Sys2Proof
end

