-- ==== Sys2Proof/Machine/SysTypes.lean ====
section
/-! DEFINITION. The pieces of the machine's state around the cores: matrix tiles, contexts, partitions, launches, far
requests, translation commands, ports, channels, the beacon, tickets and collectives. Every type is plain data. -/
namespace Sys2Proof.Machine

/-- An accumulator tile (R83, R227): its mode and its entries by row * 128 + column. -/
structure Tile where
  int : Bool
  data : SMap W80
deriving DecidableEq, Repr

/-- A core's four tiles and weight latch with the owner's tag (R227, R228). -/
structure MatSt where
  tiles : SMap Tile
  latch : Option WeightLatch
  mc : Nat
deriving DecidableEq, Repr

/-- Tiles in FP mode, all zero, and an empty latch. -/
def MatSt.zero : MatSt := ⟨[], none, 0⟩

/-- One core: the weft each slot serves, the grant queue of RACQ requests as (band, weft, lanes of the bundle that parks for
it), without a lane where a restored weft asks for the block it held (R176, R302), the tiles and their tag, and the claim
counter (R304). -/
structure Core where
  serving : SMap (Nat × Nat)
  grants : List (Nat × Nat × W64)
  mat : MatSt
  owner : Option Nat
  claims : Nat
deriving DecidableEq, Repr

/-- A core with nothing on it. -/
def Core.idle : Core := ⟨[], [], MatSt.zero, none, 0⟩

/-- How a collective ended at a rank, or that it has not (R338, R345). -/
inductive CollEnd where
  | complete | aborted (reason : Nat) | cancelled
deriving DecidableEq, Repr

/-- The transfer of a TCOPYC (R343, R344): records as captured, this rank's group rank and the group's size, the pattern,
operation and root, the witness address and serial, and for each destination element the group ranks whose contribution
it holds and the winner among them; `since` is when it started. `loads` and `have_` are the sectors of its source asked of far memory and read, and `taken` says that all of it has been read and
its contribution made. -/
structure CollRun where
  band : Nat
  weft : Nat
  ctr : Nat
  op : Nat
  dst : Nat × Rec
  src : Nat × Rec
  q : Nat
  g : Nat
  pattern : Nat
  root : Nat
  wit : Option (W64 × W64)
  stamp : Nat
  snap : Nat
  started : Bool
  taken : Bool
  since : Nat
  loads : List (Nat × Nat)
  have_ : SMap (List Byte)
  got : List (List Nat)
  win : List Nat
  flags : W64
deriving DecidableEq, Repr

/-- A ticket slot (R342): the key, its number once it has arrived, the s register that receives it and the request that it
awaits, the transfer and the end. `retry`: the request has been sent again (R339). -/
structure Ticket where
  band : Nat
  weft : Nat
  dst : Nat
  req : Nat
  comm : Nat
  call : W32
  number : Option (BitVec 48)
  run : Option CollRun
  fin : Option CollEnd
  retry : Bool
  sentAt : Nat
deriving DecidableEq, Repr

/-- A COLLC that waits for the beacon's answer (R345): where the answer goes, and the number. `retry`: the
cancel has been sent again (R339). -/
structure Cancel where
  band : Nat
  weft : Nat
  dst : Nat
  number : BitVec 48
  retry : Bool
  sentAt : Nat
deriving DecidableEq, Repr

/-- A context (R294). -/
structure Context where
  part : Nat
  cseg : Nat
  textLen : Nat
  roLen : Nat
  dies : List Nat
  sliceBytes : Nat
  spillReserve : Nat
  bkey : W64
  serial : W64
  slices : SMap Mem
  signals : SMap (List Fenced)
  absent : SMap Nat
  tickets : SMap Ticket
deriving DecidableEq, Repr

/-- A launch port (R280, R281): the halves held and the status fields. -/
structure LPort where
  first : Option (List W64)
  second : Option (List W64)
  reason : Nat
  offset : Nat
  accepted : Nat
deriving DecidableEq, Repr

/-- A launch port after its partition is formed. -/
def LPort.empty : LPort := ⟨none, none, 0, 0, 0⟩

/-- A launch (R278, R284, R291): its sixteen doubles, its queue, the next gang to place, the core of the last one placed,
the bands retired, whether it failed, when it became a head, the priority it reached when
partly placed, when a gang of it first failed to fit, whether the end of the bypass has been marked (R287), and when its
last search for room among the resident bands found none (R290, R295). -/
structure Launch where
  part : Nat
  queue : Nat
  doubles : List W64
  next : Nat
  last : Option Nat
  retired : Nat
  failed : Bool
  headAt : Option Nat
  eff : Option Nat
  firstFail : Option Nat
  bypassOver : Bool
  sought : Option Nat
deriving DecidableEq, Repr

/-- What the host reads of a request it made: a save found no room (R295), or a flush met a clear restartable bit (R307). -/
inductive HostStatus where
  | noRoom | notRestartable
deriving DecidableEq, Repr

/-- A partition (R3, R280, R284): its granules, debug enable, queues of launch numbers, ports, and the queue after which
the next round-robin starts, and whether a reset of it waits for its last bands (R393). -/
structure Partition where
  granules : List Nat
  debug : Bool
  queues : SMap (List Nat)
  ports : SMap LPort
  lastQueue : Nat
  resetting : Bool
deriving DecidableEq, Repr

/-- What a request of the device itself is for (R371): it writes or reads the image of a band (R295, R302) or of its tiles (R304);
it keeps the beacon's state (R339); it scrubs a codeword that holds a number of bad symbols (R365); it copies the block of a
label for the move of a die (R321); it zeroes rows for a palloc free (R308, R378); or it reads a table entry that a stage's
cache lacks for a request (R316). -/
inductive DevJob where
  | save (band : Nat)
  | restore (band : Nat)
  | tiles (band : Nat)
  | beacon
  | scrub (addr bad : Nat)
  | copy (die label : Nat)
  | zero (stack chan bank row cnt : Nat)
  | table (req : Nat)
deriving DecidableEq, Repr

/-- Who a far request belongs to: a lane of a weft, a weft's s register (PROBE), a weft's code fetch (R117), an engine
command or a collective (R217, R343), a message of a collective that leaves (R328), a peer over UALink, or the device itself. -/
inductive FarWho where
  | lane (band weft lane : Nat)
  | probe (band weft dst : Nat)
  | fetch (band weft : Nat)
  | engine (cmd : Nat)
  | coll (ctx slot : Nat)
  | collMsg (part : Nat) (number : BitVec 48)
  | peer (acc label port : Nat)
  | dev (job : DevJob)
deriving DecidableEq, Repr

/-- What a far request does (R223, R224, R326). -/
inductive FarOp where
  | load | store | atom (op : AtomOp) (w64 nr : Bool) | probe (kind : Nat)
deriving DecidableEq, Repr

/-- Where a far request stands. A request to the host holds its translated address and its tag, the PASID + 1 or 0 (R314); one of
a peer that has ended is a response that waits to leave (R327, R397). -/
inductive FarStage where
  | segment
  | hold (stage : Nat)
  | ats | pri
  | pageIn (stage : Nat)
  | region (rtbase rlog2 : Nat)
  | block (stack cgroup btbase blog2 : Nat)
  | channel (stack chan bank row col : Nat)
  | host (addr va tag : Nat)
  | egress (port : Nat)
  | sent (port : Nat)
  | retry (stage : Nat)
  | performed (bs : List Byte)
  | stored (phys : Nat)
  | failed (c : Cause)
  | probed (r : W64)
  | respond (ans : FarAnswer)
deriving DecidableEq, Repr

/-- A far request: the copy engine's request entry (R215). `passed` lists the entries it has gone through, for the buoys
of R320; `stampD` is its deadline stamp (R372). `mask` holds the bits of `data` that a store writes, all where it is empty;
`fresh` marks a load that reads at home (R254); `via` is the port mask of a channel that takes the place of the segment's
(R333); `by_` is the requester's number (R375). `wire` is the label that goes to a peer in place of the segment's (R312); `held`
its place among the held requests until it has passed the entry (R322); `retry` the stage that sent it back until that stage
has accepted it; `room` the receive credits that a peer's request still takes (R328); and `peer` the accelerator that it goes to. -/
structure FarReq where
  who : FarWho
  op : FarOp
  ctx : Nat
  part : Nat
  core : Nat
  addr : W64
  len : Nat
  data : List Byte
  dst : Nat
  ctr : Option Nat
  stamp : Nat
  cls : Nat
  stage : FarStage
  home : Nat
  owner : Nat
  rights : Nat
  heldOnce : Bool
  passed : List Nat
  region : Option (Nat × Nat)
  blockAt : Option (Nat × Nat × Nat × Nat)
  snap : Nat
  at_ : Nat
  stampD : Nat
  mask : List Byte
  fresh : Bool
  via : Option Nat
  by_ : Nat
  wire : Nat
  held : Nat
  retry : Nat
  room : Nat
  peer : Nat
deriving DecidableEq, Repr

/-- A translation that the host IOMMU has granted (R314): the die whose segment stage keeps it, its tag, the PASID + 1 or 0, the
page, the access kinds and the translated page. -/
structure AtsEntry where
  die : Nat
  tag : Nat
  page : Nat
  kinds : Nat
  phys : Nat
deriving DecidableEq, Repr

/-- What a buoy is for (R319, R324). -/
inductive BuoyFor where
  | command (die : Nat) | invalidate
deriving DecidableEq, Repr

/-- A buoy: the requests it must not overtake (R320). -/
structure Buoy where
  why : BuoyFor
  before : List Nat
deriving DecidableEq, Repr

/-- The phase of a running translation command (R319). -/
inductive XlPhase where
  | draining | copying
deriving DecidableEq, Repr

/-- A running translation command of a die (R318); `lost`: its copy met a label that is not VALID in the new table (R321). -/
structure XlCmd where
  op : Nat
  stage : Nat
  part : Nat
  addr : W64
  d2 : W64
  d3 : W64
  entry : Nat
  stack : Nat
  cgroup : Nat
  phase : XlPhase
  lost : Bool
deriving DecidableEq, Repr

/-- A UALink port's state beside its registers: the egress queue and since when it holds a request (R289, R328); the credits
held for sending by virtual channel (R327); the limits of the receive pool and what the partner holds of it (R329); the
time of the last bucket tick (R331) and of the last window of credits (R329); each lane's failed retrainings and last window count, the lanes that a width change
under way will leave, the lanes that retrain at the port's own width, and those of them that are good again (R366 to R369). -/
structure Port where
  egress : List Nat
  filledAt : Option Nat
  credits : SMap Nat
  limits : SMap Nat
  granted : SMap Nat
  tickAt : Nat
  windowAt : Nat
  fails : SMap Nat
  counts : List Nat
  want : Option Nat
  halted : Nat
  good : Nat
deriving DecidableEq, Repr

/-- A port that has carried nothing. -/
def Port.idle : Port := ⟨[], none, [], [], [], 0, 0, [], [], none, 0, 0⟩

/-- A channel (R332): its d0 as configured, its items in order (a completed item that waits for an earlier one has a true
mark), and its count. -/
structure Channel where
  d0 : W64
  items : List (Nat × Bool)
  count : BitVec 48
deriving DecidableEq, Repr

/-- A communicator (R336). -/
structure Comm where
  members : List Member
  watermark : W32
deriving DecidableEq, Repr

/-- The states of a number at the beacon (R338). -/
inductive NumState where
  | assigned | running | aborting | done | cancelled
deriving DecidableEq, Repr

/-- A rank's state as the beacon records it: not started, started, complete, aborted, or skip acknowledged. -/
inductive RankState where
  | idle | started | complete | aborted | skipped
deriving DecidableEq, Repr

/-- A number: as the beacon records it (R338), and how it ended at this device's own ranks, by partition. -/
structure BNum where
  comm : Nat
  call : W32
  state : NumState
  ranks : List RankState
  at_ : Nat
  reason : Nat
  mine : SMap CollEnd
deriving DecidableEq, Repr

/-- A loaded firmware image (R389, R392): its security version and payload digest. -/
structure Image where
  svn : Nat
  digest : BitVec 384
deriving DecidableEq, Repr

/-- An HBM stack's interface (R380): a retraining requested at a time, and one running with its kind. -/
structure HbmIf where
  requested : Option Nat
  running : Bool
deriving DecidableEq, Repr

/-- A stack that neither retrains nor is asked to. -/
def HbmIf.idle : HbmIf := ⟨none, false⟩

/-- An attestation report (R392): its contents and the signatures of the two attestation keys, r and s of ECDSA and the LMS bytes. -/
structure Report where
  nonce : List Byte
  serial : W64
  loaded : SMap Image
  fused : List Nat
  parts : List (Nat × List Nat × Nat)
  boots : Nat
  ecdsa : Nat × Nat
  lms : List Byte
deriving DecidableEq, Repr

/-- A boot's attestation keys (R391): the draw that gives both pairs, and the signatures of the identity keys over their public keys; the
LMS identity key has none left after 2^20 boots. -/
structure Attest where
  draw : Nat
  ecdsa : Nat × Nat
  lms : Option (List Byte)
deriving DecidableEq, Repr

/-- Boot and attestation (R388 to R392): the images accepted so far, those that the next reset will find, the fused security
versions that commands have raised, the attestation keys, which the keeper firmware draws when it starts, the reports given since reset,
the boots, and the answer to the last request: none before one, then the report or its refusal. -/
structure Boot where
  images : SMap Image
  stored : SMap Image
  svns : SMap Nat
  attest : Option Attest
  reports : Nat
  boots : Nat
  answer : Option (Option Report)
deriving DecidableEq, Repr

end Sys2Proof.Machine
end

