-- ==== Sys2Proof/Machine/State.lean ====
section
/-! DEFINITION. The state of one ZN-160 package as plain data, and the package right after reset. -/
namespace Sys2Proof.Machine

/-- Why the machine stops with a fault. -/
inductive Fault where
  /-- Raised by a host write over CXL beyond the device memory of R309 (a stack above 11): no storage is there and the spec
  gives no effect. Safe: no next state is claimed. -/
  | noStorage (addr : Nat)
deriving DecidableEq, Repr

/-- Why a step has no next state. -/
inductive Refusal where
  /-- Raised by the dispatcher for an instruction without a meaning. Safe. -/
  | notModelled (mnemonic : String)
  /-- Raised by an event whose conditions do not hold in this state: it cannot occur (log 2). Safe. -/
  | notPending (event : String)
  /-- Raised by an instruction word when no slot has a weft with a formed bundle to issue it (log 2). Safe. -/
  | noBundle
deriving DecidableEq, Repr

/-- One package. -/
structure State where
  turns : List Turn
  cur : Option (Nat × Nat)
  stalled : Bool
  inPlace : Bool
  clock : Nat
  stamp : Nat
  freeCtr : Nat
  now : Nat
  cycle : SMap W64
  cores : SMap Core
  bands : SMap Band
  gangs : SMap Gang
  ctxs : SMap Context
  parts : SMap Partition
  launches : SMap Launch
  lcc : SMap W64
  kregs : List (KReg × W64)
  hbm : Mem
  host : Mem
  hist : List Pub
  cmds : SMap Cmd
  reqs : SMap FarReq
  buoys : SMap Buoy
  xl : SMap XlCmd
  ats : List AtsEntry
  atsInvals : Nat
  accImages : SMap MatSt
  tags : SMap Nat
  spares : SMap (List Nat)
  poison : List Poison
  sinceC3 : SMap Nat
  hbmIf : SMap HbmIf
  ports : SMap Port
  chans : SMap Channel
  comms : SMap Comm
  numbers : SMap BNum
  lastNumber : BitVec 48
  cancels : SMap Cancel
  promoted : Bool
  beaconLost : Bool
  standbyUp : Bool
  heartbeatAt : Nat
  raiseOff : List Nat
  powerAt : Nat
  hot : List Nat
  overLimit : Bool
  coolSince : Option Nat
  accel : Nat
  boot : Boot
  powerOff : Bool
  hostStatus : SMap HostStatus
  mcast : List Mcast
  flaws : List (Place × Nat × Cause)
  dead : List (Nat × Nat)
deriving DecidableEq, Repr

/-- The package right after reset (R393): every register at its reset value, no context, partition, channel or
communicator, every SRAM zero, every row free. HBM reads zero where nothing has been written (log 8). -/
def State.reset : State where
  turns := []
  cur := none
  stalled := false
  inPlace := false
  clock := 0
  stamp := 0
  freeCtr := 0
  now := 0
  cycle := []
  cores := []
  bands := []
  gangs := []
  ctxs := []
  parts := []
  launches := []
  lcc := []
  kregs := []
  hbm := []
  host := []
  hist := []
  cmds := []
  reqs := []
  buoys := []
  xl := []
  ats := []
  atsInvals := 0
  accImages := []
  tags := []
  spares := []
  poison := []
  sinceC3 := []
  hbmIf := []
  ports := []
  chans := []
  comms := []
  numbers := []
  lastNumber := 0
  cancels := []
  promoted := false
  beaconLost := false
  standbyUp := true
  heartbeatAt := 0
  raiseOff := []
  powerAt := 0
  hot := []
  overLimit := false
  coolSince := none
  accel := Config.accelId
  boot := ⟨[], [], [], none, 0, 1, none⟩
  powerOff := false
  hostStatus := []
  mcast := []
  flaws := []
  dead := []

end Sys2Proof.Machine
end

