-- ==== Sys2Proof/Machine/Operands.lean ====
section
/-! DEFINITION. Lanes and masks of a weft, every operand form (R18 to R21), guards (R20), routes (R25 to R28, R33, R145 to
R149), and the decode-time checks of groups 7, 3 and 4 (R24, R26, R36, R175). -/
namespace Sys2Proof

/-- The integer column of the inline constants (R19). -/
def constInt (c : Fin 16) : Int :=
  [0, 1, 2, 3, 4, 8, 16, 31, 32, 63, 64, 255, -1, -2, 0x7FFFFFFF, -0x80000000].getD c.val 0

/-- The FP32 column of the inline constants (R19). -/
def constF32 (c : Fin 16) : Nat :=
  [0x00000000, 0x3F800000, 0x40000000, 0x3F000000, 0x40800000, 0x3E800000, 0x41000000, 0x41200000,
   0x80000000, 0x3FB8AA3B, 0x3F317218, 0xBF800000, 0xC0000000, 0xBF000000, 0x7F800000, 0xFF800000].getD c.val 0

/-- Place an element in every position of a register (R19). -/
def replicateElem (width e : Nat) : Nat := (List.range (32 / width)).foldl (fun a i => a + e * 2 ^ (width * i)) 0

/-- What an inline constant supplies to a source of an element format (R19). -/
def constFor (f : Fmt) (c : Fin 16) : W32 :=
  match f with
  | .f32 => BitVec.ofNat 32 (constF32 c)
  | .s32 | .u32 | .s8 | .s4 => BitVec.ofNat 32 (replicateElem f.width (f.ofInt (constInt c)))
  | f => BitVec.ofNat 32 (replicateElem f.width (convert f .f32 .rne 0 false (constF32 c)).bits)

/-- The segment size of a segment code (R25). -/
def segSize (seg : Fin 7) (width : Nat) : Nat := if seg.val = 6 then width else 2 ^ (seg.val + 1)

/-- The source position in a quad (R27). -/
def quadPos (code i : Nat) : Nat :=
  match code with
  | 0 => i ^^^ 1
  | 1 => i ^^^ 2
  | 2 => i ^^^ 3
  | 8 => (i + 1) % 4
  | 9 => (i + 3) % 4
  | 10 => 3 - i
  | c => c - 4

/-- The source lane of a route (R25), or none where a shift fills with zero. `idx` is the index register's value. -/
def Route.source (r : Route) (width lane idx : Nat) : Option Nat :=
  let within (seg : Fin 7) (f : Nat → Nat → Nat) : Option Nat :=
    let n := segSize seg width
    some (lane / n * n + f n (lane % n))
  match r with
  | .identity => some lane
  | .rotate seg d => within seg (fun n i => (i + d.val) % n)
  | .butterfly seg d => within seg (fun _ i => i ^^^ d.val)
  | .broadcast seg m => within seg (fun _ _ => m.val)
  | .indexed seg _ => within seg (fun n _ => idx % n)
  | .quad c => some (lane / 4 * 4 + quadPos c.val (lane % 4))
  | .shift seg d =>
    let n := segSize seg width
    let j : Int := (lane % n : Nat) + sdist d
    if 0 ≤ j ∧ j < n then some (lane / n * n + j.toNat) else none

/-- The source lane of a short route (R33). -/
def shortSource (code width lane : Nat) : Nat :=
  if code = 0 then lane
  else if code ≤ 4 then (lane + 2 ^ (code - 1)) % width
  else if code ≤ 7 then (lane + width - 2 ^ (code - 5)) % width
  else if code ≤ 11 then lane ^^^ 2 ^ (code - 8)
  else lane / 4 * 4 + (code - 12)

/-- The index register of a register-indexed route. -/
def Route.index : Route → Option Nat
  | .indexed _ r => some r.val
  | _ => none

/-- Why a route is illegal at a weft width (R26): reason 1 or 2 of group 4. -/
def Route.illegal (r : Route) (width : Nat) : Option Nat :=
  let chk (seg : Fin 7) (bad : Bool) : Option Nat :=
    if seg.val ≠ 6 ∧ width < 2 ^ (seg.val + 1) then some 1
    else if seg.val = 6 ∧ bad then some 2 else none
  match r with
  | .identity => none
  | .rotate seg d => chk seg (decide (width ≤ d.val))
  | .butterfly seg d => chk seg (decide (width ≤ d.val))
  | .broadcast seg d => chk seg (decide (width ≤ d.val))
  | .indexed seg _ => chk seg false
  | .quad _ => none
  | .shift seg d => chk seg (decide (width ≤ shiftMag d.val))

/-- The v registers an operand names. -/
def Operand.regs (o : Operand) (wide : Bool) : List Nat :=
  match o with
  | .v n => if wide then [n.val, n.val + 1] else [n.val]
  | _ => []

end Sys2Proof

namespace Sys2Proof.Machine

/-- Every lane. -/
def allLanes : W64 := BitVec.allOnes 64

/-- The lanes of a mask below a width, in ascending order. -/
def laneList (width : Nat) (m : W64) : List Nat := (List.range width).filter (fun i => m.getLsbD i)

/-- The mask of a list of lanes. -/
def laneMask (ls : List Nat) : W64 := ls.foldl (fun m i => m ||| (1#64 <<< i)) 0

/-- A lane beyond the launch's extent (R58). -/
def Lane.unlaunched : Lane :=
  ⟨0, .unlaunched, false, 0, false, 0, 0, 0, 0, 0, 1, 0⟩

/-- A lane of a weft. -/
def Weft.lane (w : Weft) (i : Nat) : Lane := w.lanes.getD i Lane.unlaunched

/-- Change one lane. -/
def Weft.modLane (w : Weft) (i : Nat) (f : Lane → Lane) : Weft := { w with lanes := w.lanes.modify i f }

/-- Change every lane of a mask. -/
def Weft.modLanes (w : Weft) (m : W64) (f : Lane → Lane) : Weft :=
  { w with lanes := w.lanes.mapIdx (fun i l => if m.getLsbD i then f l else l) }

/-- Whether a lane is launched. -/
def Weft.isLaunched (w : Weft) (i : Nat) : Bool := (w.lane i).state != .unlaunched

/-- The launched lanes. -/
def Weft.launched (w : Weft) : List Nat := (List.range w.width).filter w.isLaunched

/-- The lanes of a mask that are not helper lanes. -/
def Weft.nonHelpers (w : Weft) (m : W64) : List Nat := (laneList w.width m).filter (fun i => !(w.lane i).helper)

/-- The lowest lane of a mask that is not a helper lane. -/
def Weft.lowest (w : Weft) (m : W64) : Option Nat := (w.nonHelpers m).head?

/-- The lanes of the bundle. -/
def Weft.bundleLanes (w : Weft) : List Nat := laneList w.width w.bundle

/-- The address the bundle issues from. -/
def Weft.pc (w : Weft) : W64 :=
  match w.bundleLanes with
  | i :: _ => (w.lane i).pc
  | [] => 0

/-- A v register of a lane. -/
def Weft.vget (w : Weft) (r lane : Nat) : W32 := SMap.get w.v 0 (r * 64 + lane)

/-- A v pair of a lane (R21). -/
def Weft.vget64 (w : Weft) (r lane : Nat) : W64 := w.vget (r + 1) lane ++ w.vget r lane

/-- An s register. -/
def Weft.sget (w : Weft) (r : Nat) : W64 := SMap.get w.s 0 r

/-- Set an s register. -/
def Weft.sset (w : Weft) (r : Nat) (x : W64) : Weft := { w with s := SMap.set w.s 0 r x }

/-- A predicate over all lanes; p7 is always true (R13). -/
def Weft.pget (w : Weft) (p : Nat) : W64 := if p = 7 then allLanes else SMap.get w.p 0 p

/-- Set a predicate in the lanes of a mask. -/
def Weft.pset (w : Weft) (p : Nat) (m x : W64) : Weft :=
  { w with p := SMap.set w.p 0 p ((w.pget p &&& ~~~ m) ||| (x &&& m)) }

/-- The lanes in which a guard holds (R20). -/
def Weft.guardMask (w : Weft) (g : Guard) : W64 := if g.neg then ~~~ (w.pget g.p.val) else w.pget g.p.val

/-- The lanes of the bundle whose guard is true. -/
def Weft.act (w : Weft) (g : Guard) : W64 := w.bundle &&& w.guardMask g

/-- The low 32 bits of a double, zero-extended. -/
def low32 (x : W64) : W64 := (x.setWidth 32).setWidth 64

/-- A latch entry's value in a lane: zero where nothing was pushed (R23). -/
def Weft.latchVal (w : Weft) (k lane : Nat) : W64 := ((w.latches[k]?).map (fun e => SMap.get e.vals 0 lane)).getD 0

/-- An operand as a lane holds it, read as 32 or as 64 bits (R18, R19, R21, R23, R102). -/
def Weft.rawSrc (w : Weft) (wide : Bool) (f : Fmt) (o : Operand) (lane : Nat) : W64 :=
  match o with
  | .v n => if wide then w.vget64 n.val lane else (w.vget n.val lane).setWidth 64
  | .s n => if wide then w.sget n.val else low32 (w.sget n.val)
  | .x d => if wide then w.latchVal d.val lane else low32 (w.latchVal d.val lane)
  | .k c => if wide then BitVec.ofInt 64 (constInt c) else (constFor f c).setWidth 64

/-- A source field as a word reads it: its operand, its width and element format, the source lane for each reading lane,
and the index register of its route. -/
structure FieldRead where
  o : Operand
  wide : Bool
  fmt : Fmt
  from_ : Nat → Option Nat
  index : Option Nat

/-- The value a reading lane receives (R146): a lane that was never launched reads zero, and so does a shift's fill. -/
def FieldRead.value (x : FieldRead) (w : Weft) (lane : Nat) : W64 :=
  match x.from_ lane with
  | none => 0
  | some l =>
    match x.o with
    | .v _ => if w.isLaunched l then w.rawSrc x.wide x.fmt x.o l else 0
    | _ => w.rawSrc x.wide x.fmt x.o l

/-- The v registers a field names, its index register included (R175). -/
def FieldRead.regs (x : FieldRead) : List Nat := x.o.regs x.wide ++ x.index.toList

/-- The register keys a reader waits for: v registers, and 256 + n for s registers. -/
def FieldRead.keys (x : FieldRead) : List Nat :=
  x.regs ++ (match x.o with
    | .s n => [256 + n.val]
    | _ => [])

/-- The latch entry a field reads. -/
def FieldRead.depth (x : FieldRead) : Option Nat :=
  match x.o with
  | .x d => some d.val
  | _ => none

/-- The failed mark of a v register in a lane (R217). -/
def Weft.mark (w : Weft) (r lane : Nat) : Option Cause := SMap.find? w.failed (r * 64 + lane)

/-- The failed marks that a reading lane meets through a field (R148, R217): its index register, and the registers of the
source lane; an s register's mark is that of a failed ticket (R339). -/
def FieldRead.marks (x : FieldRead) (w : Weft) (lane : Nat) : List Cause :=
  let own := x.index.toList.filterMap (fun r => w.mark r lane)
  let src := match x.from_ lane, x.o with
    | _, .s n => (w.mark (256 + n.val) 0).toList
    | none, _ => []
    | some l, _ => (x.o.regs x.wide).filterMap (fun r => w.mark r l)
  own ++ src

/-- What a word needs before it may issue: the v registers it names, those that only its second half names, the latch
entries it reads as (field, depth), its routes as (number, target, route), and the register keys it reads. -/
structure Needs where
  regs : List Nat
  half2 : List Nat
  latch : List (Nat × Nat)
  routes : List (Nat × Target × Route)
  keys : List Nat

/-- Group 7 (R175): the lowest register that the word names and the weft does not hold. -/
def blockCheck (b : Band) (w : Weft) (n : Needs) : Option Cause :=
  let base := 8 * b.base8
  let all := base + 8 * b.ext8
  let bad := (n.regs ++ n.half2).filter (fun r => decide (all ≤ r) || (decide (base ≤ r) && !w.ext))
  match bad with
  | [] => none
  | r :: rs =>
    let low := rs.foldl min r
    let detail := BitVec.ofNat 96 ((if w.ext then 2 ^ 24 else 0) + b.ext8 * 2 ^ 16 + b.base8 * 2 ^ 8 + low)
    some ⟨7, if all ≤ low then 2 else 1, detail, !n.regs.contains low⟩

/-- Group 3 (R24): an invalid latch entry. Of several the lowest-numbered field is named (DESIGN CHOICE; log 65). -/
def latchCheck (w : Weft) (n : Needs) : Option Cause :=
  match n.latch.find? (fun r => decide (w.latches.length ≤ r.2)) with
  | none => none
  | some (field, depth) =>
    some ⟨3, 0, BitVec.ofNat 96 (field * 256 + w.latches.length * 16 + depth), field == 5⟩

/-- Group 4 (R26): a route that the weft width does not admit. Of several the route of the F3 word comes first, then route 2,
then route 3 (DESIGN CHOICE; log 65). -/
def routeCheck (w : Weft) (n : Needs) : Option Cause :=
  n.routes.findSome? (fun r =>
    (r.2.2.illegal w.width).map (fun reason =>
      ⟨4, reason, BitVec.ofNat 96 (w.width * 2 ^ 16 + r.1 * 2 ^ 14 + r.2.1.code * 2 ^ 12 + r.2.2.code), false⟩))

/-- The decode-time checks after group 1, in the order of R36: groups 7, 3 and 4. -/
def preCheck (b : Band) (w : Weft) (n : Needs) : Option Cause :=
  match blockCheck b w n with
  | some c => some c
  | none =>
    match latchCheck w n with
    | some c => some c
    | none => routeCheck w n

/-- Whether a word reads a register that awaits a reply, in whatever lane (R63, R65, R147). -/
def Weft.awaits (w : Weft) (keys : List Nat) : Bool := w.await.any (fun a => keys.contains a.key)

/-- The latch chain a word stands in (R68): none where it reads no valid entry. -/
def Weft.chainFor (w : Weft) (depths : List Nat) : Option ChainSt :=
  let heads := (depths.filterMap (fun d => w.latches[d]?)).map (fun e => (⟨e.pc, e.seq⟩ : ChainSt))
  match heads with
  | [] => none
  | h :: hs => some ((hs ++ w.chain.toList).foldl (fun a c => if c.seq < a.seq then c else a) h)

end Sys2Proof.Machine
end

