-- ==== Sys2Proof/Machine/Flags.lean ====
section
/-! DEFINITION. The flag register sr.flags (R93 to R96): recording exceptions, and the arithmetic trap of group 5. -/
namespace Sys2Proof.Machine

/-- The enable bits of sr.flags, in the order of the flags (R93). -/
def enables (flags : W64) : Exc := (flags >>> 8).setWidth 6

/-- Add exceptions to the sticky flags (R94). -/
def Weft.raiseFlags (w : Weft) (x : Exc) : Weft := { w with flags := w.flags ||| x.setWidth 64 }

/-- The OR of a list of exceptions. -/
def Exc.all (xs : List Exc) : Exc := xs.foldl (fun a x => a ||| x) 0

/-- The bits of sr.flags that a write sets (R93): the enables and the flags; the rest reads zero. -/
def flagsMask : W64 := 0x3F3F

/-- Group 5 (R96, R259): the detail names the opcode, the lowest element that raised an enabled exception, every exception
of the lane and the enabled ones among them. -/
def arithTrap (flags : W64) (opc : Nat) (half : Bool) (elems : List Exc) : Option Cause :=
  let raised := Exc.all elems
  let hit := raised &&& enables flags
  if hit = 0 then none else
  let elem := elems.findIdx (fun x => decide (x &&& enables flags ≠ 0))
  some ⟨5, 0, BitVec.ofNat 96 (opc * 2 ^ 32 + elem % 16 * 2 ^ 16 + raised.toNat * 2 ^ 8 + hit.toNat), half⟩

/-- A cause of group 5 with every exception of its lane, and the enabled ones among them (R259). -/
def Cause.widen (flags : W64) (exc : Exc) (c : Cause) : Cause :=
  if c.group = 5 then
    { c with detail := c.detail ||| BitVec.ofNat 96 (exc.toNat * 2 ^ 8 + (exc &&& enables flags).toNat) }
  else c

end Sys2Proof.Machine
end

