-- ==== Sys2Proof/Machine/Xlate.lean ====
section
/-! DEFINITION. The three translation stages (R309 to R317, R397) as pure lookups: the entries they read, the checks in
the order of R317, and where an access goes. The events of the stages and the engines call them. -/
namespace Sys2Proof.Machine

/-- A field of a 64-bit word. -/
def fld (w : W64) (hi lo : Nat) : Nat := bits w.toNat hi lo

/-- A keeper register's value. -/
def State.kget (s : State) (r : KReg) : W64 := ((s.kregs.find? (fun e => decide (e.1 = r))).map (fun e => e.2)).getD r.reset

/-- Set a keeper register's bits as the device does, whatever software may write. -/
def State.kset (s : State) (r : KReg) (v : W64) : State :=
  let others := s.kregs.filter (fun e => decide (e.1 ≠ r))
  { s with kregs := if v = r.reset then others else (r, v) :: others }

/-- Replace a field of a 64-bit word. -/
def setFld (w : W64) (hi lo v : Nat) : W64 :=
  (w &&& ~~~ (BitVec.ofNat 64 (2 ^ (hi + 1) - 2 ^ lo))) ||| BitVec.ofNat 64 (v % 2 ^ (hi - lo + 1) * 2 ^ lo)

/-- A double of a table at a device-physical address (R309). Where the address names no stack the value is free. -/
def State.table (s : State) (pa : Nat) : W64 :=
  if pa < Config.hbmStacks * 2 ^ 36 then BitVec.ofNat 64 (leNat (Mem.read s.hbm pa 8)) else Config.freeTable pa

/-- A segment entry (R311). -/
structure SegEnt where
  state : Nat
  bad : Bool
  kind : Nat
  rights : Nat
  xrights : Nat
  xany : Bool
  xsrc : Nat
  home : Nat
  rlog2 : Nat
  rtbase : Nat
  hbase : Nat
  pasid : Option Nat
  exp : Nat
  peer : Nat
  mask : Nat
deriving DecidableEq, Repr

/-- The fields of a segment entry, with the malformed cases of R311. -/
def SegEnt.of (acc : Nat) (d0 d1 : W64) : SegEnt :=
  let kind := fld d0 59 58
  let badK :=
    if kind = 0 then fld d0 31 0 != 0 || fld d1 58 40 != 0 || fld d1 11 0 != 0 || decide (20 < fld d1 63 59)
    else if kind = 1 then fld d0 53 40 != 0 || fld d0 31 21 != 0 || fld d1 11 0 != 0
    else if kind = 2 then fld d0 53 40 != 0 || fld d0 57 54 != 0 || fld d0 15 10 != 0 || fld d1 63 16 != 0
      || fld d1 15 0 == 0 || fld d0 9 0 == acc
    else true
  {
    state := fld d0 63 60
    bad := decide (4 < fld d0 63 60) || fld d0 37 32 != 0 || badK
    kind := kind
    rights := fld d0 57 54
    xrights := fld d0 53 51
    xany := fld d0 50 50 == 1
    xsrc := fld d0 49 40
    home := fld d0 39 38
    rlog2 := fld d1 63 59
    rtbase := fld d1 39 0
    hbase := fld d1 63 12 * 4096
    pasid := if fld d0 20 20 = 1 then some (fld d0 19 0) else none
    exp := fld d0 31 16
    peer := fld d0 9 0
    mask := fld d1 15 0 }

/-- A region entry (R315). -/
structure RegEnt where
  state : Nat
  bad : Bool
  stack : Nat
  cgroup : Nat
  blog2 : Nat
  btbase : Nat
deriving DecidableEq, Repr

/-- The fields of a region entry. -/
def RegEnt.of (d0 d1 : W64) : RegEnt :=
  {
    state := fld d0 63 60
    bad := decide (2 < fld d0 63 60) || decide (11 < fld d0 59 56) || fld d0 52 37 != 0 || decide (16 < fld d0 36 32)
      || fld d0 31 0 != 0 || fld d1 63 36 != 0 || fld d1 11 0 != 0
    stack := fld d0 59 56
    cgroup := fld d0 55 53
    blog2 := fld d0 36 32
    btbase := fld d1 35 0 }

/-- A block entry (R316). -/
structure BlkEnt where
  state : Nat
  bad : Bool
  chan : Nat
  bank : Nat
  row : Nat
  half : Nat
deriving DecidableEq, Repr

/-- The fields of a block entry. -/
def BlkEnt.of (d : W64) : BlkEnt :=
  {
    state := fld d 63 60
    bad := decide (2 < fld d 63 60) || fld d 59 48 != 0 || decide (4095 < fld d 39 20) || fld d 18 0 != 0
    chan := fld d 47 46
    bank := fld d 45 40
    row := fld d 39 20
    half := fld d 19 19 }

/-- The HBM address of an offset in a block (R309, R316). -/
def BlkEnt.phys (stack cgroup : Nat) (e : BlkEnt) (off : Nat) : Nat :=
  stack * 2 ^ 36 + (4 * cgroup + e.chan) * 2 ^ 31 + e.bank * 2 ^ 25 + e.row * 2 ^ 13 + e.half * 4096 + off

/-- The labels of a far address (R309). -/
def segLabel (a : W64) : Nat := fld a 63 48
/-- The region label. -/
def regLabel (a : W64) : Nat := fld a 47 28
/-- The block label. -/
def blkLabel (a : W64) : Nat := fld a 27 12

/-- A stage's lookup: a fault reason of group 8 with the kind of the segment, a refused activation of the table's row (R379), or the entry's address
with the entry. -/
inductive Look (α : Type) where
  | fault (reason owner : Nat)
  | refused (pa : Nat)
  | entry (pa : Nat) (e : α)
deriving DecidableEq, Repr

/-- The tag of the row that holds an HBM address (R376). -/
def State.tagAt (s : State) (phys : Nat) : Nat := SMap.get s.tags 31 (phys / 8192)

/-- Whether a base die refuses an activation for a partition (R379). -/
def State.refuses (s : State) (part phys : Nat) : Bool := decide (phys < Config.hbmStacks * 2 ^ 36) && s.tagAt phys != part

/-- Whether bytes of HBM lie in a poisoned codeword of 64 bytes (R362). -/
def State.poisoned (s : State) (phys n : Nat) : Bool :=
  s.poison.any (fun x => decide (x.word < phys + n) && decide (phys < x.word + 64))

/-- Whether a stage cannot read a table entry: the row refuses its activation, or the codeword is poisoned (R362, R379). -/
def State.tableBad (s : State) (part pa : Nat) : Bool := s.refuses part pa || s.poisoned pa 1

/-- The segment stage reads an entry (R310, R311) and makes the checks 1 to 3 of R317. -/
def State.segLook (s : State) (part : Nat) (a : W64) : Look SegEnt :=
  let p := s.kget (.pseg part)
  let lg := fld p 4 0
  let lab := segLabel a
  if 16 < lg || 2 ^ lg ≤ lab then .fault 1 0 else
  let pa := fld p 55 12 * 4096 + 16 * lab
  if s.tableBad part pa then .refused pa else
  let e := SegEnt.of (s.accel) (s.table pa) (s.table (pa + 8))
  if e.state = 0 then .fault 2 0 else if e.bad then .fault 7 e.kind else .entry pa e

/-- The region stage reads an entry (R315, R317). -/
def State.regLook (s : State) (part rtbase rlog2 : Nat) (a : W64) : Look RegEnt :=
  let lab := regLabel a
  if 2 ^ rlog2 ≤ lab then .fault 3 0 else
  let pa := rtbase + 16 * lab
  if s.tableBad part pa then .refused pa else
  let e := RegEnt.of (s.table pa) (s.table (pa + 8))
  if e.state = 0 then .fault 4 0 else if e.bad then .fault 7 0 else .entry pa e

/-- The block stage reads an entry (R316, R317). -/
def State.blkLook (s : State) (part stack btbase blog2 : Nat) (a : W64) : Look BlkEnt :=
  let lab := blkLabel a
  if 2 ^ blog2 ≤ lab then .fault 5 0 else
  let pa := stack * 2 ^ 36 + btbase + 8 * lab
  if s.tableBad part pa then .refused pa else
  let e := BlkEnt.of (s.table pa)
  if e.state = 0 then .fault 6 0 else if e.bad then .fault 7 0 else .entry pa e

/-- The kinds of a far access (R259): read, write, atomic, code fetch. -/
inductive Access where
  | read | write | atomic | fetch
deriving DecidableEq, Repr

/-- The code of an access kind. -/
def Access.code : Access → Nat
  | .read => 0 | .write => 1 | .atomic => 2 | .fetch => 3

/-- The detail of groups 8 and 9 (R259). -/
def farDetail (k : Access) (owner stage label : Nat) (a : W64) : Detail :=
  BitVec.ofNat 96 (k.code * 2 ^ 88 + owner * 2 ^ 86 + stage * 2 ^ 84 + label * 2 ^ 64 + a.toNat)

/-- A translation or protection fault as a cause. -/
def farCause (group reason : Nat) (k : Access) (owner stage label : Nat) (a : W64) : Cause :=
  ⟨group, reason, farDetail k owner stage label a, false⟩

/-- The detail of group 20 (R259). -/
def fabricCause (reason port : Nat) (chan : Option Nat) (a : W64) : Cause :=
  ⟨20, reason, BitVec.ofNat 96 (a.toNat * 2 ^ 32 + (match chan with
    | some c => 65536 + c * 16
    | none => 0) + port), false⟩

/-- Who a request's rights are checked for: this partition, or a source accelerator over UALink (R312). -/
inductive Origin where
  | own | peer (acc : Nat)
deriving DecidableEq, Repr

/-- Whether a segment entry grants an access kind (R312); the second part is the reason of group 9 when it does not. -/
def SegEnt.grants (e : SegEnt) (o : Origin) (k : Access) : Bool × Nat :=
  match o with
  | .own => (e.rights / 2 ^ (3 - k.code) % 2 == 1, k.code + 1)
  | .peer acc => (k != .fetch && e.xrights / 2 ^ (2 - k.code) % 2 == 1 && (e.xany || e.xsrc == acc), 5)

/-- The rights a segment entry grants, as PROBE reports them (R326). -/
def SegEnt.rightsOf (e : SegEnt) (o : Origin) : Nat :=
  match o with
  | .own => e.rights
  | .peer acc => if e.xany || e.xsrc == acc then 2 * e.xrights else 0

/-- What the segment stage does with a request (R312, R317). -/
inductive SegOut where
  | fail (c : Cause)
  | refused (pa : Nat)
  | pageIn
  | hold (pa : Nat)
  | toRegion (pa : Nat) (e : SegEnt)
  | host (pa : Nat) (e : SegEnt)
  | peer (pa : Nat) (e : SegEnt)
deriving DecidableEq, Repr

/-- Whether a partition sends group 8 faults to the page-in service (R310, R317). -/
def State.pagein (s : State) (part : Nat) : Bool := fld (s.kget (.pseg part)) 5 5 == 1

/-- The segment stage (R312, R317). `probe`: a PROBE never pages in. -/
def State.segStage (s : State) (part : Nat) (o : Origin) (k : Access) (probe : Bool) (a : W64) : SegOut :=
  let lab := segLabel a
  match s.segLook part a with
  | .fault r own =>
    if r = 2 ∧ s.pagein part ∧ probe = false ∧ o = .own then .pageIn
    else .fail (farCause 8 r k own 1 lab a)
  | .refused pa => .refused pa
  | .entry pa e =>
    if o ≠ .own ∧ e.kind ≠ 0 then .fail (farCause 9 5 k e.kind 1 lab a)
    else if e.state = 2 then .hold pa
    else if e.state = 3 ∨ e.state = 4 then .fail (farCause 9 6 k e.kind 1 lab a)
    else if e.kind = 2 then
      if k = .fetch then .fail (farCause 8 11 k 2 1 lab a) else .peer pa e
    else
      let (ok, why) := e.grants o k
      if ok = false then .fail (farCause 9 why k e.kind 1 lab a)
      else if e.kind = 1 then .host pa e else .toRegion pa e

/-- What the region or the block stage does with a request (R315 to R317, R319). -/
inductive StageOut (α : Type) where
  | fail (c : Cause)
  | refused (pa : Nat)
  | pageIn
  | hold (pa : Nat)
  | pass (pa : Nat) (e : α)
deriving DecidableEq, Repr

/-- A lookup at stage 2 or 3 as an outcome of the stage. `firm`: a PROBE or a peer's request, which never pages in (R317, R326). -/
def State.stageOut {α : Type} (s : State) (l : Look α) (st : α → Nat) (part stage label : Nat) (k : Access)
    (firm : Bool) (a : W64) : StageOut α :=
  match l with
  | .fault r _ =>
    if r = 2 * stage ∧ s.pagein part ∧ firm = false then .pageIn
    else .fail (farCause 8 r k 0 stage label a)
  | .refused pa => .refused pa
  | .entry pa e => if st e = 2 then .hold pa else .pass pa e

/-- The region stage (R315). -/
def State.regStage (s : State) (part rtbase rlog2 : Nat) (k : Access) (firm : Bool) (a : W64) : StageOut RegEnt :=
  s.stageOut (s.regLook part rtbase rlog2 a) RegEnt.state part 2 (regLabel a) k firm a

/-- The block stage (R316). -/
def State.blkStage (s : State) (part stack btbase blog2 : Nat) (k : Access) (firm : Bool) (a : W64) :
    StageOut BlkEnt :=
  s.stageOut (s.blkLook part stack btbase blog2 a) BlkEnt.state part 3 (blkLabel a) k firm a

/-- The tag of a host segment's requests (R314): the PASID + 1, or 0 without one. -/
def pasidTag (pasid : Option Nat) : Nat := (pasid.map (· + 1)).getD 0

/-- The host address of a far address in a host segment (R314). -/
def hostAddr (e : SegEnt) (a : W64) : Nat := (e.hbase + fld a 47 0) % 2 ^ 64

/-- What names the 4 KiB of a far address, whatever labels lead there: a page of HBM, of the host, or of what a peer exports. -/
def State.farPage (s : State) (part : Nat) (a : W64) : Option (Nat × Nat × Nat) :=
  match s.segLook part a with
  | .entry _ e =>
    if e.kind = 1 then some (2, pasidTag e.pasid, hostAddr e a / 4096)
    else if e.kind = 2 then some (3, e.peer * 65536 + e.exp, fld a 47 12)
    else match s.regLook part e.rtbase e.rlog2 a with
    | .entry _ r => (match s.blkLook part r.stack r.btbase r.blog2 a with
      | .entry _ k => some (1, 0, k.phys r.stack r.cgroup 0 / 4096)
      | _ => none)
    | _ => none
  | _ => none

/-- Where the three stages send an access, taken through at once. -/
inductive Walk where
  | fail (c : Cause)
  | refused (pa : Nat)
  | pageIn (stage : Nat)
  | hold (pa stage : Nat)
  | hbm (phys stack cgroup : Nat)
  | host (e : SegEnt)
  | peer (e : SegEnt)
deriving DecidableEq, Repr

/-- The three stages taken through at once: a code fetch that the core's code cache serves (log 6). -/
def State.walk (s : State) (part : Nat) (k : Access) (a : W64) : Walk :=
  match s.segStage part .own k false a with
  | .fail c => .fail c
  | .refused pa => .refused pa
  | .pageIn => .pageIn 1
  | .hold pa => .hold pa 1
  | .host _ e => .host e
  | .peer _ e => .peer e
  | .toRegion _ e =>
    match s.regStage part e.rtbase e.rlog2 k false a with
    | .fail c => .fail c
    | .refused pa => .refused pa
    | .pageIn => .pageIn 2
    | .hold pa => .hold pa 2
    | .pass _ r =>
      match s.blkStage part r.stack r.btbase r.blog2 k false a with
      | .fail c => .fail c
      | .refused pa => .refused pa
      | .pageIn => .pageIn 3
      | .hold pa => .hold pa 3
      | .pass _ b =>
        let phys := b.phys r.stack r.cgroup (fld a 11 0)
        if s.refuses part phys || (k != .write && s.poisoned phys 1) then .refused phys else .hbm phys r.stack r.cgroup

end Sys2Proof.Machine
end

