-- ==== Sys2Proof/Machine/Ops.lean ====
section
/-! DEFINITION. The named operations over the state that the meanings share: bands, wefts and cores; the event log (R381,
R382); taking a trap (R257 to R264) and returning from one (R265); and finishing a word (R23, R57, R68, R69, R72, R73). -/
namespace Sys2Proof.Machine

/-- The outcome of a step. -/
abbrev Out := Host.Outcome State Fault Refusal

/-- A band. -/
def State.band? (s : State) (b : Nat) : Option Band := SMap.find? s.bands b

/-- Change a band. -/
def State.modBand (s : State) (b : Nat) (f : Band → Band) : State := { s with bands := SMap.modify s.bands b f }

/-- A weft of a band. -/
def Band.weft? (b : Band) (i : Nat) : Option Weft := b.wefts[i]?

/-- Change a weft of a band. -/
def Band.modWeft (b : Band) (i : Nat) (f : Weft → Weft) : Band := { b with wefts := b.wefts.modify i f }

/-- A weft. -/
def State.weft? (s : State) (b i : Nat) : Option Weft := (s.band? b).bind (fun x => x.weft? i)

/-- Change a weft. -/
def State.modWeft (s : State) (b i : Nat) (f : Weft → Weft) : State := s.modBand b (fun x => x.modWeft i f)

/-- A core. -/
def State.core (s : State) (c : Nat) : Core := SMap.get s.cores Core.idle c

/-- Change a core. -/
def State.modCore (s : State) (c : Nat) (f : Core → Core) : State :=
  { s with cores := SMap.set s.cores Core.idle c (f (s.core c)) }

/-- A context. -/
def State.ctx? (s : State) (c : Nat) : Option Context := SMap.find? s.ctxs c

/-- Change a context. -/
def State.modCtx (s : State) (c : Nat) (f : Context → Context) : State := { s with ctxs := SMap.modify s.ctxs c f }

/-- The die of a core (R2). -/
def dieOf (core : Nat) : Nat := core / 40

/-- Take the next free value's number (log 5). -/
def State.tick (s : State) : State := { s with freeCtr := s.freeCtr + 1 }

/-- A fresh stamp: the issue order of commands and requests. -/
def State.nextStamp (s : State) : State := { s with stamp := s.stamp + 1 }

/-- The cycles a core has counted (R270). -/
def State.cycleOf (s : State) (core : Nat) : W64 := SMap.get s.cycle 0 core

/-- Count cycles on a core. -/
def State.addCycles (s : State) (core n : Nat) : State :=
  { s with cycle := SMap.set s.cycle 0 core (s.cycleOf core + BitVec.ofNat 64 n) }

/-- The word waits as for a far reply: nothing changes but the mark that tells the slot so (R63). -/
def State.stall (s : State) : State := { s with stalled := true }

/-- The word waits in place: the slot does not turn to another weft (R64). -/
def State.hold (s : State) : State := { s with stalled := true, inPlace := true }

/-- An event record's fields (R382); partition and context 255 mean none. -/
structure EventRec where
  kind : Nat
  unit : Nat
  sev : Nat
  part : Nat := 255
  die : Nat := 0
  inst : Nat := 0
  chan : Nat := 0
  bank : Nat := 0
  row : Nat := 0
  addr : W64 := 0
  ctx : Nat := 255
  count : Nat := 0
  d0 : W64 := 0
  d1 : W64 := 0
  d2 : W64 := 0
deriving DecidableEq, Repr

/-- The 64 bytes of an event record (R382). The three detail doubles hold tcause, then tdet0 and tdet1 in one, then tdet2
(log 18). -/
def EventRec.bytes (e : EventRec) (seq : Nat) (time : W64) : List Byte :=
  leBytes 8 (e.part * 2 ^ 56 + e.sev * 2 ^ 48 + e.kind * 2 ^ 40 + e.unit * 2 ^ 32 + seq % 2 ^ 32)
    ++ leBytes 8 time.toNat
    ++ leBytes 8 (e.die * 2 ^ 56 + e.inst * 2 ^ 48 + e.chan * 2 ^ 40 + e.bank * 2 ^ 32 + e.row)
    ++ leBytes 8 e.addr.toNat
    ++ leBytes 8 (e.ctx * 2 ^ 56 + e.count % 2 ^ 56)
    ++ leBytes 8 e.d0.toNat ++ leBytes 8 e.d1.toNat ++ leBytes 8 e.d2.toNat

/-- The sequence number that the next event record takes (R381). -/
def State.eventSeq (s : State) : Nat := fld (s.kget .evseq) 31 0

/-- Whether the keeper takes work: wrong parity in its control has not stopped it (R362). -/
def State.keeperUp (s : State) : Bool := !s.dead.contains (0x0E, 0)

/-- The keeper writes an event record, or counts it lost (R381). Below lsize 6 logging is off. The time is a reading of sr.cycle
on die 0 (R382), with stall cycles that are free (log 3). -/
def State.logEvent (s : State) (e : EventRec) : State :=
  let seq := s.eventSeq
  let n := min (fld (s.kget .evbase) 4 0) 20
  if n < 6 ∨ s.keeperUp = false then s
  else if (seq + 2 ^ 32 - fld (s.kget .evack) 31 0) % 2 ^ 32 < 2 ^ n then
    let at_ := fld (s.kget .evbase) 63 12 * 4096 + 64 * (seq % 2 ^ n)
    let s := { s with host := Mem.write s.host at_ (e.bytes seq (s.cycleOf 0 + Config.freeStall s.freeCtr)) }
    s.tick.kset .evseq (BitVec.ofNat 64 ((seq + 1) % 2 ^ 32))
  else s.kset .evlost (BitVec.ofNat 64 ((fld (s.kget .evlost) 31 0 + 1) % 2 ^ 32))

/-- The group of a lane's sr.tcause: nonzero exactly in a handler (R257). -/
def Lane.group (l : Lane) : Nat := fld l.tcause 4 0

/-- sr.tcause for a cause (R257). -/
def Cause.tcause (c : Cause) (chain : Bool) : W64 :=
  BitVec.ofNat 64 (c.reason * 256 + (if chain then 128 else 0) + (if c.half then 64 else 0) + c.group)

/-- Bits [63:0] of a detail: tdet0 and tdet1. -/
def Cause.detLow (c : Cause) : W64 := c.detail.setWidth 64
/-- Bits [95:64] of a detail: tdet2. -/
def Cause.detHigh (c : Cause) : W64 := (c.detail >>> 64).setWidth 64

/-- The far address of a code address (R309). -/
def State.codeAddr (s : State) (ctx : Nat) (a : W64) : W64 :=
  BitVec.ofNat 64 (((s.ctx? ctx).map (fun c => c.cseg)).getD 0 * 2 ^ 48) + a

/-- Whether a trap entry can be fetched (R263): its address passes the stages, or waits there. -/
def State.codeReadable (s : State) (b : Band) (a : W64) : Bool :=
  match s.walk b.part .fetch (s.codeAddr b.ctx a) with
  | .fail _ | .refused _ | .peer _ => false
  | _ => true

/-- A lane takes a trap (R260). -/
def Lane.enter (l : Lane) (run : Nat) (c : Cause) (entry trappc resume : W64) (chain : Bool) : Lane :=
  { l with
    state := .trapped, run := run, pc := entry, tcause := c.tcause chain, tdet := c.detail,
    trappc := trappc, tresume := resume }

/-- A weft as a stop of its band finds it (R268): at the end of a word, or with a word under way, which the device chooses
(log 5). A PPOINT at which it stands no longer limits its save. -/
def Weft.stopping (w : Weft) (slack : Nat) : Weft :=
  { w with
    slack := slack
    stop := match w.stop with
      | some (.ppoint _) => some .full
      | x => x }

/-- The words that a weft still issues before a stop of its band takes it (R268; log 5): none where its slot serves another weft, or
where no lane of it is live; or else none or one. -/
def State.slackOf (s : State) (b : Nat) (bd : Band) (j : Nat) (w : Weft) (choice : Nat) : Nat :=
  if SMap.find? (s.core bd.core).serving w.slot != some (b, j) || !w.lanes.any (fun l => l.state == .live) then 0
  else choice

/-- Halt issue in a band (R268); a weft named here stops at once. A save that is pending becomes a full one. -/
def State.stopBand (s : State) (b : Nat) (now : Option Nat) : State :=
  let n := Config.freeNat s.freeCtr
  s.tick.modBand b (fun x =>
    let x := if x.stopped then x else
      { x with
        stopped := true
        save := x.save.map (fun v => { v with full := true })
        wefts := x.wefts.mapIdx (fun j w => w.stopping (s.slackOf b x j w (n / 2 ^ j % 2))) }
    match now with
    | none => x
    | some i => x.modWeft i (fun w => { w with frozen := true, reform := true }))

/-- The trap event of a band (R263, R382). -/
def trapEvent (b : Band) (kind : Nat) (c : Cause) (chain : Bool) : EventRec :=
  {
    kind := kind, unit := 0x10, sev := if kind = 10 then 1 else 2, part := b.part, die := dieOf b.core
    inst := b.core, ctx := b.ctx, d0 := c.tcause chain, d1 := c.detLow, d2 := c.detHigh }

/-- Taking a trap (R257 to R263): the lanes of one word that trap form one sub-weft at the kernel's trap entry. A lane that
is in a handler keeps its registers, each new cause goes to an event record and the band stops (R263). With no readable trap
entry the registers are written, the lanes stay where they are and the band stops (R263). The trap is a reformation point
(R60). -/
def State.enterTraps (s : State) (b i run : Nat) (traps : List (Nat × Cause)) (trappc resume : W64) (chain : Bool) : State :=
  match s.band? b, s.weft? b i with
  | some bd, some w =>
    let double := traps.filter (fun t => (w.lane t.1).group != 0)
    let fresh := traps.filter (fun t => (w.lane t.1).group == 0)
    let ok := bd.trapEntry != 0 && s.codeReadable bd bd.trapEntry
    let enter := fun (w : Weft) (t : Nat × Cause) =>
      w.modLane t.1 (fun l => l.enter run t.2 (if ok then bd.trapEntry else trappc) trappc resume chain)
    let s := s.modWeft b i (fun w =>
      let w := fresh.foldl enter { w with reform := w.reform || !traps.isEmpty }
      { w with subs := if fresh.isEmpty then w.subs else max w.subs run })
    let news := (double.map (fun t => t.2)).eraseDups
    let s := news.foldl (fun (s : State) c => s.logEvent (trapEvent bd 8 c chain)) s
    let s := if news.isEmpty then s else s.stopBand b (some i)
    match fresh, ok with
    | t :: _, false => (s.logEvent (trapEvent bd 9 t.2 chain)).stopBand b (some i)
    | _, _ => s
  | _, _ => s

/-- The traps of a word (R257 to R264), one sub-weft (R260): a lane of group 19 joins it when the host resumes the band, which
stops (R264); the others enter the handler. In a handler group 19 is a double trap as any other (R263). -/
def State.trapWeft (s : State) (b i : Nat) (traps : List (Nat × Cause)) (trappc resume : W64) (chain : Bool) : State :=
  let w := s.weft? b i
  let run := (w.map (fun w => w.subs)).getD 0 + 1
  let waits := fun (t : Nat × Cause) => t.2.group == 19 && (w.map (fun w => (w.lane t.1).group == 0)).getD false
  let hard := traps.filter waits
  let s := s.enterTraps b i run (traps.filter (fun t => !waits t)) trappc resume chain
  if hard.isEmpty then s else
  let late := hard.map (fun t => (⟨run, t.1, t.2, trappc, resume, chain⟩ : LateTrap))
  (s.modWeft b i (fun w => { w with reform := true, late := w.late ++ late, subs := max w.subs run })).stopBand b (some i)

/-- The main run's lane after ERET (R265). -/
def Lane.eret (l : Lane) : Lane :=
  { l with
    pc := l.tresume &&& ~~~ 7#64, tcause := 0, tdet := 0, trappc := 0, tresume := 0, state := .live, run := 0 }

/-- A lane that may issue again in its own run (R58, R261). -/
def Lane.ready (l : Lane) : Lane := { l with state := if l.run = 0 then .live else .trapped }

/-- The issue cycles of the bundle's word: two at width 64 when both halves hold lanes (R57, R60). -/
def Weft.passes (w : Weft) : Nat :=
  if w.bundle &&& 0xFFFFFFFF#64 ≠ 0 ∧ w.bundle >>> 32 ≠ 0 then 2 else 1

/-- A word has issued: its cycles count, its number in the bundle passes, and its chain goes on or ends (R60, R68). A
ROUTEX instruction counts as one word (DESIGN CHOICE; log 60). -/
def Weft.count (w : Weft) (ch : Option ChainSt) : Weft :=
  { w with issued := w.issued + w.passes, slotCycles := w.slotCycles + w.passes, seq := w.seq + 1, chain := ch }

/-- Count the cycles of a word of the current weft on its core. -/
def State.countCore (s : State) (b : Band) (w : Weft) : State := s.addCycles b.core w.passes

/-- What a word does in one acting lane: the cause that stops it there, its register and predicate writes, its exceptions
and its stochastic-rounding state. -/
structure LaneEff where
  lane : Nat
  cause : Option Cause := none
  v : List (Nat × W32) := []
  p : List (Nat × Bool) := []
  exc : Exc := 0
  rs : Option W32 := none
deriving DecidableEq, Repr

/-- A latch push (R23): the destination whose value the guard-false lanes show, and the values of the acting lanes. -/
structure Push where
  dst : Nat
  wide : Bool
  nwb : Bool
  vals : List (Nat × W64)
deriving DecidableEq, Repr

/-- What a word does: its lanes, its s writes (each with the lanes that make it, none for a write that no lane makes), its
pushes in order, its length, and whether its results may be held in uniform form. -/
structure Eff where
  lanes : List LaneEff := []
  s : List (Nat × W64 × List Nat) := []
  pushes : List Push := []
  words : Nat := 1
  uniform : Bool := true
deriving DecidableEq, Repr

/-- A later word's write of a register ends its wait for a near reply, which then no longer writes it (R147). -/
def Weft.overtake (w : Weft) (key lane : Nat) : List Await :=
  w.await.filter (fun a => !(a.key == key && a.lane == lane && w.replies.any (fun r => r.id == a.req)))

/-- Write a v register of a lane; a failed mark there ends (R217). -/
def Weft.vset (w : Weft) (r lane : Nat) (x : W32) : Weft :=
  {
    w with
    v := SMap.set w.v 0 (r * 64 + lane) x
    failed := SMap.erase w.failed (r * 64 + lane)
    await := w.overtake r lane }

/-- A word's write of an s register. -/
def Weft.swrite (w : Weft) (r : Nat) (x : W64) : Weft :=
  { w.sset r x with await := w.overtake (256 + r) 0, failed := SMap.erase w.failed ((256 + r) * 64) }

/-- Push an entry into the latch queue (R23). -/
def Weft.push (w : Weft) (e : Latch) : Weft := { w with latches := (e :: w.latches).take 4 }

/-- The entry of a push (R23): in a lane of the bundle that did not act, the destination's current value, or zero under
nwb. A helper lane whose guard is true and whose atomic or trap is suppressed is such a lane (DESIGN CHOICE; log 65). -/
def Weft.entryOf (w : Weft) (pc : W64) (x : Push) : Latch :=
  let other := fun l => if x.nwb then 0 else if x.wide then w.vget64 x.dst l else (w.vget x.dst l).setWidth 64
  let vals := w.bundleLanes.map (fun l => (l, ((x.vals.find? (fun e => e.1 == l)).map (fun e => e.2)).getD (other l)))
  ⟨vals.foldl (fun m e => SMap.set m 0 e.1 e.2) [], x.wide, pc, w.seq, none⟩

/-- The uniform-form marks after a word (R72, R73). -/
def Weft.uniAfter (w : Weft) (eff : Eff) : List Nat :=
  let writes := eff.lanes.flatMap (fun e => e.v)
  let regs := (writes.map (fun e => e.1)).eraseDups
  let full := fun r => eff.uniform && w.launched.all (fun l =>
    eff.lanes.any (fun e => e.lane == l && e.cause.isNone && e.v.any (fun x => x.1 == r)))
  let equal := fun r =>
    match writes.filter (fun e => e.1 == r) with
    | [] => false
    | x :: xs => xs.all (fun y => y.2 == x.2)
  (w.uni.filter (fun r => !regs.contains r)) ++ regs.filter (fun r => full r && equal r)

/-- The writes of one lane. -/
def Weft.applyLane (w : Weft) (e : LaneEff) : Weft :=
  let w := e.v.foldl (fun w x => w.vset x.1 e.lane x.2) w
  let w := e.p.foldl (fun w x => w.pset x.1 (1#64 <<< e.lane) (if x.2 then allLanes else 0)) w
  let w := match e.rs with
    | none => w
    | some x => w.modLane e.lane (fun l => { l with rs := x })
  if (w.lane e.lane).helper then w else w.raiseFlags e.exc

/-- Move the program counters of the lanes of a mask. -/
def Weft.advance (w : Weft) (m : W64) (n : Nat) : Weft :=
  w.modLanes m (fun l => { l with pc := l.pc + BitVec.ofNat 64 n })

/-- A lane that traps keeps its stochastic-rounding state, but for group 5: it has taken the steps of its elements (R86). -/
def Weft.keepSteps (w : Weft) (e : LaneEff) : Weft :=
  match e.cause, e.rs with
  | some c, some x => if c.group = 5 then w.modLane e.lane (fun l => { l with rs := x }) else w
  | _, _ => w

/-- A lane's part of a word lands: its writes, or, where it traps, at most its stochastic-rounding state (R86). -/
def Weft.landLane (w : Weft) (e : LaneEff) : Weft := if e.cause.isSome then w.keepSteps e else w.applyLane e

/-- An s write of a word lands, unless every lane that makes it traps (R35, R116, R119). -/
def Weft.landS (bad : W64) (w : Weft) (x : Nat × W64 × List Nat) : Weft :=
  if !x.2.2.isEmpty && x.2.2.all (fun l => bad.getLsbD l) then w else w.swrite x.1 x.2.1

/-- The lanes of a word that trap. -/
def Eff.bad (eff : Eff) : W64 := laneMask ((eff.lanes.filter (fun e => e.cause.isSome)).map (fun e => e.lane))

/-- The weft after a word that no lane's trap sends back: the writes of the lanes that do not trap, the pushes, and the
program counters of the lanes that do not trap. -/
def Weft.apply (w : Weft) (eff : Eff) (ch : Option ChainSt) : Weft :=
  let pc := w.pc
  let entries := eff.pushes.map (w.entryOf pc)
  let uni := w.uniAfter eff
  let w1 := eff.lanes.foldl Weft.landLane w
  let w2 := eff.s.foldl (Weft.landS eff.bad) w1
  let w3 := entries.foldl Weft.push { w2 with uni := uni }
  (w3.count ch).advance (w.bundle &&& ~~~ eff.bad) (8 * eff.words)

/-- The traps of a word. -/
def Eff.traps (eff : Eff) : List (Nat × Cause) := eff.lanes.filterMap (fun e => e.cause.map (fun c => (e.lane, c)))

/-- The lanes of a latch chain go back to its head (R69). -/
def Weft.restart (w : Weft) (eff : Eff) (head : W64) : Weft :=
  (eff.lanes.foldl Weft.keepSteps (w.count none)).modLanes w.bundle (fun l => { l with pc := head })

/-- Finish a word (R57, R69, R260): without a latch chain the lanes that do not trap complete it; in a chain a trap in any
lane takes the effect from every lane and sends the bundle to the chain's head. -/
def State.finish (s : State) (b i : Nat) (bd : Band) (w : Weft) (latch : List (Nat × Nat)) (eff : Eff) : State :=
  let ch := w.chainFor (latch.map (fun r => r.2))
  let pc := w.pc
  let s := s.countCore bd w
  match eff.traps, ch with
  | _ :: _, some h =>
    (s.modWeft b i (fun w => w.restart eff h.pc)).trapWeft b i eff.traps pc h.pc true
  | ts, _ => (s.modWeft b i (fun w => w.apply eff ch)).trapWeft b i ts pc pc false

/-- Every lane of the bundle takes a decode-time trap; nothing else changes (R36, R260). -/
def State.trapAll (s : State) (b i : Nat) (bd : Band) (w : Weft) (latch : List (Nat × Nat)) (c : Cause) : State :=
  let ch := w.chainFor (latch.map (fun r => r.2))
  let resume := (ch.map (fun h => h.pc)).getD w.pc
  let s := s.countCore bd w
  (s.modWeft b i (fun w => w.count none)).trapWeft b i (w.bundleLanes.map (fun l => (l, c))) w.pc resume ch.isSome

/-- The weft that issues: its band and weft numbers with their states; none without a formed bundle. -/
def State.current (s : State) : Option (Nat × Nat × Band × Weft) :=
  match s.cur with
  | none => none
  | some (b, i) =>
    match s.band? b with
    | none => none
    | some bd =>
      match bd.weft? i with
      | none => none
      | some w => if w.bundle = 0 then none else some (b, i, bd, w)

/-- Whether a word reads a latch entry whose value has not landed (R65). -/
def Weft.latchAwaits (w : Weft) (latch : List (Nat × Nat)) : Bool :=
  latch.any (fun x => match (w.latches[x.2]?).bind (fun e => e.reply) with
    | some id => w.replies.any (fun r => r.id == id)
    | none => false)

/-- A register that an MRD will write: its reader waits in place (R64, R65, R244). -/
def Band.mrdWaits (bd : Band) (a : Await) : Bool := bd.mq.any (fun m => m.id == a.req)

/-- Whether a group of eight v registers holds one that awaits a far reply or is marked failed (R300). -/
def Weft.keepsGroup (w : Weft) (bd : Band) (g : Nat) : Bool :=
  w.await.any (fun a => a.key / 8 == g && decide (a.key < 256) && !bd.mrdWaits a && !w.replies.any (fun r => r.id == a.req))
    || w.failed.any (fun e => e.1 / 512 == g)

/-- Issue a word (R36, R63): the checks of groups 7, 3 and 4, then the wait for registers that await a reply, then the
word's own effect. -/
def State.issue (s : State) (n : Needs) (k : Nat → Nat → Band → Weft → Out) : Out :=
  match s.current with
  | none => .refused .noBundle
  | some (b, i, bd, w) =>
    match preCheck bd w n with
    | some c => .next (s.trapAll b i bd w n.latch c)
    | none =>
      if w.latchAwaits n.latch || w.await.any (fun a => n.keys.contains a.key && !bd.mrdWaits a) then .next s.stall
      else if w.awaits n.keys then .next s.hold else k b i bd w

end Sys2Proof.Machine
end

