-- ==== Sys2Proof/Machine/Memory.lean ====
section
/-! DEFINITION. Storage as the agents reach it: the home copy of each place, publication and snapshots (R197 to R201),
presence bits (R185, R186), near addresses (R178 to R184, R188) and parking. -/
namespace Sys2Proof.Machine

/-- A band's scratchpad is zeroed but for the words that a test keeps, and its spill frames unless they are kept: no zeroed word is
wrong (R308). -/
def State.cleanBand (s : State) (b : Nat) (spill : Bool) (keep : Nat → Bool) : State :=
  { s with flaws := s.flaws.filter (fun f => match f.1 with
      | .band id => id != b || keep f.2.1
      | .spill id _ _ => id != b || spill
      | _ => true) }

/-- The home memory of a place. -/
def State.mem (s : State) : Place → Mem
  | .band id => ((s.band? id).map (fun b => b.pad)).getD []
  | .die c d => ((s.ctx? c).map (fun x => SMap.get x.slices [] d)).getD []
  | .hbm => s.hbm
  | .host => s.host
  | .peer _ => []
  | .spill _ _ _ => []

/-- Replace the home memory of a place. A peer's memory is outside the package. -/
def State.setMem (s : State) (p : Place) (m : Mem) : State :=
  match p with
  | .band id => s.modBand id (fun b => { b with pad := m })
  | .die c d => s.modCtx c (fun x => { x with slices := SMap.set x.slices [] d m })
  | .hbm => { s with hbm := m }
  | .host => { s with host := m }
  | .peer _ => s
  | .spill _ _ _ => s

/-- Write bytes at home. -/
def State.put (s : State) (p : Place) (a : Nat) (bs : List Byte) : State := s.setMem p (Mem.write (s.mem p) a bs)

/-- Read bytes at home. -/
def State.homeRead (s : State) (p : Place) (a n : Nat) : List Byte := Mem.read (s.mem p) a n

/-- Whether reads of a place go by snapshots (R197): die scratchpad and far memory. -/
def Place.snapshots : Place → Bool
  | .band _ => false
  | _ => true

/-- Who makes an access: its band, weft, path and snapshot point, the band's gang, and the stamp of its issue. -/
structure Agent where
  band : Nat
  weft : Nat
  path : Path
  snap : Nat
  gang : Nat
  stamp : Nat
deriving DecidableEq, Repr

/-- The identity a publication carries. -/
def Agent.id (g : Agent) : Option (Nat × Nat × Path) := some (g.band, g.weft, g.path)

/-- Whether two ranges of bytes meet. -/
def meet (a n b m : Nat) : Bool := decide (a < b + m) && decide (b < a + n)

/-- Whether a remembered write wrote one of some addresses in rising order. -/
def Old.meets (o : Old) (at_ : List Nat) : Bool :=
  match o.cells.head?, o.cells.getLast?, at_.head?, at_.getLast? with
  | some a, some b, some x, some y => decide (a.1 ≤ y) && decide (x ≤ b.1) && o.cells.any (fun c => at_.contains c.1)
  | _, _, _, _ => false

/-- A write of bytes of band scratchpad is remembered with what stood there, so that a read on another path that nothing orders
after it may be performed before it (R203); one that it overwrites in part is remembered no more, so that no read mixes two writes
(R205; log 55). A copy-path write is ordered by presence bits. What a signal carried in those bytes goes (R203). -/
def Band.wrote (x : Band) (at_ : List Nat) (now : Nat) (who : Option (Nat × Nat × Path)) : Band :=
  let keep := x.old.filter (fun o => !o.meets at_)
  {
    x with
    old := match who with
      | some (b, i, p) => if p == .copy then keep else ⟨at_.map (fun a => (a, Mem.get x.pad a)), (b, i, p), now⟩ :: keep
      | none => keep
    signals := if x.signals.isEmpty then [] else SMap.keep x.signals (fun k => !at_.contains k) }

/-- The cause that a read of bytes meets in a word of near storage whose two wrong bits its check has found (R361, R362). -/
def State.flawAt (s : State) (p : Place) (a n : Nat) : Option Cause :=
  (s.flaws.find? (fun f => f.1 == p && meet f.2.1 8 a n)).map (fun f => f.2.2)

/-- A word of near storage is wrong, and what reads it meets a cause (R361, R362; log 43). -/
def State.setFlaw (s : State) (p : Place) (a : Nat) (c : Cause) : State :=
  { s with flaws := (p, a / 8 * 8, c) :: s.flaws.filter (fun f => !(f.1 == p && f.2.1 == a / 8 * 8)) }

/-- A write that covers a word of near storage makes it good again (R361). -/
def State.mend (s : State) (p : Place) (a n : Nat) : State :=
  { s with flaws := s.flaws.filter (fun f => !(f.1 == p && decide (a ≤ f.2.1) && decide (f.2.1 + 8 ≤ a + n))) }

/-- The runs of consecutive addresses of some bytes, each with its length. -/
def runsOf : List Nat → List (Nat × Nat)
  | [] => []
  | a :: as =>
    match runsOf as with
    | (b, n) :: rs => if b = a + 1 then (a, n + 1) :: rs else (a, 1) :: (b, n) :: rs
    | [] => [(a, 1)]

/-- What remembers a write of addresses of a place beside the bytes: for band scratchpad what stood there, for die scratchpad that a
release no longer stands in the bytes (R203). -/
def State.noteWrite (s : State) (p : Place) (at_ : List Nat) (who : Option (Nat × Nat × Path)) : State :=
  let s := if s.flaws.isEmpty then s else (runsOf at_).foldl (fun (s : State) r => s.mend p r.1 r.2) s
  match p with
  | .band id => s.modBand id (fun x => x.wrote at_ s.clock who)
  | .die c d => s.modCtx c (fun x => if x.signals.isEmpty then x else
      { x with signals := SMap.keep x.signals (fun k => !at_.any (fun a => d * 2 ^ 32 + a == k)) })
  | _ => s

/-- Write bytes at home and record the write as published at the present instant (R198). -/
def State.publishNow (s : State) (p : Place) (a : Nat) (bs : List Byte) (scope : Option (Scope × Nat × Nat))
    (who : Option (Nat × Nat × Path)) (present : Bool) : State :=
  let s := s.noteWrite p ((List.range bs.length).map (a + ·)) who
  if p.snapshots then
    let m := s.mem p
    let cells := bs.mapIdx (fun i x => (a + i, Mem.get m (a + i), x))
    { s.put p a bs with hist := ⟨s.clock, p, cells, scope, who, present⟩ :: s.hist }
  else s.put p a bs

/-- Write single bytes at home as one published write (R205: a sector's bytes land together), each with the bits of it that are
written. Presence bits order only writes of band and die scratchpad (R203). -/
def State.publishCells (s : State) (p : Place) (cells : List (Nat × Nat × Nat)) (who : Option (Nat × Nat × Path))
    (present : Bool) : State :=
  let s := s.noteWrite p ((cells.foldl (fun (m : SMap Unit) c => SMap.insert m c.1 ()) []).map (fun e => e.1)) who
  let m := s.mem p
  let new := fun (c : Nat × Nat × Nat) => (BitVec.ofNat 8 (((Mem.get m c.1).toNat &&& (255 - c.2.2)) ||| (c.2.1 &&& c.2.2)) : Byte)
  let s' := s.setMem p (cells.foldl (fun m c => Mem.set m c.1 (new c)) m)
  if p.snapshots then
    { s' with hist := ⟨s.clock, p, cells.map (fun c => (c.1, Mem.get m c.1, new c)), none, who, present && p != .hbm⟩ :: s.hist }
  else s'

/-- The next instant (R199: completions occur at distinct instants). -/
def State.instant (s : State) : State := { s with clock := s.clock + 1 }

/-- What is left of a poisoned codeword after a write of bytes (R362): nothing when the write covers both sectors. A command
writes a sector at a time: where it has covered one sector whole, and now covers the other, it has covered both. -/
def Poison.after (x : Poison) (a n : Nat) (cmd : Option Nat) : Option Poison :=
  let low := decide (a ≤ x.word) && decide (x.word + 32 ≤ a + n)
  let high := decide (a ≤ x.word + 32) && decide (x.word + 64 ≤ a + n)
  if low && high then none else
  match cmd with
  | none => some x
  | some k =>
    if !low && !high then some x
    else if x.half = some (k, low) then none
    else some { x with half := some (k, high) }

/-- A write of HBM, of a command or of no command, clears the poison of the codewords that it covers whole (R362; log 42). -/
def State.unpoison (s : State) (p : Place) (a n : Nat) (cmd : Option Nat) : State :=
  if p = .hbm then { s with poison := s.poison.filterMap (fun x => x.after a n cmd) } else s

/-- A write that is published when it is performed or lands (R198). -/
def State.land (s : State) (p : Place) (a : Nat) (bs : List Byte) (who : Option (Nat × Nat × Path)) (present : Bool) :
    State :=
  (s.instant.publishNow p a bs none who present).unpoison p a bs.length none

/-- A write of some bits of bytes, of a command or of no command, which is published when it lands (R198). -/
def State.landMasked (s : State) (p : Place) (a : Nat) (bs mask : List Byte) (who : Option (Nat × Nat × Path)) (cmd : Option Nat) :
    State :=
  if mask.all (fun m => m == 255) then (s.land p a bs who false).unpoison p a bs.length cmd else
  let cells := (bs.zip mask).mapIdx (fun i x => (a + i, x.1.toNat, x.2.toNat))
  s.instant.publishCells p (cells.filter (fun c => c.2.2 != 0)) who false

/-- The value a byte had at an instant, from its value now (newest publication first). -/
def byteAt (p : Place) (a t : Nat) : List Pub → Byte → Byte
  | [], v => v
  | x :: xs, v =>
    if x.time ≤ t then v else
    byteAt p a t xs (if x.place = p then ((x.cells.find? (fun c => c.1 == a)).map (fun c => c.2.1)).getD v else v)

/-- Whether a publication must be seen by a refresh of a weft in a gang (R199). -/
def Pub.reaches (x : Pub) (gang : Nat) : Bool :=
  match x.scope with
  | some (.gang, _, g) => g == gang
  | _ => true

/-- Whether a write made on one path is ordered before an access of an agent by a fence that has completed, which its weft made or
heard of before it issued the access (R203). -/
def fencedBefore (fenced : List Fenced) (who : Nat × Nat × Path) (time : Nat) (g : Agent) : Bool :=
  fenced.any (fun f => f.fence.isNone && f.band == who.1 && f.weft == who.2.1 && f.p == who.2.2 && f.q == g.path && decide (time ≤ f.time)
    && decide (f.heard ≤ g.stamp))

/-- Whether a publication is ordered before the reads of an agent whatever its snapshot point: by presence bits (R203), as
the weft's own write on the same path (R202), or by a fence that reached the weft (R203). -/
def Pub.ordered (x : Pub) (g : Agent) (fenced : List Fenced) : Bool :=
  x.present || (match x.who with
    | none => false
    | some who => who == (g.band, g.weft, g.path) || fencedBefore fenced who x.time g)

/-- The earliest instant whose values a read may return (R197): the latest publication of the bytes before the snapshot
point or ordered before the read, and no older than what the weft has seen of them on the path. -/
def State.readFloor (s : State) (p : Place) (a n : Nat) (g : Agent) (fenced : List Fenced) (seen : List Nat) : Nat :=
  let hit := fun (x : Pub) => decide (x.place = p) && x.cells.any (fun c => decide (a ≤ c.1) && decide (c.1 < a + n))
    && ((decide (x.time ≤ g.snap) && x.reaches g.gang) || x.ordered g fenced)
  (((s.hist.filter hit).map (fun x => x.time)) ++ seen).foldl max 0

/-- The key of a byte in a weft's record of what it has seen, by path and place. -/
def seenKey (path : Path) (p : Place) (a : Nat) : Nat :=
  let pc := match path with
    | .lane => 0 | .copy => 1 | .chain => 2 | .matrix => 3 | .coll => 4
  let pl := match p with
    | .die _ d => d
    | .hbm => 4
    | _ => 5
  (pc * 8 + pl) * 2 ^ 64 + a

/-- What a weft has seen of bytes on a path. -/
def Weft.seenOf (w : Weft) (path : Path) (p : Place) (a n : Nat) : List Nat :=
  (List.range n).filterMap (fun i => SMap.find? w.seen (seenKey path p (a + i)))

/-- Record what a weft has seen of bytes (R197: no going back). -/
def Weft.see (w : Weft) (path : Path) (p : Place) (a n t : Nat) : Weft :=
  { w with seen := (List.range n).foldl (fun m i => SMap.insert m (seenKey path p (a + i)) t) w.seen }

/-- A read at home is a read too: a later one of the bytes goes back behind it no more (R197). -/
def State.sawHome (s : State) (g : Agent) (p : Place) (a n : Nat) : State :=
  if p.snapshots then s.modWeft g.band g.weft (fun w => w.see g.path p a n s.clock) else s

/-- A read of published writes (R197): the values of an instant that the device chooses among those allowed (log 5). The
weft remembers the instant. -/
def State.readShared (s : State) (p : Place) (a n : Nat) (g : Agent) : List Byte × State :=
  let w := s.weft? g.band g.weft
  let fenced := (w.map (fun w => w.fenced)).getD []
  let lo := s.readFloor p a n g fenced ((w.map (fun w => w.seenOf g.path p a n)).getD [])
  let t := lo + Config.freeNat s.freeCtr % (s.clock + 1 - min lo s.clock)
  ((List.range n).map (fun i => byteAt p (a + i) t s.hist (Mem.get (s.mem p) (a + i))),
    s.tick.modWeft g.band g.weft (fun w => w.see g.path p a n t))

/-- The stores of a weft that come before an atomic on some bytes, and the others (R200): those that meet the bytes, and of the
older ones those that meet a store that is published; the latest store is looked at first. -/
def splitStores : List (Nat × Nat) → List DieStore → List DieStore × List DieStore
  | _, [] => ([], [])
  | rs, x :: xs =>
    if rs.any (fun r => meet r.1 r.2 x.addr x.bytes.length) then
      let y := splitStores ((x.addr, x.bytes.length) :: rs) xs
      (x :: y.1, y.2)
    else
      let y := splitStores rs xs
      (y.1, x :: y.2)

/-- Publish lane-path stores of a weft in their order, at one instant, and keep the others (R198, R199). -/
def State.publishSome (s : State) (b i : Nat) (scope : Scope) (go keep : List DieStore) : State :=
  match s.band? b with
  | some bd =>
    if go.isEmpty then s else
    let p := Place.die bd.ctx (dieOf bd.core)
    let s := s.instant
    let s := go.foldl (fun s x => s.publishNow p x.addr x.bytes (some (scope, b, bd.gang)) (some (b, i, .lane)) false) s
    s.modWeft b i (fun w => { w with wbuf := keep })
  | none => s

/-- The publish step of PHASE (R199). -/
def State.publish (s : State) (b i : Nat) (scope : Scope) : State :=
  s.publishSome b i scope (((s.weft? b i).map (fun w => w.wbuf)).getD []) []

/-- What a weft has stored in the bytes of an atomic is published before it (R200). -/
def State.publishBefore (s : State) (b i a n : Nat) : State :=
  let x := splitStores [(a, n)] (((s.weft? b i).map (fun w => w.wbuf)).getD []).reverse
  s.publishSome b i .die x.1.reverse x.2.reverse

/-- Whether a read on a path by a weft comes after a write of band scratchpad in any case (R202, R203). -/
def Old.before (o : Old) (g : Agent) (fenced : List Fenced) : Bool := o.who.2.2 == g.path || fencedBefore fenced o.who o.time g

/-- The byte that a read sees that comes before some writes (R203). -/
def oldByte (late : List Old) (a : Nat) (v : Byte) : Byte :=
  (late.findSome? (fun o => (o.cells.find? (fun c => c.1 == a)).map (fun c => c.2))).getD v

/-- A read of band scratchpad (R203): where a write on another path is not ordered before it, the device chooses whether the
read comes first (log 5). -/
def State.bandRead (s : State) (id a n : Nat) (g : Agent) : List Byte × State :=
  let bs := s.homeRead (.band id) a n
  let old := ((s.band? id).map (fun x => x.old)).getD []
  if old.isEmpty then (bs, s) else
  let fenced := ((s.weft? g.band g.weft).map (fun w => w.fenced)).getD []
  let late := old.filter (fun o => o.meets ((List.range n).map (a + ·)) && !o.before g fenced)
  if late.isEmpty then (bs, s)
  else if Config.freeNat s.freeCtr % 2 = 0 then (bs, s.tick)
  else (bs.mapIdx (fun i v => oldByte late (a + i) v), s.tick)

/-- The refresh step (R199, R201): the weft's snapshot point moves to now. -/
def State.refresh (s : State) (b i : Nat) : State :=
  let s := s.instant
  s.modWeft b i (fun w => { w with snap := s.clock })

/-- Outstanding copies over a line (R185). -/
def State.copiesOn (s : State) (l : Line) : Nat :=
  match l.place with
  | .band id => ((s.band? id).map (fun b => SMap.get b.absent 0 l.line)).getD 0
  | .die c d => ((s.ctx? c).map (fun x => SMap.get x.absent 0 (d * 2 ^ 20 + l.line))).getD 0
  | _ => 0

/-- Change the count of a line's outstanding copies. -/
def State.setCopies (s : State) (l : Line) (n : Nat) : State :=
  match l.place with
  | .band id => s.modBand id (fun b => { b with absent := SMap.set b.absent 0 l.line n })
  | .die c d => s.modCtx c (fun x => { x with absent := SMap.set x.absent 0 (d * 2 ^ 20 + l.line) n })
  | _ => s

/-- The lines of an access. -/
def linesOf (p : Place) (a n : Nat) : List Line :=
  (List.range ((a + max n 1 - 1) / 128 + 1 - a / 128)).map (fun k => (⟨p, a / 128 + k⟩ : Line))

/-- The lines of an access that are absent. -/
def State.absentLines (s : State) (p : Place) (a n : Nat) : List Line :=
  (linesOf p a n).filter (fun l => s.copiesOn l != 0)

/-- Where a near address lies: a lane's spill frame, the weft's uniform area, or bytes of a place. -/
inductive NearLoc where
  | spill (lane off : Nat)
  | uspill (off : Nat)
  | at_ (p : Place) (off : Nat)
deriving DecidableEq, Repr

/-- The band that a member field selects (R180): 0 and the band's own position are the band itself. -/
def State.member (s : State) (b : Nat) (bd : Band) (m : Nat) : Option Nat :=
  if m = 0 then some b else
  if m = bd.gangPos + 1 then some b else
  if 12 < m then none else
  ((SMap.find? s.gangs bd.gang).bind (fun g => g.members[m - 1]?)).bind
    (fun id => (s.band? id).map (fun _ => id))

/-- A band-space or die-space address of an access on any path (R180, R184, R188): its place and offset, or the reason of
group 6. `die` is the die whose slice is reached. -/
def State.nearAddr (s : State) (b : Nat) (bd : Band) (isDie : Bool) (die a n : Nat) (write : Bool) :
    Except Nat (Place × Nat) :=
  if isDie then
    match s.ctx? bd.ctx with
    | none => .error 2
    | some c =>
      if c.sliceBytes < a + n then .error 2
      else if 2 ^ 27 ≤ a then .error 3
      else if write && decide (a < c.roLen) then .error 4
      else .ok (.die bd.ctx die, a)
  else
    let off := a % 2 ^ 20
    match s.member b bd (a / 2 ^ 20 % 16) with
    | none => .error 3
    | some id =>
      if ((s.band? id).map (fun x => x.padBytes)).getD 0 < off + n then .error 2
      else if 2 ^ 24 ≤ a then .error 3
      else .ok (.band id, off)

/-- A near address of the lane path, with the reasons of R188 in their order; `lane` is none for LDU and STU. -/
def State.nearLoc (s : State) (b : Nat) (bd : Band) (sp : Space) (lane : Option Nat) (a : W64) (n : Nat) (write : Bool) :
    Except Nat NearLoc :=
  if a.toNat % n ≠ 0 then .error 1 else
  match sp with
  | .spill =>
    let size := if lane.isSome then bd.spillBytes else 1024
    if size < a.toNat + n then .error 2 else
    match lane with
    | some l => .ok (.spill l a.toNat)
    | none => .ok (.uspill a.toNat)
  | .band => (s.nearAddr b bd false 0 a.toNat n write).map (fun x => .at_ x.1 x.2)
  | .die => (s.nearAddr b bd true (dieOf bd.core) a.toNat n write).map (fun x => .at_ x.1 x.2)

/-- Whether the access is far side (R65): die scratchpad, another band of the gang, or a spill load that misses, which the
device chooses (R179; log 5). -/
def NearLoc.farSide (b : Nat) (free : Nat) (load : Bool) : NearLoc → Bool
  | .spill _ _ => load && free % 2 == 1
  | .uspill _ => load && free % 2 == 1
  | .at_ (.band id) _ => id != b
  | .at_ _ _ => true

/-- The weft's own stores over the bytes of a die read (R197): the latest store of each byte. -/
def overlay (w : Weft) (a : Nat) (bs : List Byte) : List Byte :=
  bs.mapIdx (fun i x =>
    w.wbuf.foldl (fun v e => if e.addr ≤ a + i then (e.bytes[a + i - e.addr]?).getD v else v) x)

/-- Whether one order says all that another says. -/
def Fenced.covers (x y : Fenced) : Bool :=
  x.band == y.band && x.weft == y.weft && x.p == y.p && x.q == y.q && x.fence == y.fence && decide (y.time ≤ x.time)
    && decide (x.heard ≤ y.heard)

/-- Join what fences order into a list. -/
def joinFenced (xs ys : List Fenced) : List Fenced :=
  ys.foldl (fun a y => if a.any (fun x => x.covers y) then a else a.filter (fun x => !y.covers x) ++ [y]) xs

/-- What fences order, as a weft hears of it at a stamp. -/
def heardAt (stamp : Nat) (fs : List Fenced) : List Fenced := fs.map (fun f => { f with heard := stamp })

/-- The agent of a weft's lane path. -/
def State.laneAgent (s : State) (b i : Nat) (bd : Band) (w : Weft) : Agent := ⟨b, i, .lane, w.snap, bd.gang, s.stamp⟩

/-- What the signals in some bytes carry. -/
def signalsIn (m : SMap (List Fenced)) (a n : Nat) : List Fenced :=
  if m.isEmpty then [] else (List.range n).foldl (fun f k => joinFenced f (SMap.get m [] (a + k))) []

/-- Put a signal into bytes: what the fences of the weft that writes them order (R203). -/
def setSignals (m : SMap (List Fenced)) (a n : Nat) (f : List Fenced) : SMap (List Fenced) :=
  (List.range n).foldl (fun m k => SMap.set m [] (a + k) f) m

/-- A weft receives the signals in bytes that it reads (R203): of band scratchpad, or of die scratchpad by an acquire. -/
def State.hear (s : State) (b i : Nat) (p : Place) (a n : Nat) : State :=
  let got := match p with
    | .band id => ((s.band? id).map (fun x => signalsIn x.signals a n)).getD []
    | .die c d => ((s.ctx? c).map (fun x => signalsIn x.signals (d * 2 ^ 32 + a) n)).getD []
    | _ => []
  if got.isEmpty then s else s.modWeft b i (fun w => { w with fenced := joinFenced w.fenced (heardAt s.stamp got) })

/-- A weft signals in bytes that it has written (R203): with a store to band scratchpad, or a release to die scratchpad. -/
def State.signal (s : State) (b i : Nat) (p : Place) (a n : Nat) : State :=
  let f := joinFenced [] (heardAt 0 (((s.weft? b i).map (fun w => w.fenced)).getD []))
  if f.isEmpty then s else
  match p with
  | .band id => s.modBand id (fun x => { x with signals := setSignals x.signals a n f })
  | .die c d => s.modCtx c (fun x => { x with signals := setSignals x.signals (d * 2 ^ 32 + a) n f })
  | _ => s

/-- The cause that a lane-path load meets in the storage that it reads (R362). -/
def State.locFlaw (s : State) (b i : Nat) (loc : NearLoc) (n : Nat) : Option Cause :=
  match loc with
  | .spill l off => s.flawAt (.spill b i l) off n
  | .uspill off => s.flawAt (.spill b i 64) off n
  | .at_ p off => s.flawAt p off n

/-- A lane-path load: its bytes, and the state after it. `home`: an acquire load reads at home (R201). -/
def State.nearRead (s : State) (b i : Nat) (bd : Band) (w : Weft) (loc : NearLoc) (n : Nat) (home : Bool) :
    List Byte × State :=
  match loc with
  | .spill l off => (Mem.read w.spill (l * 4096 + off) n, s)
  | .uspill off => (Mem.read w.uspill off n, s)
  | .at_ (.die c d) off =>
    if home then
      let bs := overlay w off (s.homeRead (.die c d) off n)
      (bs, (s.modWeft b i (fun w => w.see .lane (.die c d) off n s.clock)).hear b i (.die c d) off n)
    else
      let r := s.readShared (.die c d) off n (s.laneAgent b i bd w)
      (overlay w off r.1, r.2)
  | .at_ (.band id) off =>
    let r := s.bandRead id off n (s.laneAgent b i bd w)
    (r.1, r.2.hear b i (.band id) off n)
  | .at_ p off => (s.homeRead p off n, s)

/-- A lane-path store (R196, R197, R201): into the weft's write buffer for die scratchpad, at home elsewhere and for a
release store. -/
def State.nearWrite (s : State) (b i : Nat) (loc : NearLoc) (bs : List Byte) (home : Bool) : State :=
  match loc with
  | .spill l off =>
    (s.mend (.spill b i l) off bs.length).modWeft b i (fun w => { w with spill := Mem.write w.spill (l * 4096 + off) bs })
  | .uspill off =>
    (s.mend (.spill b i 64) off bs.length).modWeft b i (fun w => { w with uspill := Mem.write w.uspill off bs })
  | .at_ (.die c d) off =>
    if home then (s.land (.die c d) off bs (some (b, i, .lane)) false).signal b i (.die c d) off bs.length
    else s.modWeft b i (fun w => { w with wbuf := w.wbuf ++ [⟨off, bs⟩] })
  | .at_ (.band id) off =>
    (s.publishNow (.band id) off bs none (some (b, i, .lane)) false).signal b i (.band id) off bs.length
  | .at_ p off => s.put p off bs

/-- Group 6 as a cause (R188, R259). -/
def nearCause (write : Bool) (size : Nat) (sp : Space) (reason : Nat) (a : W64) : Cause :=
  let spc := match sp with
    | .spill => 0
    | .band => 1
    | .die => 2
  ⟨6, reason, BitVec.ofNat 96 ((if write then 2 ^ 69 else 0) + size * 2 ^ 66 + spc * 2 ^ 64 + a.toNat), false⟩

/-- The lanes of a mask park (R58, R60, R69): they leave head selection and will go on at an address, and the slot turns to
another ready weft (R63). -/
def Weft.parkLanes (w : Weft) (m : W64) (why : Park) (pc : W64) : Weft :=
  { w.modLanes m (fun l => { l with state := .parked why, pc := pc }) with reform := true, spent := true }

/-- The bundle parks on a word that has had no effect (R69, R186): at the word, or at its chain's head. -/
def State.parkWord (s : State) (b i : Nat) (bd : Band) (w : Weft) (latch : List (Nat × Nat)) (why : Park) : State :=
  let pc := ((w.chainFor (latch.map (fun r => r.2))).map (fun h => h.pc)).getD w.pc
  (s.countCore bd w).modWeft b i (fun w => (w.count none).parkLanes w.bundle why pc)

/-- Whether a later word on a path must wait (R199, R203, R204): a FENCE.X that names the path is pending, the weft's own or one
that a signal has told it of, or, where the word touches die scratchpad or far memory, a PHASE is. -/
def Weft.held? (w : Weft) (p : Path) (dieOrFar : Bool) : Bool :=
  w.fences.any (fun f => f.p == p || f.q == p) || w.fenced.any (fun f => f.fence.isSome && f.q == p) || (dieOrFar && w.phase.isSome)

end Sys2Proof.Machine
end

