-- ==== Sys2Proof/Machine/Barrier.lean ====
section
/-! DEFINITION. Band and gang barriers (R207): arrival and release, and reconvergence barriers (R122 to R125). -/
namespace Sys2Proof.Machine

/-- A barrier that nothing has used. -/
def Barrier.fresh : Barrier := ⟨0, [], [], []⟩

/-- A band or gang barrier. -/
def State.barrier (s : State) (b : Nat) (gang : Bool) (n : Nat) : Barrier :=
  match s.band? b with
  | none => Barrier.fresh
  | some bd =>
    if gang then ((SMap.find? s.gangs bd.gang).map (fun g => SMap.get g.bar Barrier.fresh n)).getD Barrier.fresh
    else SMap.get bd.bar Barrier.fresh n

/-- Replace a band or gang barrier. -/
def State.setBarrier (s : State) (b : Nat) (gang : Bool) (n : Nat) (x : Barrier) : State :=
  match s.band? b with
  | none => s
  | some bd =>
    if gang then { s with gangs := SMap.modify s.gangs bd.gang (fun g => { g with bar := SMap.set g.bar Barrier.fresh n x }) }
    else s.modBand b (fun y => { y with bar := SMap.set y.bar Barrier.fresh n x })

/-- How a barrier names an arrived lane. -/
def arrivalCode (gang : Bool) (b i lane : Nat) : Nat := (if gang then b * 4096 else 0) + i * 64 + lane

/-- The bands whose lanes a barrier waits for (R207). -/
def State.barrierBands (s : State) (b : Nat) (gang : Bool) : List Nat :=
  if gang then ((s.band? b).bind (fun bd => (SMap.find? s.gangs bd.gang).map (fun g => g.members))).getD [b] else [b]

/-- The lanes that must still arrive or exit: launched lanes that have not exited, as arrival codes. -/
def State.mustArrive (s : State) (b : Nat) (gang : Bool) : List Nat :=
  (s.barrierBands b gang).flatMap (fun id =>
    match s.band? id with
    | none => []
    | some bd => (bd.wefts.mapIdx (fun i w =>
        ((List.range w.width).filter (fun l => (w.lane l).state != .unlaunched && (w.lane l).state != .exited)).map
          (fun l => arrivalCode gang id i l))).flatten)

/-- Generation tok is complete when (G - tok) mod 2^16 lies in 1 to 32767 (R208). -/
def genComplete (g tok : BitVec 16) : Bool := decide (1 ≤ (g - tok).toNat) && decide ((g - tok).toNat ≤ 32767)

/-- The generation that a lane waits for and that is complete when a barrier's generation becomes g. -/
def Lane.leaving (l : Lane) (gang : Bool) (n : Nat) (g : BitVec 16) : Option (BitVec 16) :=
  match l.state with
  | .parked (.barrier x m tok _) => if x == gang && m == n && genComplete g tok then some tok else none
  | _ => none

/-- Whether a lane leaves a barrier when its generation becomes g. -/
def Lane.leaves (l : Lane) (gang : Bool) (n : Nat) (g : BitVec 16) : Bool := (l.leaving gang n g).isSome

/-- What the completion of a generation signals: what the fences of the wefts that arrived in it order (R203). -/
def Barrier.signals (x : Barrier) (tok : BitVec 16) : List Fenced := SMap.get x.done [] tok.toNat

/-- Whether a lane's barrier wait carries .gang. -/
def Lane.phased (l : Lane) : Bool :=
  match l.state with
  | .parked (.barrier _ _ _ ph) => ph
  | _ => false

/-- The lanes of a band that leave a released barrier become live; with .gang their weft refreshes (R207, R208).
A barrier is a signal to the wefts of those lanes (R203). -/
def Band.wake (bd : Band) (gang : Bool) (n : Nat) (x : Barrier) (now stamp : Nat) : Band :=
  { bd with wefts := bd.wefts.map (fun w =>
      let ph := w.lanes.any (fun l => l.leaves gang n x.gen && l.phased)
      { w with
        lanes := w.lanes.map (fun l => if l.leaves gang n x.gen then l.ready else l)
        fenced := w.lanes.foldl (fun a l => match l.leaving gang n x.gen with
          | some tok => joinFenced a (heardAt stamp (x.signals tok))
          | none => a) w.fenced
        snap := if ph then now else w.snap }) }

/-- Release a barrier if every lane it waits for has arrived or exited (R207). -/
def State.barRelease (s : State) (b : Nat) (gang : Bool) (n : Nat) : State :=
  let x := s.barrier b gang n
  if x.arrived.isEmpty || !((s.mustArrive b gang).all (fun c => x.arrived.contains c)) then s else
  let y : Barrier := ⟨x.gen + 1, [], [], SMap.set x.done [] x.gen.toNat x.carried⟩
  let s := (s.setBarrier b gang n y).instant
  (s.barrierBands b gang).foldl (fun s id => s.modBand id (fun bd => bd.wake gang n y s.clock s.stamp)) s

/-- The lanes of a mask arrive at a barrier (R208): a lane that has arrived in this generation does not arrive again. The arrival
carries what the fences of its weft order (R203). -/
def State.arrive (s : State) (b i : Nat) (gang : Bool) (n : Nat) (lanes : List Nat) : State :=
  let x := s.barrier b gang n
  let new := (lanes.map (arrivalCode gang b i)).filter (fun c => !x.arrived.contains c)
  let f := if new.isEmpty then [] else heardAt 0 (((s.weft? b i).map (fun w => w.fenced)).getD [])
  (s.setBarrier b gang n { x with arrived := x.arrived ++ new, carried := joinFenced x.carried f }).barRelease b gang n

/-- Release every barrier of a band and its gang that an exit completes. -/
def State.barReleaseAll (s : State) (b : Nat) : State :=
  let s := (List.range 16).foldl (fun s n => s.barRelease b false n) s
  (List.range 4).foldl (fun s n => s.barRelease b true n) s

/-- Release reconvergence barrier k if every member waits at it or has exited (R124). -/
def Weft.rbRelease (w : Weft) (k : Nat) : Weft :=
  match SMap.find? w.rb k with
  | none => w
  | some x =>
    let waits := fun (l : Lane) => l.state == .waiting (Fin.ofNat 16 k)
    if (laneList w.width x.members).all (fun l => waits (w.lane l) || (w.lane l).state == .exited) then
      {
        w with
        lanes := w.lanes.map (fun l => if waits l then { l.ready with pc := x.join } else l)
        rb := SMap.erase w.rb k }
    else w

end Sys2Proof.Machine
end

