-- ==== Sys2Proof/Machine/Word.lean ====
section
/-! DEFINITION. How a lane word is computed and finished, once for the F3 and FI formats and for pair halves: the sources
of every lane, the result of every acting lane, and what is written and pushed (R23, R35, R49, R94, R96, R102, R126). -/
namespace Sys2Proof.Machine

/-- What an operation sees: its word, the weft before the word issued, its sources by lane, and the contributing lanes
(in the bundle, guard true, not helpers: R139, R152). -/
structure WordIn where
  f : F3
  w : Weft
  a : Nat → W64
  b : Nat → W64
  c : Nat → W64
  contrib : List Nat

/-- A source as 32 bits. -/
def WordIn.a32 (i : WordIn) (l : Nat) : W32 := (i.a l).setWidth 32
/-- A source as 32 bits. -/
def WordIn.b32 (i : WordIn) (l : Nat) : W32 := (i.b l).setWidth 32
/-- A source as 32 bits. -/
def WordIn.c32 (i : WordIn) (l : Nat) : W32 := (i.c l).setWidth 32

/-- A predicate that a source field names, in a lane. -/
def WordIn.pred (i : WordIn) (x : Src) (l : Nat) : Bool :=
  match x with
  | .pred p => (i.w.pget p.val).getLsbD l
  | _ => false

/-- The rounding mode of the modifier field. -/
def WordIn.mode (i : WordIn) : Rnd := Rnd.ofCode i.f.rnd.val

/-- The destination's current value, which a partial destination merges into: zero under nwb (R136). -/
def WordIn.old (i : WordIn) (l : Nat) : W32 := if i.f.nwb then 0 else i.w.vget i.f.dst.val l

/-- What an operation gives in one lane: a value, a predicate, its exceptions by element, and the stochastic-rounding
state after it. -/
structure LaneOut where
  val : W64 := 0
  pv : Bool := false
  exc : List Exc := []
  rs : Option W32 := none
deriving DecidableEq, Repr

/-- A 32-bit result. -/
def LaneOut.v32 (x : W32) : LaneOut := { val := x.setWidth 64 }

/-- A floating-point result. -/
def LaneOut.ofRes (r : Res) : LaneOut := { val := BitVec.ofNat 64 r.bits, exc := [r.exc] }

/-- One operation of a word: an F3 or FI word has one, a pair has two. `uses` names the lanes whose sources a lane takes
its result from, for the failed marks of R217. -/
structure Part where
  opc : Nat
  half : Bool
  act : W64
  dst : Nat
  nwb : Bool
  dk : DstKind
  carry : Option Nat
  anyLane : Bool
  uniform : Bool
  fields : List FieldRead
  uses : Nat → List Nat
  out : Nat → LaneOut

/-- Of two causes in one lane the lowest group wins (R258). -/
def pickCause (a b : Option Cause) : Option Cause :=
  match a, b with
  | some x, some y => if y.group < x.group then some y else some x
  | some x, none => some x
  | none, y => y

/-- The cause that stops a lane: a failed mark that it meets (R217) or an enabled exception (R96); a helper lane never
raises group 5. -/
def Part.cause (x : Part) (w : Weft) (l : Nat) (o : LaneOut) : Option Cause :=
  let marks := (x.uses l).flatMap (fun u => x.fields.flatMap (fun r => r.marks w u))
  let mark := marks.foldl (fun a c => pickCause a (some { c with half := x.half })) none
  pickCause mark (if (w.lane l).helper then none else arithTrap w.flags x.opc x.half o.exc)

/-- The effect of an operation. -/
def Part.eff (x : Part) (w : Weft) : Eff :=
  let acting := laneList w.width x.act
  let outs := acting.map (fun l => (l, x.out l))
  let regs := fun (o : LaneOut) =>
    if x.nwb then [] else
    match x.dk with
    | .v => [(x.dst, o.val.setWidth 32)]
    | .vpair => [(x.dst, o.val.setWidth 32), (x.dst + 1, (o.val >>> 32).setWidth 32)]
    | _ => []
  let preds := fun (o : LaneOut) =>
    (match x.dk with
      | .p => [(x.dst, o.pv)]
      | _ => []) ++ x.carry.toList.map (fun k => (k, o.pv))
  let lanes := outs.map (fun e =>
    {
      lane := e.1, cause := x.cause w e.1 e.2, v := regs e.2, p := preds e.2
      exc := Exc.all e.2.exc, rs := e.2.rs : LaneEff })
  let sreg := match x.dk with
    | .s => some x.dst
    | .lstk => some ((x.dst - 1) / 2)
    | _ => none
  let from_ := if x.anyLane then acting.head? else w.lowest x.act
  let s := match sreg, from_ with
    | some r, some l => [(r, (x.out l).val, [l])]
    | _, _ => []
  let pushes := match x.dk with
    | .v => [⟨x.dst, false, x.nwb, outs.map (fun e => (e.1, low32 e.2.val))⟩]
    | .vpair => [⟨x.dst, true, x.nwb, outs.map (fun e => (e.1, e.2.val))⟩]
    | _ => []
  { lanes := lanes, s := s, pushes := pushes, uniform := x.uniform }

/-- Both halves of a pair in one lane (R35): a trap in either half takes both, and an arithmetic trap reports the exceptions
of both (R259). -/
def LaneEff.both (flags : W64) (a b : LaneEff) : LaneEff :=
  let exc := a.exc ||| b.exc
  {
    lane := a.lane, cause := (pickCause a.cause b.cause).map (Cause.widen flags exc), v := a.v ++ b.v, p := a.p ++ b.p
    exc := exc }

/-- The effect of a pair (R35): pushes first half first. -/
def Eff.both (flags : W64) (width : Nat) (a b : Eff) : Eff :=
  let at_ := fun (e : Eff) (l : Nat) => e.lanes.find? (fun x => x.lane == l)
  let lanes := (List.range width).filterMap (fun l =>
    match at_ a l, at_ b l with
    | some x, some y => some (x.both flags y)
    | some x, none => some x
    | none, y => y)
  { lanes := lanes, s := a.s ++ b.s, pushes := a.pushes ++ b.pushes }

/-- The element format in which a source kind reads an inline constant (R19). -/
def srcFmt (f : F3) (k : SrcKind) : Fmt :=
  match k with
  | .f32 => .f32
  | .half => if f.ext.val % 2 = 1 then .bf16 else .f16
  | .f16x2 => .f16
  | .bf16x2 => .bf16
  | .i8x4 => .s8
  | .i4x8 => .s4
  | .cvt => f.fmts.2
  | _ => .s32

/-- The routes of a word: its own, then those of a ROUTEX word before it (R28). -/
def routesOf (f : F3) (fx : Option FX) : List (Nat × Target × Route) :=
  let own := [(0, f.target, f.route)]
  let more := match fx with
    | none => []
    | some x => [(1, x.target2, x.route2), (2, x.target3, x.route3)]
  (own ++ more).filter (fun r => r.2.1 != .none)

/-- A source field with the route that targets it. -/
def fieldRead (w : Weft) (f : F3) (rts : List (Nat × Target × Route)) (t : Target) (k : SrcKind) (x : Src) :
    Option FieldRead :=
  match x with
  | .op o =>
    let r := (rts.find? (fun r => r.2.1 == t)).map (fun r => r.2.2)
    let from_ := fun lane => match r with
      | none => some lane
      | some r => r.source w.width lane ((r.index.map (fun d => (w.vget d lane).toNat)).getD 0)
    some ⟨o, k == .i64, srcFmt f k, from_, r.bind Route.index⟩
  | _ => none

/-- A field's value, zero where the field is unused. -/
def fieldValue (w : Weft) (x : Option FieldRead) (l : Nat) : W64 := (x.map (fun r => r.value w l)).getD 0

/-- Whether a conversion writes only part of its destination (R136). -/
def partialDst (op : F3Op) (f : F3) : Bool :=
  match op with
  | .fcvt | .i2f | .f2i => convN f.fmts.1 f.fmts.2 * f.fmts.1.width < 32
  | _ => false

/-- The v registers a destination covers. -/
def dstRegs (dk : DstKind) (dst : Nat) (nwb : Bool) : List Nat :=
  if nwb then [] else
  match dk with
  | .v => [dst]
  | .vpair => [dst, dst + 1]
  | _ => []

/-- An operation's meaning: its result in each lane, and the lanes whose sources it takes. -/
structure Sem where
  out : WordIn → Nat → LaneOut
  uses : WordIn → Nat → List Nat

/-- A meaning within one lane. -/
def Sem.lanewise (f : WordIn → Nat → LaneOut) : Sem := ⟨f, fun _ l => [l]⟩

/-- A lane word made ready against its weft: what it needs and what it does. -/
structure Prep where
  needs : Needs
  eff : Eff

/-- Issue a lane word: it does what its weft, as it stands, makes of it. -/
def State.runPrep (s : State) (mk : Weft → Prep) : Out :=
  match s.current with
  | none => .refused .noBundle
  | some (_, _, _, w) =>
    s.issue (mk w).needs (fun b i bd w => .next (s.finish b i bd w (mk w).needs.latch (mk w).eff))

/-- An F3 word's source A as a field. -/
def f3A (op : F3Op) (f : F3) (fx : Option FX) (w : Weft) : Option FieldRead :=
  fieldRead w f (routesOf f fx) .a (srcKindA op f.ext.val) f.a
/-- An F3 word's source B as a field. -/
def f3B (op : F3Op) (f : F3) (fx : Option FX) (w : Weft) : Option FieldRead :=
  fieldRead w f (routesOf f fx) .b op.info.b f.b
/-- An F3 word's source C as a field. -/
def f3C (op : F3Op) (f : F3) (fx : Option FX) (w : Weft) : Option FieldRead :=
  fieldRead w f (routesOf f fx) .c op.info.c f.c

/-- The source fields of an F3 word. -/
def f3Fields (op : F3Op) (f : F3) (fx : Option FX) (w : Weft) : List FieldRead :=
  (f3A op f fx w).toList ++ (f3B op f fx w).toList ++ (f3C op f fx w).toList

/-- Whether an F3 word merges into its destination (R136). -/
def f3Merges (op : F3Op) (f : F3) : Bool := partialDst op f && !f.nwb

/-- The latch entry that a numbered field reads. -/
def fieldDepth (k : Nat) (x : Option FieldRead) : List (Nat × Nat) :=
  (x.bind FieldRead.depth).toList.map (fun d => (k, d))

/-- What an F3 word needs: its sources, its destination, and its destination's old value where it keeps part of it. -/
def f3Needs (op : F3Op) (f : F3) (fx : Option FX) (w : Weft) : Needs :=
  let dregs := dstRegs (f.dstKind op) f.dst.val f.nwb
  {
    regs := (f3Fields op f fx w).flatMap FieldRead.regs ++ dregs
    half2 := []
    latch := fieldDepth 1 (f3A op f fx w) ++ fieldDepth 2 (f3B op f fx w) ++ fieldDepth 3 (f3C op f fx w)
    routes := routesOf f fx
    keys := (f3Fields op f fx w).flatMap FieldRead.keys
      ++ (if f3Merges op f || w.act f.guard != w.bundle then dregs else []) }

/-- What an F3 word's operation sees. -/
def f3In (op : F3Op) (f : F3) (fx : Option FX) (w : Weft) : WordIn :=
  ⟨f, w, fieldValue w (f3A op f fx w), fieldValue w (f3B op f fx w), fieldValue w (f3C op f fx w),
    w.nonHelpers (w.act f.guard)⟩

/-- The operation of an F3 word. -/
def f3Part (op : F3Op) (f : F3) (fx : Option FX) (sem : Sem) (w : Weft) : Part :=
  let own : List FieldRead := if f3Merges op f then [⟨.v f.dst, false, .s32, fun l => some l, none⟩] else []
  {
    opc := op.info.opc, half := false, act := w.act f.guard, dst := f.dst.val, nwb := f.nwb, dk := f.dstKind op
    carry := if op.info.ext == .carry then some (f.ext.val % 8) else none
    anyLane := op == .ballot, uniform := op != .lanemask
    fields := f3Fields op f fx w ++ own, uses := sem.uses (f3In op f fx w), out := sem.out (f3In op f fx w) }

/-- Run an F3 word with the routes of an optional ROUTEX word (R17, R28, R102, R126). -/
def runF3With (op : F3Op) (f : F3) (fx : Option FX) (sem : Sem) (s : State) : Out :=
  s.runPrep (fun w => ⟨f3Needs op f fx w, { (f3Part op f fx sem w).eff w with words := if fx.isSome then 2 else 1 }⟩)

/-- An FI word as the F3 word it acts as, without its B. -/
def fiF3 (f : FI) : F3 := ⟨f.dst, f.nwb, .op f.a, .none, .none, 0, false, 0, f.guard, .none, .identity⟩

/-- An FI word's source A as a field. -/
def fiA (k : SrcKind) (f : FI) (w : Weft) : Option FieldRead := fieldRead w (fiF3 f) [] .a k (fiF3 f).a

/-- What an FI word needs. -/
def fiNeeds (k : SrcKind) (f : FI) (w : Weft) : Needs :=
  let dregs := dstRegs .v f.dst.val f.nwb
  {
    regs := (fiA k f w).toList.flatMap FieldRead.regs ++ dregs
    half2 := []
    latch := fieldDepth 1 (fiA k f w)
    routes := []
    keys := (fiA k f w).toList.flatMap FieldRead.keys ++ (if w.act f.guard != w.bundle then dregs else []) }

/-- What an FI word's operation sees: B is the immediate (R113, R127). -/
def fiIn (k : SrcKind) (f : FI) (w : Weft) : WordIn :=
  ⟨(fiF3 f), w, fieldValue w (fiA k f w), fun _ => f.imm.setWidth 64, fun _ => 0, w.nonHelpers (w.act f.guard)⟩

/-- The operation of an FI word. -/
def fiPart (opc : Nat) (k : SrcKind) (f : FI) (sem : Sem) (w : Weft) : Part where
  opc := opc
  half := false
  act := w.act f.guard
  dst := f.dst.val
  nwb := f.nwb
  dk := .v
  carry := none
  anyLane := false
  uniform := true
  fields := (fiA k f w).toList
  uses := sem.uses (fiIn k f w)
  out := sem.out (fiIn k f w)

/-- Run an FI word (R113, R127): the F3 operation of a given meaning with B replaced by the immediate. -/
def runFI (opc : Nat) (k : SrcKind) (f : FI) (sem : Sem) (s : State) : Out :=
  s.runPrep (fun w => ⟨fiNeeds k f w, (fiPart opc k f sem w).eff w⟩)

end Sys2Proof.Machine
end

