-- ==== Sys2Proof/Machine/Order.lean ====
section
/-! DEFINITION. PHASE and FENCE.X (R194 to R204) and the barrier instructions (R207, R208). -/
namespace Sys2Proof.Machine

/-- A word that reads nothing and has no route. -/
def Needs.none : Needs := ⟨[], [], [], [], []⟩

/-- Far stores and non-returning atomics without a counter that a weft still has outstanding (R217). -/
def State.bareStores (s : State) (b i : Nat) : Bool :=
  s.reqs.any (fun e =>
    let mine := match e.2.who with
      | .lane x y _ => x == b && y == i
      | _ => false
    let bare := match e.2.op with
      | .store => true
      | .atom _ _ nr => nr
      | _ => false
    mine && bare && e.2.ctr.isNone)

/-- A word that raises the error a weft holds (R217), in every lane of the bundle that is not a helper; `more` gives another cause
that the word has in a lane, and the lower group wins (R258). -/
def State.raiseHeld (s : State) (b i : Nat) (bd : Band) (w : Weft) (latch : List (Nat × Nat)) (more : Nat → Option Cause)
    (go : Out) : Out :=
  match w.held with
  | some c =>
    let lanes := (w.nonHelpers w.bundle).map (fun l => ({ lane := l, cause := pickCause (some c) (more l) } : LaneEff))
    let s := s.finish b i bd w latch { lanes := lanes }
    .next (if lanes.any (fun e => e.cause == some c) then s.modWeft b i (fun w => { w with held := none }) else s)
  | none => go

/-- A word that raises the held error after the stores whose error it must report have ended (R387, DEDUCED, log 19): it begins, and
waits in place for them. -/
def State.raising (s : State) (b i : Nat) (bd : Band) (w : Weft) (go : State → Out) : Out :=
  if s.bareStores b i then .next (if w.begun then s.hold else s.modWeft b i (fun v => { v with begun := true }))
  else
    let s := s.modWeft b i (fun v => { v with begun := false })
    s.raiseHeld b i bd w [] (fun _ => none) (go s)

/-- PHASE (R199): the publish and the refresh are made when it completes. -/
def execPhase (sc : Scope) (s : State) : Out :=
  s.issue Needs.none (fun b i bd w =>
    if w.phase.isSome then .next s.hold else
    s.raising b i bd w (fun s =>
       let s' := s.finish b i bd w [] {}
       let ends := bd.wroteFar && (sc == .dev || sc == .pod || sc == .sys)
       .next (s'.modWeft b i (fun w => { w with phase := some ⟨sc, s.stamp, true, ends, none⟩ }))))

/-- FENCE.X (R204). -/
def execFenceX (p q : Path) (s : State) : Out :=
  s.issue Needs.none (fun b i bd w =>
    let go := fun (s : State) =>
      let s' := s.finish b i bd w [] {}
      let s' := if p == .lane || q == .lane then s'.publish b i .die else s'
      let id := s'.stamp
      Host.Outcome.next (s'.nextStamp.modWeft b i (fun w => { w with
        fences := w.fences ++ [⟨id, p, q, id⟩]
        fenced := joinFenced w.fenced [⟨b, i, p, q, 0, some id, id⟩, ⟨b, i, q, p, 0, some id, id⟩] }))
    if p == .copy || q == .copy then s.raising b i bd w go else go s)

/-- BAR and GBAR (R208): the acting lanes arrive and park; the others go on. An arrival waits for a pending PHASE, so that a
barrier carries its completion (R385, DEDUCED, log 19). -/
def runBar (gang : Bool) (n : Nat) (ph : Bool) (g : Guard) (s : State) : Out :=
  s.issue Needs.none (fun b i bd w =>
    let act := w.act g
    if act = 0 then .next (s.finish b i bd w [] {}) else
    if w.phase.isSome then .next s.hold else
    let s := s.finish b i bd w [] {}
    let s := if ph then s.publish b i .gang else s
    let s := s.modWeft b i (fun v => v.parkLanes act (.barrier gang n (s.barrier b gang n).gen ph) (w.pc + 8))
    .next (s.arrive b i gang n (laneList w.width act)))

/-- BAR (R208). -/
def execBar (n : Fin 16) (ph : Bool) (g : Guard) (s : State) : Out := runBar false n.val ph g s
/-- GBAR (R208). -/
def execGbar (n : Fin 4) (ph : Bool) (g : Guard) (s : State) : Out := runBar true n.val ph g s

/-- What BARA needs. -/
def baraNeeds (dst : Fin 256) (g : Guard) (w : Weft) : Needs :=
  { Needs.none with regs := [dst.val], keys := if w.act g != w.bundle then [dst.val] else [] }

/-- BARA (R208): the token is the generation that the arrival joined, also where the arrival completes it. -/
def execBara (dst : Fin 256) (n : Fin 16) (ph gang : Bool) (g : Guard) (s : State) : Out :=
  match s.current with
  | none => .refused .noBundle
  | some (_, _, _, w0) =>
    let act := w0.act g
    let needs := baraNeeds dst g w0
    s.issue needs (fun b i bd w =>
      let lanes := laneList w.width act
      if !lanes.isEmpty && w.phase.isSome then .next s.hold else
      let s := if ph && !lanes.isEmpty then s.publish b i .gang else s
      let tok := (s.barrier b gang n.val).gen.toNat
      let s := if lanes.isEmpty then s else s.arrive b i gang n.val lanes
      let eff : Eff := {
        lanes := lanes.map (fun l => { lane := l, v := [(dst.val, BitVec.ofNat 32 tok)] })
        pushes := [⟨dst.val, false, false, lanes.map (fun l => (l, BitVec.ofNat 64 tok))⟩] }
      .next (s.finish b i bd w [] eff))

/-- BARW's token as a field. -/
def tokenField (tok : Operand) : FieldRead := ⟨tok, false, .s32, fun l => some l, none⟩

/-- What BARW needs. -/
def barwNeeds (tok : Operand) : Needs :=
  ⟨(tokenField tok).regs, [], (tokenField tok).depth.toList.map (fun d => (1, d)), [], (tokenField tok).keys⟩

/-- BARW (R208): lanes whose generation is not complete park and go on at the word after it; a complete one is a signal to the weft
(R203). -/
def execBarw (tok : Operand) (n : Fin 16) (ph gang : Bool) (g : Guard) (s : State) : Out :=
  let fd := tokenField tok
  let needs := barwNeeds tok
  s.issue needs (fun b i bd w =>
    let act := w.act g
    let lanes := laneList w.width act
    let bad := lanes.filterMap (fun l => match fd.marks w l with
      | [] => none
      | c :: cs => some ({ lane := l, cause := cs.foldl (fun a x => pickCause a (some x)) (some c) } : LaneEff))
    if !bad.isEmpty && (w.chainFor (needs.latch.map (fun r => r.2))).isSome then
      .next (s.finish b i bd w needs.latch { lanes := bad })
    else
    let gen := (s.barrier b gang n.val).gen
    let t := fun l => (fd.value w l).setWidth 16
    let ok := lanes.filter (fun l => bad.all (fun e => e.lane != l))
    let wait := ok.filter (fun l => !genComplete gen (t l))
    let s := s.finish b i bd w needs.latch { lanes := bad }
    let s := if ph && wait.length < ok.length then s.refresh b i else s
    let got := (ok.filter (fun l => genComplete gen (t l))).foldl (fun a l => joinFenced a ((s.barrier b gang n.val).signals (t l))) []
    let s := s.modWeft b i (fun v => { v with fenced := joinFenced v.fenced (heardAt s.stamp got) })
    .next (wait.foldl (fun s l =>
      s.modWeft b i (fun v => v.parkLanes (1#64 <<< l) (.barrier gang n.val (t l) ph) (w.pc + 8))) s))

end Sys2Proof.Machine
end

