-- ==== Sys2Proof/Machine/Once.lean ====
section
/-! DEFINITION. Words that act once per issue, for the weft or the band (R191, R213, R215): their operands are read from the
lowest acting lane that is not a helper. -/
namespace Sys2Proof.Machine

/-- An operand of an FE or FS word, read as 64 or as 32 bits. -/
def feField (wide : Bool) (o : Operand) : FieldRead := ⟨o, wide, .s32, fun l => some l, none⟩

/-- What a word needs that reads operands in numbered fields and s registers. -/
def feNeeds (fields : List (Nat × FieldRead)) (sregs : List Nat) : Needs where
  regs := fields.flatMap (fun f => f.2.regs)
  half2 := []
  latch := fields.filterMap (fun f => f.2.depth.map (fun d => (f.1, d)))
  routes := []
  keys := fields.flatMap (fun f => f.2.keys) ++ sregs.map (fun r => 256 + r)

/-- The word traps in every lane of a list (R260). -/
def sameCause (lanes : List Nat) (c : Cause) : List LaneEff := lanes.map (fun l => { lane := l, cause := some c })

/-- How a word that acts once goes on after its own check, if nothing traps; with a trap in every acting lane where the check or a failed
register that the word uses gives a cause (R217), of which the lowest group wins (R258). -/
abbrev OnceCheck := Option Cause → (Unit → Out) → Out

/-- The band's restartable bit clears, never to be set again (R306). -/
def State.endRestart (s : State) (b : Nat) (ends : Bool) : State :=
  if ends then s.modBand b (fun x => { x with restartable := false }) else s

/-- Run a word of one or more words that acts once: `go` gets the acting lanes that are not helpers; with none the word has no
effect. `ends`: its issue clears the restartable bit, whether or not a lane acts or the word traps (R306). -/
def runOnceWords (words : Nat) (ends : Bool) (g : Guard) (needs : Needs) (fields : List FieldRead)
    (go : State → Nat → Nat → Band → Weft → List Nat → OnceCheck → Out) (s : State) : Out :=
  s.issue needs (fun b i bd w =>
    match w.nonHelpers (w.act g) with
    | [] => .next ((s.finish b i bd w needs.latch { words := words }).endRestart b ends)
    | l :: ls =>
      let marks := fields.flatMap (fun f => f.marks w l) ++ (needs.keys.filter (fun k => decide (256 ≤ k))).filterMap (fun k => w.mark k 0)
      go s b i bd w (l :: ls) (fun own k =>
        match pickCause (marks.foldl (fun a c => pickCause a (some c)) none) own with
        | some c => .next ((s.finish b i bd w needs.latch { lanes := sameCause (l :: ls) c, words := words }).endRestart b ends)
        | none => k ()))

/-- Run a word that acts once. -/
def runOnce (g : Guard) (needs : Needs) (fields : List FieldRead)
    (go : State → Nat → Nat → Band → Weft → List Nat → OnceCheck → Out) (s : State) : Out :=
  runOnceWords 1 false g needs fields go s

/-- Run a word that acts once and whose issue clears the restartable bit. -/
def runOnceEnding (g : Guard) (needs : Needs) (fields : List FieldRead)
    (go : State → Nat → Nat → Band → Weft → List Nat → OnceCheck → Out) (s : State) : Out :=
  runOnceWords 1 true g needs fields go s

end Sys2Proof.Machine
end

