-- ==== Sys2Proof/Machine/Hard.lean ====
section
/-! DEFINITION. Errors that become event records (R362 to R364, R379, R383): counters, refused activations and group 19. -/
namespace Sys2Proof.Machine

/-- Add to a field of an error counter, saturating (R364): 0 corr, 1 uncorr, 2 refused. -/
def State.countErr (s : State) (unit inst which : Nat) : State :=
  let r := KReg.errcnt unit inst
  let v := s.kget r
  let (hi, lo) := match which with
    | 0 => (63, 32)
    | 1 => (31, 16)
    | _ => (15, 0)
  s.kset r (setFld v hi lo (min (fld v hi lo + 1) (2 ^ (hi - lo + 1) - 1)))

/-- The die that an instance of a unit lies on (R2, R383): of a core, a die's scratchpad, a stack, a port, or a
lantern. -/
def unitDie (unit inst : Nat) : Nat :=
  match unit with
  | 3 | 0x0F | 0x11 => inst
  | 9 | 0x0A => inst / 3
  | 0x0B | 0x0D => inst / 4
  | 0x0C | 0x0E | 0x10 => 0
  | _ => dieOf inst

/-- The cause of group 19 that names the event record about to be written (R259). -/
def State.hardCause (s : State) (unit : Nat) : Cause := ⟨19, 0, BitVec.ofNat 96 (unit * 2 ^ 32 + s.eventSeq), false⟩

/-- A base die refuses an activation (R379), or the access meets poison (R362): the cause for the requester, and the state with
the count and the event record. -/
def State.refusedRow (s : State) (part ctx phys : Nat) (a : W64) : Cause × State :=
  let stack := phys / 2 ^ 36
  let c := s.hardCause 9
  let no := s.refuses part phys
  let s := s.countErr 9 stack (if no then 2 else 1)
  (c, s.logEvent {
    kind := if no then 6 else 2, unit := 9, sev := 2, part := part, die := stack / 3, inst := stack
    chan := phys / 2 ^ 31 % 32, bank := phys / 2 ^ 25 % 64, row := phys / 2 ^ 13 % 4096, addr := a, ctx := ctx })

/-- An uncorrected error (R362, R382): counted, with an event record. -/
def State.uncorrected (s : State) (unit inst part ctx : Nat) (sev : Nat) (a : W64) : Cause × State :=
  let c := s.hardCause unit
  let s := s.countErr unit inst 1
  (c, s.logEvent { kind := 2, unit := unit, sev := sev, part := part, die := unitDie unit inst, inst := inst, addr := a, ctx := ctx })

/-- The corrected events that a unit instance has counted (R364). -/
def State.corrCount (s : State) (unit inst : Nat) : Nat := fld (s.kget (.errcnt unit inst)) 63 32

/-- A corrected error (R362, R364): counted, with an event record for the first of a unit and every 2^16th after (R383). -/
def State.corrected (s : State) (unit inst : Nat) (a : W64) : State :=
  let s := s.countErr unit inst 0
  let n := s.corrCount unit inst
  if n % 2 ^ 16 = 1 then s.logEvent { kind := 1, unit := unit, sev := 0, die := unitDie unit inst, inst := inst, addr := a, count := n } else s

/-- Whether boot is complete and the rails have power (R388, R395): before that no core, lantern or port carries traffic. -/
def State.up (s : State) : Bool := fld (s.kget .bootst) 63 63 == 1 && !s.powerOff

end Sys2Proof.Machine
end

