-- ==== Sys2Proof/Machine/Fetch.lean ====
section
/-! DEFINITION. Fetching a word (R45, R117, R263), the latch entries a word reads, and forming a bundle (R59 to R61, R75,
R261). -/
namespace Sys2Proof.Machine

/-- The latch entry an operand reads. -/
def latchOf : Operand → List Nat
  | .x d => [d.val]
  | _ => []

/-- The latch entry a source field reads. -/
def latchSrc : Src → List Nat
  | .op o => latchOf o
  | _ => []

/-- The latch entries of an F3 word. -/
def latchF3 (f : F3) : List Nat := latchSrc f.a ++ latchSrc f.b ++ latchSrc f.c

/-- The latch entries an instruction reads (R24). -/
def latchReads : Instr → List Nat
  | .iadd f => latchF3 f
  | .iaddc f => latchF3 f
  | .isub f => latchF3 f
  | .isubb f => latchF3 f
  | .imul f => latchF3 f
  | .imulh f => latchF3 f
  | .imulhu f => latchF3 f
  | .imad f => latchF3 f
  | .imadw f => latchF3 f
  | .iadd64 f => latchF3 f
  | .ineg f => latchF3 f
  | .iabs f => latchF3 f
  | .imin f => latchF3 f
  | .imax f => latchF3 f
  | .iminu f => latchF3 f
  | .imaxu f => latchF3 f
  | .and f => latchF3 f
  | .or f => latchF3 f
  | .xor f => latchF3 f
  | .andn f => latchF3 f
  | .not f => latchF3 f
  | .shl f => latchF3 f
  | .shr f => latchF3 f
  | .sar f => latchF3 f
  | .rotl f => latchF3 f
  | .funnel f => latchF3 f
  | .bfx f => latchF3 f
  | .bfxu f => latchF3 f
  | .bfi f => latchF3 f
  | .popc f => latchF3 f
  | .clz f => latchF3 f
  | .brev f => latchF3 f
  | .icmp f => latchF3 f
  | .sel f => latchF3 f
  | .mov f => latchF3 f
  | .movi _ => []
  | .lea f => latchF3 f
  | .lstk f => latchF3 f
  | .dot4i8 f => latchF3 f
  | .dot4i8Sat f => latchF3 f
  | .dot8i4 f => latchF3 f
  | .dot8i4Sat f => latchF3 f
  | .pand f => latchF3 f
  | .por f => latchF3 f
  | .pxor f => latchF3 f
  | .pnot f => latchF3 f
  | .pmov f => latchF3 f
  | .iaddImm f => latchOf f.a
  | .imulImm f => latchOf f.a
  | .andImm f => latchOf f.a
  | .orImm f => latchOf f.a
  | .xorImm f => latchOf f.a
  | .shlImm f => latchOf f.a
  | .shrImm f => latchOf f.a
  | .sarImm f => latchOf f.a
  | .fadd f => latchF3 f
  | .fsub f => latchF3 f
  | .fmul f => latchF3 f
  | .fmin f => latchF3 f
  | .fmax f => latchF3 f
  | .fabs f => latchF3 f
  | .fneg f => latchF3 f
  | .fcmp f => latchF3 f
  | .fclass f => latchF3 f
  | .frnd f => latchF3 f
  | .fscale f => latchF3 f
  | .fexpn f => latchF3 f
  | .hadd2 f => latchF3 f
  | .hmul2 f => latchF3 f
  | .fcvt f => latchF3 f
  | .qcvt f => latchF3 f
  | .scalex f => latchF3 f
  | .i2f f => latchF3 f
  | .f2i f => latchF3 f
  | .ffmaRne f => latchF3 f
  | .ffmaRz f => latchF3 f
  | .ffmaRd f => latchF3 f
  | .ffmaRu f => latchF3 f
  | .hfma2F16Rne f => latchF3 f
  | .hfma2F16Rz f => latchF3 f
  | .hfma2F16Rd f => latchF3 f
  | .hfma2F16Ru f => latchF3 f
  | .hfma2Bf16Rne f => latchF3 f
  | .hfma2Bf16Rz f => latchF3 f
  | .hfma2Bf16Rd f => latchF3 f
  | .hfma2Bf16Ru f => latchF3 f
  | .fdot2F16Rne f => latchF3 f
  | .fdot2F16Rz f => latchF3 f
  | .fdot2F16Rd f => latchF3 f
  | .fdot2F16Ru f => latchF3 f
  | .fdot2Bf16Rne f => latchF3 f
  | .fdot2Bf16Rz f => latchF3 f
  | .fdot2Bf16Rd f => latchF3 f
  | .fdot2Bf16Ru f => latchF3 f
  | .faddImm f => latchOf f.a
  | .fmulImm f => latchOf f.a
  | .rcp f => latchF3 f
  | .rsq f => latchF3 f
  | .sqrt f => latchF3 f
  | .exp2 f => latchF3 f
  | .log2 f => latchF3 f
  | .sin f => latchF3 f
  | .cos f => latchF3 f
  | .tanh f => latchF3 f
  | .sigm f => latchF3 f
  | .erf f => latchF3 f
  | .qswap f => latchF3 f
  | .qbcst f => latchF3 f
  | .vote f => latchF3 f
  | .ballot f => latchF3 f
  | .lanemask f => latchF3 f
  | .bra _ => []
  | .brx _ => []
  | .call _ => []
  | .callx _ => []
  | .ret _ => []
  | .rbset _ => []
  | .rbwait _ => []
  | .loop _ => []
  | .exit _ => []
  | .yield _ => []
  | .nop _ => []
  | .ld f => latchOf f.base
  | .st f => latchOf f.base
  | .ldu f => latchOf f.base
  | .stu f => latchOf f.base
  | .aadd f => latchOf f.base
  | .afadd f => latchOf f.base
  | .amin f => latchOf f.base
  | .amax f => latchOf f.base
  | .aand f => latchOf f.base
  | .aor f => latchOf f.base
  | .axor f => latchOf f.base
  | .axchg f => latchOf f.base
  | .acas f => latchOf f.base
  | .ainc f => latchOf f.base
  | .racq => []
  | .rrel => []
  | .phase _ => []
  | .fenceX _ _ => []
  | .bar _ _ _ => []
  | .gbar _ _ _ => []
  | .bara _ _ _ _ _ => []
  | .barw tok _ _ _ _ => latchOf tok
  | .itset _ _ a b _ => latchOf a ++ latchOf b
  | .itld _ a _ _ => latchOf a
  | .tcopy _ _ _ _ _ => []
  | .fload f => latchOf f.a ++ latchOf f.b
  | .fstore f => latchOf f.a ++ latchOf f.b
  | .fatom f => latchOf f.a ++ latchOf f.b
  | .cwait _ a _ _ => latchOf a
  | .cadd _ a _ => latchOf a
  | .cset _ a _ => latchOf a
  | .chain _ => []
  | .fill _ _ pat _ _ => latchOf pat
  | .mldw a _ _ _ _ => latchOf a
  | .mloop _ _ _ _ _ _ _ => []
  | .mwait _ _ => []
  | .mepi _ => []
  | .mzero _ _ _ => []
  | .mrd f => latchOf f.a ++ latchOf f.b
  | .wred _ => []
  | .adjb _ => []
  | .rcopy _ ch _ _ _ _ => latchOf ch
  | .tcopyc _ => []
  | .coll _ _ _ => []
  | .collw _ _ _ => []
  | .collc _ _ _ => []
  | .mfsr _ _ _ => []
  | .mtsr _ a _ _ => latchOf a
  | .eret => []
  | .trapi _ _ => []
  | .bkpt _ _ => []
  | .ppoint _ => []
  | .launch _ a _ _ => latchOf a
  | .probe _ a _ _ => latchOf a
  | .routex _ _ f => latchF3 f
  | .pairIadd h _ k => latchOf h.src ++ latchOf k.src
  | .pairIsub h _ k => latchOf h.src ++ latchOf k.src
  | .pairImul h _ k => latchOf h.src ++ latchOf k.src
  | .pairImin h _ k => latchOf h.src ++ latchOf k.src
  | .pairImax h _ k => latchOf h.src ++ latchOf k.src
  | .pairIminu h _ k => latchOf h.src ++ latchOf k.src
  | .pairImaxu h _ k => latchOf h.src ++ latchOf k.src
  | .pairAnd h _ k => latchOf h.src ++ latchOf k.src
  | .pairOr h _ k => latchOf h.src ++ latchOf k.src
  | .pairXor h _ k => latchOf h.src ++ latchOf k.src
  | .pairAndn h _ k => latchOf h.src ++ latchOf k.src
  | .pairShl h _ k => latchOf h.src ++ latchOf k.src
  | .pairShr h _ k => latchOf h.src ++ latchOf k.src
  | .pairSar h _ k => latchOf h.src ++ latchOf k.src
  | .pairMov h _ k => latchOf h.src ++ latchOf k.src
  | .pairFadd h _ k => latchOf h.src ++ latchOf k.src
  | .pairFsub h _ k => latchOf h.src ++ latchOf k.src
  | .pairFmul h _ k => latchOf h.src ++ latchOf k.src
  | .pairFmin h _ k => latchOf h.src ++ latchOf k.src
  | .pairFmax h _ k => latchOf h.src ++ latchOf k.src
  | .pairHadd2F16 h _ k => latchOf h.src ++ latchOf k.src
  | .pairHmul2F16 h _ k => latchOf h.src ++ latchOf k.src
  | .pairHadd2Bf16 h _ k => latchOf h.src ++ latchOf k.src
  | .pairHmul2Bf16 h _ k => latchOf h.src ++ latchOf k.src
  | .pairFabs h _ k => latchOf h.src ++ latchOf k.src
  | .pairFneg h _ k => latchOf h.src ++ latchOf k.src
  | .pairSIadd h _ k => latchOf h.src ++ latchOf k.src
  | .pairSIsub h _ k => latchOf h.src ++ latchOf k.src
  | .pairSAnd h _ k => latchOf h.src ++ latchOf k.src
  | .pairSOr h _ k => latchOf h.src ++ latchOf k.src
  | .pairSXor h _ k => latchOf h.src ++ latchOf k.src
  | .pairSShl h _ k => latchOf h.src ++ latchOf k.src
  | .pairSShr h _ k => latchOf h.src ++ latchOf k.src
  | .pairSMov h _ k => latchOf h.src ++ latchOf k.src
  | .intervalPoint => []
  | .weftTimesliceSwitch _ => []
  | .bandResume _ => []
  | .rsseedWrite _ => []
  | .registerBlockGrant _ => []
  | .presenceBitSet _ _ _ => []
  | .farReplyLand _ _ => []
  | .fatomReply _ _ => []
  | .fstoreComplete _ _ => []
  | .engineCommandStart _ => []
  | .engineBytesLand _ _ => []
  | .engineCommandComplete _ => []
  | .engineCommandError _ _ => []
  | .pageInResume _ _ => []
  | .phaseComplete _ _ => []
  | .fenceComplete _ _ => []
  | .matrixCommandStart _ => []
  | .matrixCommandComplete _ => []
  | .matrixExecutionError _ => []
  | .accumulatorClaim _ _ => []
  | .matrixResumeClaim _ _ => []
  | .weftRetire _ _ => []
  | .bandRetire _ => []
  | .launchPortFirstHalf _ _ _ _ => []
  | .launchPortSecondHalf _ _ _ _ => []
  | .launchCounterWrite _ _ => []
  | .schedulerSelection _ => []
  | .gangBypassTimeout _ => []
  | .placementWaitExpiry _ _ => []
  | .commRaiseStart _ => []
  | .commRaiseEnd _ => []
  | .launchAbort _ => []
  | .saveRequest _ _ _ => []
  | .saveDeadlineExpiry _ => []
  | .saveStart _ => []
  | .saveComplete _ => []
  | .flushRequest _ _ => []
  | .contextCreate _ => []
  | .contextDestroy _ => []
  | .farRequestSegmentStage _ => []
  | .ualinkInboundRequest _ => []
  | .regionStageLookup _ => []
  | .blockStageAccess _ => []
  | .atsTranslationResponse _ _ => []
  | .priResponse _ _ => []
  | .atsInvalidateRequest _ _ _ => []
  | .holdQueueRetry _ => []
  | .xlcmdSet _ _ _ => []
  | .xlcmdMove _ _ _ => []
  | .xlcmdRevoke _ _ _ => []
  | .xlcmdClear _ _ _ => []
  | .xlcmdRetire _ _ _ => []
  | .buoyReturn _ => []
  | .moveCopyDone _ => []
  | .moveCopyError _ _ => []
  | .peerTimeout _ => []
  | .creditReapportion _ _ => []
  | .tokenBucketTick _ => []
  | .requestEgress _ _ => []
  | .channelPageWrite _ _ => []
  | .channelItemStart _ => []
  | .channelItemComplete _ => []
  | .channelItemError _ _ => []
  | .communicatorRegister _ _ _ => []
  | .beaconKeyRequest _ _ _ _ => []
  | .collTicketLand _ _ _ => []
  | .collectiveRankStart _ _ _ => []
  | .bankAdderCombine _ _ _ _ _ => []
  | .rankStateReport _ _ _ => []
  | .beaconCancel _ _ _ => []
  | .collectiveTimeout _ => []
  | .memberLossAbort _ => []
  | .transferErrorAbort _ _ => []
  | .collectiveAbortReceived _ _ _ => []
  | .beaconHeartbeat => []
  | .standbyTakeover => []
  | .beaconPromoteCommand => []
  | .lanternRequestRetry _ _ => []
  | .beaconLoss => []
  | .patrolScrub _ _ _ _ => []
  | .berWindowEnd _ _ => []
  | .linkWidthSwitch _ => []
  | .partnerWidthRequest _ _ => []
  | .partnerWidthRefusal _ => []
  | .laneRetrainDone _ _ => []
  | .laneRetrainFail _ _ => []
  | .hbmScheduleDecision _ _ => []
  | .pallocAllocate _ _ _ _ _ _ => []
  | .pallocGuard _ _ _ _ _ => []
  | .pallocFree _ _ _ _ _ => []
  | .pallocQuery _ _ _ _ => []
  | .hbmCrcWindow _ _ => []
  | .hbmRetrainRequest _ => []
  | .hbmRetrainDeadline _ => []
  | .hbmRetrainDone _ _ => []
  | .packageReset => []
  | .firmwareImageLoad _ _ _ => []
  | .svnRaise _ _ => []
  | .attestationRequest _ => []
  | .partitionReset _ => []
  | .powerControlTick _ _ _ => []
  | .currentStep _ => []
  | .thermalWarn _ _ => []
  | .thermalThrottle _ _ => []
  | .thermalShutdown _ _ => []
  | .keeperRegisterWrite _ _ => []
  | .nearFarSideReplyLand _ _ _ => []
  | .linkLayerReplay _ => []
  | .creditReturn _ _ _ => []
  | .communicatorRemove _ => []
  | .partitionForm _ => []
  | .cxlHostWrite _ _ => []

/-- What fetching code at an address gives: words; a wait; a trap; a refused row; a page-in by a stage; or host memory that
must be asked for. -/
inductive Fetch where
  | words (ws : List Nat)
  | wait
  | trap (c : Cause)
  | refused (phys : Nat)
  | pageIn (stage : Nat)
  | host (addr : Nat)
deriving DecidableEq, Repr

/-- Whether a core waits for code that its cache lacks (R371). -/
def State.codeMissing (s : State) (core : Nat) (a : W64) : Bool :=
  s.reqs.any (fun e => (match e.2.who with
    | .fetch _ _ => true
    | _ => false) && e.2.core == core && e.2.addr == a)

/-- Fetch one word (R117): from HBM through the core's code cache (log 6), where it lacks the word, once the word has come. A word of a host segment is there once its request has returned. -/
def State.fetchWord (s : State) (b : Band) (w : Weft) (pc : W64) : Except Fetch Nat :=
  let a := s.codeAddr b.ctx pc
  match s.walk b.part .fetch a with
  | .hbm phys _ _ => if s.codeMissing b.core a then .error .wait else .ok (leNat (Mem.read s.hbm phys 8))
  | .host _ =>
    match SMap.find? w.fetched a.toNat with
    | some x => .ok x.toNat
    | none => .error (.host a.toNat)
  | .hold _ _ => .error .wait
  | .fail c => .error (.trap c)
  | .refused phys => .error (.refused phys)
  | .pageIn st => .error (.pageIn st)
  | .peer _ => .error .wait

/-- The bytes of a context's code section (R159). -/
def State.textLen (s : State) (ctx : Nat) : Nat := ((s.ctx? ctx).map (fun c => c.textLen)).getD 0

/-- Fetch the further words of an instruction that lie in the code section (R45). Where the first word itself lies at or beyond
its end, no end is applied (DESIGN CHOICE; log 65). -/
def State.fetchRest (s : State) (b : Band) (w : Weft) (pc : W64) : Nat → Nat → Except Fetch (List Nat)
  | 0, _ => .ok []
  | n + 1, k =>
    let a := pc + BitVec.ofNat 64 (8 * k)
    if pc.toNat < s.textLen b.ctx ∧ s.textLen b.ctx < a.toNat + 8 then .ok [] else
    match s.fetchWord b w a with
    | .error e => .error e
    | .ok x =>
      match s.fetchRest b w pc n (k + 1) with
      | .error e => .error e
      | .ok xs => .ok (x :: xs)

/-- Fetch the words of the instruction at an address. A further word that cannot be fetched traps before the first word is
found illegal (DESIGN CHOICE; log 65). -/
def State.fetch (s : State) (b : Band) (w : Weft) (pc : W64) : Fetch :=
  match s.fetchWord b w pc with
  | .error e => e
  | .ok x =>
    match s.fetchRest b w pc (wordsOf x - 1) 1 with
    | .error e => e
    | .ok xs => .words (x :: xs)

/-- What the decoder reads from fetched words. -/
def decodeWords : List Nat → Dec
  | [] => .bad 1 0
  | x :: xs => decode x xs

/-- The instruction at an address, if it can be fetched and is legal. -/
def State.instrAt (s : State) (b : Band) (w : Weft) (pc : W64) : Option Instr :=
  match s.fetch b w pc with
  | .words ws => match decodeWords ws with
    | .ok i _ => some i
    | .bad _ _ => none
  | _ => none

/-- Whether R61 defers a point before a word: it reads a valid latch entry, and the chain under way is shorter than 8.
Where the word reads a producer before the head, the test takes the old head, and the count goes on from the new one (DESIGN
CHOICE; log 60). -/
def Weft.defers (w : Weft) (i : Instr) : Bool :=
  (latchReads i).any (fun d => decide (d < w.latches.length))
    && decide ((w.chain.map (fun c => w.seq - c.seq)).getD 0 < 8)

/-- Whether a deferral is in force for the weft's next word (R61, R64). -/
def State.deferring (s : State) (b : Band) (w : Weft) : Bool :=
  w.bundle != 0 && ((s.instrAt b w w.pc).map w.defers).getD false

/-- The eligible lanes of a run (R59, R261). -/
def Weft.eligible (w : Weft) (run : Nat) : List Nat :=
  (List.range w.width).filter (fun l =>
    (w.lane l).run == run && ((w.lane l).state == .live || (w.lane l).state == .trapped))

/-- The sub-wefts with an eligible lane, oldest first. -/
def Weft.subRuns (w : Weft) : List Nat := (List.range (w.subs + 1)).filter (fun r => r != 0 && !(w.eligible r).isEmpty)

/-- The run that the next bundle comes from (R261). -/
def Weft.nextRun (w : Weft) : Option Nat :=
  let main := if (w.eligible 0).isEmpty then [] else [0]
  ((if w.run = 0 then w.subRuns ++ main else main ++ w.subRuns)).head?

/-- The lowest program counter of some lanes. -/
def Weft.lowPc (w : Weft) : List Nat → W64
  | [] => 0
  | l :: ls => ls.foldl (fun a x => if (w.lane x).pc < a then (w.lane x).pc else a) (w.lane l).pc

/-- The threshold of the hang detector (R75); none when it is off. -/
def hangLimit (hangk : W64) : Option Nat :=
  let k := hangk.toNat % 64
  if k = 0 then none else some (2 ^ (min (max k 8) 40))

/-- Form a bundle (R59). The second part is the cause of group 15 when a lane has starved (R75). -/
def Weft.form (w : Weft) : Weft × Option Cause :=
  let cleared := { w with latches := [], issued := 0, seq := 0, chain := none, reform := false }
  match w.nextRun with
  | none => ({ cleared with bundle := 0 }, none)
  | some r =>
    let elig := w.eligible r
    let fresh := elig.filter (fun l => !(w.lane l).yield)
    let cand := if fresh.isEmpty then elig else fresh
    let h := w.lowPc cand
    let bundle := cand.filter (fun l => (w.lane l).pc == h)
    let m := laneMask bundle
    let lanes := w.lanes.mapIdx (fun i l =>
      let l := { l with yield := false }
      if elig.contains i then { l with starve := if m.getLsbD i then 0 else l.starve + 1 } else l)
    let w' := { cleared with lanes := lanes, bundle := m, run := r }
    let late := (hangLimit w.hangk).bind (fun t =>
      (elig.filter (fun i => !m.getLsbD i)).find? (fun i => decide (t ≤ (w'.lane i).starve)))
    (w', late.map (fun i =>
      ⟨15, 0, BitVec.ofNat 96 ((w'.lane i).starve % 2 ^ 64 * 2 ^ 32 + w.hangk.toNat % 64 * 2 ^ 8 + i), false⟩))

/-- Whether the catch-up point of R60 falls now: the bundle's next address is the lowest among eligible lanes outside it. -/
def Weft.catchUp (w : Weft) : Bool :=
  let out := (w.eligible w.run).filter (fun l => !w.bundle.getLsbD l)
  !out.isEmpty && w.lowPc out == w.pc

/-- Reform a weft (R59, R60); a lane that starves traps the new bundle (R75). -/
def State.reformWeft (s : State) (b i : Nat) : State :=
  match s.weft? b i with
  | none => s
  | some w =>
    let (w', hang) := w.form
    let s := s.modWeft b i (fun _ => w')
    match hang with
    | none => s
    | some c => s.trapWeft b i (w'.bundleLanes.map (fun l => (l, c))) w'.pc w'.pc false

end Sys2Proof.Machine
end

