-- ==== Sys2Proof/Machine/Schedule.lean ====
section
/-! DEFINITION. How an issue slot turns (R56, R60 to R64): waking parked lanes, reforming, taking points, fetching, and
choosing the weft that issues; and how the agents take turns (log 2). -/
namespace Sys2Proof.Machine

/-- A count reaches a target when (count - target) mod 2^48 < 2^47 (R219). -/
def countReached (count target : W64) : Bool := decide ((fld count 47 0 + 2 ^ 48 - fld target 47 0) % 2 ^ 48 < 2 ^ 47)

/-- A completion counter of a band (R218). -/
def Band.counter (bd : Band) (c : Nat) : W64 := SMap.get bd.ctr 0 c

/-- The tile that a matrix command names; MLDW and MLOOP count as naming every tile (R233, R241). -/
def MKind.tile : MKind → Option Nat
  | .mldw _ _ _ _ => none
  | .mloop _ _ _ _ _ _ _ _ _ => none
  | .mepi _ _ _ _ t _ _ _ => some t
  | .mzero t _ => some t
  | .mrd _ _ _ t _ _ => some t

/-- Whether two commands, or a command and an MWAIT, name a tile in common. -/
def tilesMeet (a b : Option Nat) : Bool :=
  match a, b with
  | some x, some y => x == y
  | _, _ => true

/-- Whether a command that an MWAIT waits for is not complete (R241): an earlier one of the band, on one tile or on all. -/
def Band.matrixBusy (bd : Band) (tile : Option Nat) (before : Nat) : Bool :=
  bd.mq.any (fun m => decide (m.id < before) && tilesMeet tile m.kind.tile)

/-- Whether a parked lane's condition holds (R58, R186, R219, R241, R345). -/
def State.parkOver (s : State) (bd : Band) : Park → Bool
  | .lines ls => ls.all (fun l => s.copiesOn l == 0)
  | .counter c target => countReached (bd.counter c) target || (bd.counter c).getLsbD 63
  | .matrix tile before => !bd.matrixBusy tile before
  | .coll slot number =>
    match (s.ctx? bd.ctx).bind (fun c => SMap.find? c.tickets slot) with
    | none => true
    | some t => t.fin.isSome || t.number != some number
  | _ => false

/-- A lane whose condition holds. At an MWAIT it goes on after the word, unless the fault record is set: the word then raises
it (R241). -/
def Lane.unpark (l : Lane) (bd : Band) : Park → Lane
  | .matrix _ _ => if bd.mfault.isSome then l.ready else { l.ready with pc := l.pc + 8 }
  | _ => l.ready

/-- Wake the lanes of a weft whose condition holds. -/
def State.wake (s : State) (b i : Nat) : State :=
  match s.band? b with
  | none => s
  | some bd =>
    s.modWeft b i (fun w => { w with lanes := w.lanes.map (fun l =>
      match l.state with
      | .parked why => if s.parkOver bd why then l.unpark bd why else l
      | _ => l) })

/-- A far request as an agent makes it. -/
def FarReq.make (who : FarWho) (op : FarOp) (bd : Band) (addr : W64) (len : Nat) (stage : FarStage) : FarReq :=
  {
    who := who, op := op, ctx := bd.ctx, part := bd.part, core := bd.core, addr := addr, len := len, data := []
    dst := 0, ctr := none, stamp := 0, cls := 1, stage := stage, home := dieOf bd.core, owner := 0, rights := 0
    heldOnce := false, passed := [], region := none, blockAt := none, snap := 0, at_ := 0, stampD := 0
    mask := [], fresh := false, via := none, by_ := bd.core, wire := 0, held := 0, retry := 0, room := 0, peer := 0 }

/-- The deadline stamp of a request (R372): its time in units of 8 ns and its class's budget. -/
def State.deadline (s : State) (part cls : Nat) : Nat :=
  (s.now / 8 + min (fld (s.kget (.hbmdl part)) (16 * cls + 15) (16 * cls)) (2 ^ 15 - 1)) % 2 ^ 16

/-- Send a far request: it takes the next stamp as its number, and its deadline stamp (R372). -/
def State.sendReq (s : State) (r : FarReq) : State :=
  { s.nextStamp with reqs := SMap.insert s.reqs s.stamp { r with stamp := s.stamp, at_ := s.now, stampD := s.deadline r.part r.cls } }

/-- The place of an HBM address on its channel (R309, R316). -/
def FarStage.onHbm (phys : Nat) : FarStage :=
  .channel (phys / 2 ^ 36) (phys / 2 ^ 31 % 32) (phys / 2 ^ 25 % 64) (phys / 2 ^ 13 % 4096) (phys % 2 ^ 13)

/-- A request of the device itself (R371), by requester number (R375). -/
def FarReq.device (job : DevJob) (part cls by_ len : Nat) (stage : FarStage) : FarReq :=
  {
    who := .dev job, op := .load, ctx := 255, part := part, core := 0, addr := 0, len := len, data := []
    dst := 0, ctr := none, stamp := 0, cls := cls, stage := stage, home := 0, owner := 0, rights := 0
    heldOnce := false, passed := [], region := none, blockAt := none, snap := 0, at_ := 0, stampD := 0
    mask := [], fresh := false, via := none, by_ := by_, wire := 0, held := 0, retry := 0, room := 0, peer := 0 }

/-- The device makes a request of its own for a partition, whose budgets it takes (R372). -/
def State.sendDev (s : State) (job : DevJob) (part cls by_ : Nat) (stage : FarStage) : State :=
  let r := FarReq.device job part cls by_ 64 stage
  { s.nextStamp with reqs := SMap.insert s.reqs s.stamp { r with stamp := s.stamp, at_ := s.stamp, stampD := s.deadline part cls } }

/-- The save engine of a die makes a request for an image (R295, R304, R371): which HBM of the die holds it the keeper chooses
(log 33). -/
def State.sendImage (s : State) (job : DevJob) (die : Nat) : State :=
  let n := Config.freeNat s.freeCtr
  s.tick.sendDev job 0 0 (336 + die) (FarStage.onHbm ((3 * die + n % 3) * 2 ^ 36 + n / 3 % 2 ^ 36))

/-- Whether a request of the device itself is under way. -/
def State.working (s : State) (job : DevJob) : Bool := s.reqs.any (fun e => e.2.who == .dev job)

/-- The bundle parks for its code (R117, R264), with a request that brings it or waits for the page-in service. -/
def State.parkFetch (s : State) (b i : Nat) (bd : Band) (w : Weft) (a : W64) (stage : FarStage) : State :=
  let s := s.sendReq (FarReq.make (.fetch b i) .load bd a 8 stage)
  s.modWeft b i (fun v => v.parkLanes w.bundle .code w.pc)

/-- Issue the word at the bundle's address. An illegal encoding in the second half of a pair leaves sr.tcause's half 0 (DESIGN
CHOICE; log 53). -/
def State.issueWord (run : Instr → State → Out) (s : State) (b i : Nat) (bd : Band) (w : Weft) : Out :=
  match s.fetch bd w w.pc with
  | .words ws =>
    match decodeWords ws with
    | .ok x _ => run x s
    | .bad reason detail => .next (s.trapAll b i bd w [] ⟨1, reason, detail, false⟩)
  | .wait => .next s.hold
  | .trap c => .next (s.trapAll b i bd w [] c)
  | .refused phys =>
    let (c, s) := s.refusedRow bd.part bd.ctx phys (s.codeAddr bd.ctx w.pc)
    .next (s.trapAll b i bd w [] c)
  | .pageIn st => .next (s.parkFetch b i bd w (s.codeAddr bd.ctx w.pc) (.pageIn st))
  | .host a => .next (s.parkFetch b i bd w (BitVec.ofNat 64 a) .segment)

/-- Whether a weft is to stop for a save at this word boundary (R298, R299, R307). -/
def Band.stopsNow (bd : Band) (deferring : Bool) : Bool :=
  match bd.save with
  | none => false
  | some v => v.flush || (v.full && !deferring)

/-- A weft with a formed bundle goes on: it stops where it must, takes the points of R60 that R61 does not defer, and issues
its word. No catch-up point falls before the first word of a bundle (DESIGN CHOICE; log 60). -/
def State.goOn (run : Instr → State → Out) (s : State) (b i : Nat) (bd : Band) (w : Weft) : Out :=
  let defer := s.deferring bd w
  if bd.stopsNow defer then .next (s.modWeft b i (fun v => { v with stop := some .full }))
  else if bd.stopped && !defer && !w.begun && w.slack == 0 then .next s.stall
  else if w.seq ≠ 0 && !defer && 4 ≤ w.issued then run .intervalPoint s
  else if w.seq ≠ 0 && !defer && w.catchUp then .next (s.reformWeft b i)
  else if bd.stopped && !defer then (s.modWeft b i (fun v => { v with slack := v.slack - 1 })).issueWord run b i bd w
  else s.issueWord run b i bd w

/-- A weft's turn to issue. `stalled` in the answer says that it could not. -/
def State.attempt (run : Instr → State → Out) (s : State) (b i : Nat) : Out :=
  let s := { s.wake b i with cur := some (b, i) }
  match s.band? b, s.weft? b i with
  | some bd, some w =>
    if bd.state ≠ .resident ∨ w.retired ∨ w.frozen ∨ w.stop.isSome then .next s.stall
    else if w.reform || w.bundle == 0 then
      let s := s.reformWeft b i
      match s.weft? b i with
      | none => .next s
      | some w => if w.reform then .next s else if w.bundle = 0 then .next s.stall else s.goOn run b i bd w
    else s.goOn run b i bd w
  | _, _ => .next s.stall

/-- The wefts resident on a slot, as (band, weft), in number order. -/
def State.slotWefts (s : State) (core slot : Nat) : List (Nat × Nat) :=
  s.bands.flatMap (fun e =>
    if e.2.core = core ∧ e.2.state = .resident then
      (e.2.wefts.mapIdx (fun i w => (i, w))).filterMap (fun x =>
        if x.2.slot = slot ∧ x.2.retired = false then some (e.1, x.1) else none)
    else [])

/-- The weft a slot serves. -/
def State.servingOn (s : State) (core slot : Nat) : Option (Nat × Nat) := SMap.find? (s.core core).serving slot

/-- The slot turns to another weft (R24, R60, R63): the queue of the one it leaves is cleared, and both reform. -/
def State.switchTo (s : State) (core slot : Nat) (x : Nat × Nat) : State :=
  let leave := fun (w : Weft) =>
    { w with latches := [], chain := none, reform := true, slotCycles := 0, spent := false, slack := 0, begun := false }
  let s := match s.servingOn core slot with
    | some (b, i) => s.modWeft b i leave
    | none => s
  let s := s.modWeft x.1 x.2 leave
  s.modCore core (fun c => { c with serving := SMap.insert c.serving slot x })

/-- Whether an outcome is an issue that went on. -/
def moved : Out → Bool
  | .next s => !s.stalled
  | _ => true

/-- The first of some outcomes that went on. -/
def firstMoved : List (Unit → Out) → Option Out
  | [] => none
  | f :: fs => if moved (f ()) then some (f ()) else firstMoved fs

/-- Insert into a list by falling priority, after those of equal priority. -/
def byPrio (prio : Nat × Nat → Nat) (x : Nat × Nat) : List (Nat × Nat) → List (Nat × Nat)
  | [] => [x]
  | y :: ys => if prio y < prio x then x :: y :: ys else y :: byPrio prio x ys

/-- The wefts a slot may turn to, in the order of R63: the highest priority first, round-robin among equals from the one
after the weft that it serves. -/
def State.switchOrder (s : State) (prio : Nat × Nat → Nat) (core slot : Nat) : List (Nat × Nat) :=
  let all := s.slotWefts core slot
  let rot := match s.servingOn core slot with
    | none => all
    | some x => (all.dropWhile (fun y => y != x)).drop 1 ++ all.takeWhile (fun y => y != x)
  rot.foldl (fun a x => byPrio prio x a) []

/-- Whether a wait holds its slot (R64). -/
def holds : Out → Bool
  | .next s => s.inPlace
  | _ => false

/-- An issue slot's turn (R63, R64): where the weft that it serves has parked, or has had its 256 cycles, and no deferral holds
the slot, it switches to the first other weft that can issue; else it goes on with the weft it serves; and where that must
wait as R63 lists, it switches. None when nothing on the slot can issue. -/
def State.slotTurn (run : Instr → State → Out) (prio : State → Nat × Nat → Nat) (s : State) (core slot : Nat) : Option Out :=
  let others := (s.switchOrder (prio s) core slot).map (fun x => fun (_ : Unit) =>
    (s.switchTo core slot x).attempt run x.1 x.2)
  match s.servingOn core slot with
  | none => firstMoved others
  | some (b, i) =>
    match s.band? b, s.weft? b i with
    | some bd, some w =>
      let kept := !w.reform && s.deferring bd w
      let s' := if w.spent && !kept then s.modWeft b i (fun v => { v with spent := false }) else s
      match (if w.spent && !kept then firstMoved others else none) with
      | some o => some o
      | none =>
        let own := s'.attempt run b i
        if moved own then some own else if kept || holds own then none else firstMoved others
    | _, _ => firstMoved others

/-- The slots that serve or hold a weft, round from the one after the current weft's: each slot issues in its turn. -/
def State.activeSlots (s : State) : List (Nat × Nat) :=
  let all := (s.bands.flatMap (fun e => if e.2.state = .resident then e.2.wefts.map (fun w => (e.2.core, w.slot)) else [])).eraseDups
  match s.cur.bind (fun c => (s.band? c.1).bind (fun bd => (bd.weft? c.2).map (fun w => (bd.core, w.slot)))) with
  | none => all
  | some x => (all.dropWhile (fun y => y != x)).drop 1 ++ all.takeWhile (fun y => y != x) ++ all.filter (fun y => y == x)

/-- The next thing that happens (log 2): the head of `turns` where it names one (log 58); else the first pending event of the
package; else the first slot that can issue; else a microsecond passes. -/
def State.advance (run : Instr → State → Out) (pending : State → List (State → Out)) (prio : State → Nat × Nat → Nat)
    (chance : Chance → State → State) (s : State) : Out :=
  let s := { s with stalled := false, inPlace := false }
  match s.turns with
  | .event e :: rest => run e { s with turns := rest }
  | .wait ns :: rest => .next { s with turns := rest, now := s.now + ns }
  | .chance c :: rest => .next (chance c { s with turns := rest })
  | .slot c k :: rest =>
    let s := { s with turns := rest }
    (s.slotTurn run prio c k).getD (.next s)
  | [] =>
    let events := (pending s).map (fun e => fun (_ : Unit) => e s)
    let nexts := events.filter (fun f => match f () with
      | .next _ => true
      | _ => false)
    match firstMoved nexts with
    | some o => o
    | none =>
      match s.activeSlots.findSome? (fun x => s.slotTurn run prio x.1 x.2) with
      | some o => o
      | none => .next { s with now := s.now + 1000 }

end Sys2Proof.Machine
end

