-- ==== Sys2Proof/Machine/Iter.lean ====
section
/-! DEFINITION. Iterator records (R209 to R212), ITSET and ITLD (R213, R214), the checks of engine commands (R216),
completion counters (R218 to R220), and how an engine reaches the bytes of a walk (R201 to R206, R217). -/
namespace Sys2Proof.Machine

/-- A dimension that nothing has set. -/
def Dim.zero : Dim := ⟨0, 0, 0⟩

/-- A record that nothing has set. -/
def Rec.fresh : Rec := ⟨0, 0, 0, List.replicate 12 Dim.zero, 0⟩

/-- An iterator record of a band. -/
def Band.rec_ (bd : Band) (n : Nat) : Rec := SMap.get bd.it Rec.fresh n

/-- The number of dimensions (R210). -/
def Rec.nd (r : Rec) : Nat := fld r.hdr 3 0
/-- The element format (R210). -/
def Rec.fmt? (r : Rec) : Option Fmt := Fmt.ofCode (fld r.hdr 7 4)
/-- The element format of a record that has passed its checks. -/
def Rec.fmt (r : Rec) : Fmt := (Rec.fmt? r).getD .f32
/-- The space: 0 far, 1 band, 2 die. -/
def Rec.space (r : Rec) : Nat := fld r.hdr 9 8
/-- The broadcast flag of a dimension. -/
def Rec.bcast (r : Rec) (d : Nat) : Bool := r.hdr.getLsbD (16 + d)
/-- A dimension. -/
def Rec.dim (r : Rec) (d : Nat) : Dim := r.dims.getD d Dim.zero
/-- The dimensions in use. -/
def Rec.used (r : Rec) : List Dim := (List.range (Rec.nd r)).map (Rec.dim r)

/-- The bits of an element in memory (R82, R210). -/
def Fmt.memBits (f : Fmt) : Nat :=
  match f with
  | .e3m2 => 6
  | .e2m3 => 6
  | f => f.width

/-- Formats that are dense in dimension 0 (R210). -/
def Fmt.isDense (f : Fmt) : Bool := Fmt.memBits f == 6 || Fmt.memBits f == 4

/-- Elements in a unit of whole bytes. -/
def Fmt.unitElems (f : Fmt) : Nat := if Fmt.memBits f = 6 then 4 else if Fmt.memBits f = 4 then 2 else 1
/-- Bytes of a unit. -/
def Fmt.unitBytes (f : Fmt) : Nat := if Fmt.memBits f = 6 then 3 else if Fmt.memBits f = 4 then 1 else Fmt.memBits f / 8
/-- The FM size code of a unit, for details of group 6 (log 16). -/
def Fmt.sizeCode (f : Fmt) : Nat := Nat.log2 (Fmt.unitBytes f)

/-- The product of extents. -/
def extentProd (ds : List Dim) : Nat := ds.foldl (fun a d => a * d.extent.toNat) 1
/-- Elements of the whole walk (R211). -/
def Rec.total (r : Rec) : Nat := extentProd (Rec.used r)
/-- Elements that precede an index vector (R212). -/
def indexPos : List Dim → Nat → Nat
  | [], _ => 0
  | d :: ds, m => d.index.toNat * m + indexPos ds (m * d.extent.toNat)
/-- Elements before the record's own index vector. -/
def Rec.start (r : Rec) : Nat := indexPos (Rec.used r) 1
/-- The remaining length (R212). -/
def Rec.len (r : Rec) : Nat := Rec.total r - Rec.start r

/-- The index vector of a walk position counted from the beginning. -/
def indexAt : List Dim → Nat → List Nat
  | [], _ => []
  | d :: ds, k => k % d.extent.toNat :: indexAt ds (k / d.extent.toNat)

/-- The record with its index counters at an element counted from its start (R217); past the end they are zero. -/
def Rec.atElem (r : Rec) (k : Nat) : Rec :=
  let p := Rec.start r + k
  let ix := if p < Rec.total r then indexAt (Rec.used r) p else []
  { r with dims := r.dims.mapIdx (fun d x => { x with index := BitVec.ofNat 32 (ix.getD d 0) }) }

/-- The offset of an index vector in the dimensions from 1 on (R211). -/
def outerOff (r : Rec) : List Nat → Nat → W64
  | [], _ => 0
  | i :: is, d => (if Rec.bcast r d then 0 else BitVec.ofNat 64 i * (Rec.dim r d).stride) + outerOff r is (d + 1)

/-- The byte address of element k counted from the record's start, and its place in its group (R211). -/
def Rec.addr (r : Rec) (k : Nat) : W64 × Nat :=
  match indexAt (Rec.used r) (Rec.start r + k) with
  | [] => (r.base, 0)
  | i :: is =>
    let at_ := r.base + outerOff r is 1
    let u := Fmt.unitElems (Rec.fmt r)
    if Fmt.isDense (Rec.fmt r) then
      if Rec.bcast r 0 then (at_, 0) else (at_ + BitVec.ofNat 64 (Fmt.unitBytes (Rec.fmt r) * (i / u)), i % u)
    else (at_ + (if Rec.bcast r 0 then 0 else BitVec.ofNat 64 i * (Rec.dim r 0).stride), 0)

/-- Reason 1 of R216: the record breaks R210. -/
def Rec.broken (r : Rec) : Bool :=
  Rec.nd r == 0 || decide (12 < Rec.nd r) || (Rec.fmt? r).isNone || Rec.space r == 3
    || fld r.hdr 15 10 != 0 || fld r.hdr 63 28 != 0 || r.zero != 0
    || (Rec.used r).any (fun d => d.extent == 0 || decide (d.extent.toNat ≤ d.index.toNat))
    || (Fmt.isDense (Rec.fmt r) && ((Rec.dim r 0).stride != 0
        || (Rec.dim r 0).extent.toNat % Fmt.unitElems (Rec.fmt r) != 0))

/-- Reason 3 of R216: the base is not aligned to the element size. -/
def Rec.misaligned (r : Rec) : Bool := !Fmt.isDense (Rec.fmt r) && r.base.toNat % Fmt.unitBytes (Rec.fmt r) != 0

/-- A broadcast dimension. -/
def Rec.broadcasts (r : Rec) : Bool := (List.range (Rec.nd r)).any (Rec.bcast r)

/-- The bytes of a walk. -/
def Rec.bytes (r : Rec) : Nat := Rec.len r * Fmt.memBits (Rec.fmt r) / 8

/-- Group 10 (R216, R259). -/
def engineCause (reason opc : Nat) (rec_ : Option Nat) : Cause :=
  ⟨10, reason, BitVec.ofNat 96 ((match rec_ with
    | some n => 2 ^ 13 + n * 2 ^ 9
    | none => 0) + opc), false⟩

/-- The checks of R216 on the records of a command, reason by reason: each record with its number and whether the command
writes it; `len` asks for one walk length, `same` for one
format; `overlap` is the record that reason 5 names. The record reported is the first that fails. -/
def checkRecs (opc : Nat) (recs : List (Nat × Rec × Bool)) (len same : Bool) (overlap : Option Nat) :
    Option Cause :=
  let find := fun (reason : Nat) (p : Rec → Bool → Bool) =>
    (recs.find? (fun x => p x.2.1 x.2.2)).map (fun x => engineCause reason opc (some x.1))
  let first : Rec := (recs.head?.map (fun x => x.2.1)).getD Rec.fresh
  (find 1 (fun r _ => Rec.broken r)).or <|
  (find 2 (fun r _ => (len && Rec.len r != Rec.len first) || (same && Rec.fmt r != Rec.fmt first))).or <|
  (find 3 (fun r _ => Rec.misaligned r)).or <|
  (find 4 (fun r w => w && Rec.broadcasts r)).or <|
  (overlap.map (fun n => engineCause 5 opc (some n))).or <|
  find 6 (fun r _ => decide (2 ^ 47 ≤ Rec.bytes r))

/-- Change a record of a band; the change counts as a write of ITSET or ITLD (R217). -/
def State.setRec (s : State) (b n : Nat) (f : Rec → Rec) : State :=
  s.modBand b (fun x =>
    let r := x.rec_ n
    { x with it := SMap.set x.it Rec.fresh n { f r with ver := r.ver + 1 } })

/-- The record with every index zero. -/
def Rec.clearIndex (r : Rec) : Rec := { r with dims := r.dims.map (fun d => { d with index := 0 }) }

/-- ITSET (R213). -/
def execItset (it : Fin 16) (part : ItPart) (a b : Operand) (g : Guard) (s : State) : Out :=
  let fields : List (Nat × FieldRead) := match part with
    | .base => [(1, feField true a)]
    | .hdr => [(1, feField true a)]
    | .dim _ => [(1, feField false a), (2, feField true b)]
    | .clr => []
  let needs := feNeeds fields []
  runOnce g needs (fields.map (fun f => f.2)) (fun s x i bd w lanes chk =>
    let l := lanes.headD 0
    let set := fun (r : Rec) => match part with
      | .base => { r with base := (feField true a).value w l }
      | .hdr => { r with hdr := (feField true a).value w l }
      | .dim k => { r with dims := r.dims.modify k.val (fun d =>
          { d with extent := ((feField false a).value w l).setWidth 32, stride := (feField true b).value w l }) }
      | .clr => r
    chk none (fun _ => .next ((s.finish x i bd w needs.latch {}).setRec x it.val (fun r => Rec.clearIndex (set r))))) s

/-- A double in an image. -/
def imageD (bs : List Byte) (off : Nat) : W64 := BitVec.ofNat 64 (leNat ((bs.drop off).take 8))

/-- A record as an image gives it (R210, R214): the fields that the image holds. -/
def Rec.ofImage (old : Rec) (bs : List Byte) : Rec where
  base := imageD bs 0
  hdr := imageD bs 8
  zero := imageD bs 24 ++ imageD bs 16
  dims := old.dims.mapIdx (fun d x =>
    if 32 + 16 * d < bs.length then
      ⟨imageD bs (32 + 16 * d), (imageD bs (40 + 16 * d)).setWidth 32, ((imageD bs (40 + 16 * d)) >>> 32).setWidth 32⟩
    else x)
  ver := old.ver

/-- ITLD (R214): a lane-path read of the header and then of the image that it sizes. -/
def execItld (it : Fin 16) (a : Operand) (die : Bool) (g : Guard) (s : State) : Out :=
  let fd := feField true a
  let needs := feNeeds [(1, fd)] []
  let sp := if die then Space.die else Space.band
  runOnce g needs [fd] (fun s b i bd w lanes chk =>
    let addr := fd.value w (lanes.headD 0)
    let look := fun n : Nat => if addr.toNat % 32 ≠ 0 then Except.error 1 else
      s.nearAddr b bd die (dieOf bd.core) addr.toNat n false
    let fail := fun r => chk (some (nearCause false 0 sp r addr)) (fun _ => .next s.stall)
    match look 32 with
    | .error r => fail r
    | .ok (p, off) =>
      let gone := s.absentLines p off 16
      if !gone.isEmpty then chk none (fun _ => .next (s.parkWord b i bd w needs.latch (.lines gone))) else
      if w.held? .lane die then chk none (fun _ => .next s.stall) else
      let h := s.nearRead b i bd w (.at_ p (off + 8)) 8 false
      let nd := leNat h.1 % 16
      let n := if nd = 0 ∨ 12 < nd then 32 else 32 + 16 * nd
      match look n with
      | .error r => fail r
      | .ok (p, off) =>
        let gone := s.absentLines p off n
        if !gone.isEmpty then chk none (fun _ => .next (s.parkWord b i bd w needs.latch (.lines gone))) else
        chk (s.flawAt p off n) <| fun _ =>
        let s := h.2
        let r := s.nearRead b i bd ((s.weft? b i).getD w) (.at_ p off) n false
        let img := r.1.take 8 ++ h.1 ++ r.1.drop 16
        .next ((r.2.finish b i bd w needs.latch {}).setRec b it.val (fun o => Rec.ofImage o img))) s

/-- Add delivered bytes to a counter (R218). -/
def State.addCount (s : State) (b c n : Nat) : State :=
  s.modBand b (fun x =>
    let v := x.counter c
    { x with ctr := SMap.set x.ctr 0 c (setFld v 47 0 (fld v 47 0 + n)) })

/-- A counter's err bit and, if it was clear, its fault record (R217). -/
def State.failCount (s : State) (b c : Nat) (cause : Cause) : State :=
  s.modBand b (fun x =>
    let v := x.counter c
    if v.getLsbD 63 then x else
    { x with ctr := SMap.set x.ctr 0 c (setFld v 63 63 1), ctrFault := SMap.insert x.ctrFault c cause })

/-- CWAIT (R219). The wait form also raises the error that the weft holds (R217); the test form never traps. -/
def execCwait (ctr : Fin 64) (a : Operand) (test : Option (Fin 7)) (g : Guard) (s : State) : Out :=
  let fd := feField true a
  let needs := feNeeds [(1, fd)] []
  match test with
  | some p =>
    runOnce g needs [fd] (fun s b i bd w lanes chk =>
      let v := bd.counter ctr.val
      let t := countReached v (fd.value w (lanes.headD 0)) || v.getLsbD 63
      chk none (fun _ => .next (s.finish b i bd w needs.latch
        { lanes := (laneList w.width (w.act g)).map (fun k => { lane := k, p := [(p.val, t)] }) }))) s
  | none =>
    s.issue needs (fun b i bd w =>
      let v := bd.counter ctr.val
      let own := if v.getLsbD 63 then some ((SMap.find? bd.ctrFault ctr.val).getD ⟨0, 0, 0, false⟩) else none
      let acts := w.nonHelpers (w.act g)
      let cause := (acts.head?.map (fun l => (fd.marks w l).foldl (fun a c => pickCause a (some c)) own)).getD none
      s.raiseHeld b i bd w needs.latch (fun l => if acts.contains l then cause else none)
      (match acts with
       | [] => .next (s.finish b i bd w needs.latch {})
       | l :: ls =>
         match cause with
         | some c => .next (s.finish b i bd w needs.latch { lanes := sameCause (l :: ls) c })
         | none =>
           if countReached v (fd.value w l) then .next (s.finish b i bd w needs.latch {})
           else .next (s.parkWord b i bd w needs.latch (.counter ctr.val (fd.value w l)))))

/-- CADD (R220). -/
def execCadd (ctr : Fin 64) (a : Operand) (g : Guard) (s : State) : Out :=
  let fd := feField true a
  let needs := feNeeds [(1, fd)] []
  runOnce g needs [fd] (fun s b i bd w lanes chk =>
    chk none (fun _ => .next ((s.finish b i bd w needs.latch {}).addCount b ctr.val (fd.value w (lanes.headD 0)).toNat))) s

/-- CSET (R220). -/
def execCset (ctr : Fin 64) (a : Operand) (g : Guard) (s : State) : Out :=
  let fd := feField true a
  let needs := feNeeds [(1, fd)] []
  runOnce g needs [fd] (fun s b i bd w lanes chk =>
    let x := fd.value w (lanes.headD 0)
    chk none (fun _ => .next ((s.finish b i bd w needs.latch {}).modBand b (fun y =>
      {
        y with
        ctr := SMap.set y.ctr 0 ctr.val (x &&& (maskBits 63 63 ||| maskBits 47 0))
        ctrFault := if x.getLsbD 63 then y.ctrFault else SMap.erase y.ctrFault ctr.val })))) s

end Sys2Proof.Machine
end

