-- ==== Sys2Proof/Machine/Walk.lean ====
section
/-! DEFINITION. How an engine reaches the bytes of a walk: the 32-byte sectors that it reads, near or by requests to far memory,
the elements in them, and the bytes that it is to write (R203, R205, R211, R217; log 6). -/
namespace Sys2Proof.Machine

/-- Why an engine cannot go on with an element: it waits for a line or for bytes under way, it ends in error, or the request for
its bytes has ended in error. -/
inductive Halt where
  | wait
  | fail (c : Cause)
  | lost (req : Nat)
deriving DecidableEq, Repr

/-- Bytes that an engine reads: their space and address, how many, the unit for a detail of group 6, whether the address must be
aligned to them, and whether they are read at home whatever the snapshot (R254). -/
structure Want where
  space : Nat
  addr : W64
  n : Nat
  code : Nat
  aligned : Bool
  fresh : Bool

/-- The unit of bytes that holds element k of a record's walk (R211). -/
def Rec.need (r : Rec) (k : Nat) : Want :=
  ⟨Rec.space r, (Rec.addr r k).1, Fmt.unitBytes (Rec.fmt r), Fmt.sizeCode (Rec.fmt r), !Fmt.isDense (Rec.fmt r), false⟩

/-- The near place of some bytes, or the fault of R188. -/
def State.nearOf (s : State) (b : Nat) (bd : Band) (x : Want) (write : Bool) : Except Cause (Place × Nat) :=
  let die := x.space == 2
  match (if x.aligned && x.addr.toNat % x.n != 0 then Except.error 1
    else s.nearAddr b bd die (dieOf bd.core) x.addr.toNat x.n write) with
  | .ok y => .ok y
  | .error reason => .error (nearCause write x.code (if die then .die else .band) reason x.addr)

/-- The key of the 32-byte sector of an address in a space. -/
def secKey (space a : Nat) : Nat := space * 2 ^ 59 + a / 32

/-- The addresses of the sectors of some bytes. -/
def sectorsOf (a n : Nat) : List Nat := (List.range ((a + max n 1 - 1) / 32 + 1 - a / 32)).map (fun k => 32 * (a / 32 + k))

/-- What an engine has read and asked for: the state, the sectors read, those asked of far memory by request, and those to ask. -/
structure Cache where
  s : State
  got : SMap (List Byte)
  loads : List (Nat × Nat)
  ask : List (Nat × Bool)

/-- Whether a line waits for a copy other than one of those named (R203). -/
def State.lineWaits (s : State) (skip : Nat → Cmd → Bool) (l : Line) : Bool :=
  s.cmds.any (fun e => e.2.lines.any (fun x => x.2 == l) && !skip e.1 e.2)

/-- Read a near sector (R197, R203), or wait for one of its lines. -/
def State.readSector (s : State) (g : Agent) (skip : Nat → Cmd → Bool) (p : Place) (off : Nat) : Except Halt (List Byte × State) :=
  if (linesOf p off 32).any (s.lineWaits skip) then .error .wait else
  match p with
  | .band id => .ok (s.bandRead id off 32 g)
  | p => .ok (s.readShared p off 32 g)

/-- See to one sector of some bytes: read it where it is near, and ask for it where it is far and has not been asked for. -/
def Cache.sector (c : Cache) (b : Nat) (bd : Band) (g : Agent) (skip : Nat → Cmd → Bool) (x : Want) (a : Nat) : Except Halt Cache :=
  let key := secKey x.space a
  if (SMap.find? c.got key).isSome then .ok c else
  if x.space = 0 then
    match c.loads.find? (fun l => l.2 == key) with
    | none => .ok { c with ask := if c.ask.any (fun y => y.1 == a) then c.ask else c.ask ++ [(a, x.fresh)] }
    | some l => match SMap.find? c.s.reqs l.1 with
      | some r => (match r.stage with
        | .failed _ => .error (.lost l.1)
        | _ => .error .wait)
      | none => .error .wait
  else
    match c.s.nearOf b bd x false with
    | .error e => .error (.fail e)
    | .ok (p, off) =>
      let at_ := off / 32 * 32 + (a - x.addr.toNat / 32 * 32)
      match c.s.flawAt p at_ 32 with
      | some e => .error (.fail e)
      | none =>
      if x.fresh then
        if (linesOf p at_ 32).any (c.s.lineWaits skip) then .error .wait
        else .ok { c with s := c.s.sawHome g p at_ 32, got := SMap.insert c.got key (c.s.homeRead p at_ 32) }
      else
      match c.s.readSector g skip p at_ with
      | .error h => .error h
      | .ok (bs, s) => .ok { c with s := s, got := SMap.insert c.got key bs }

/-- See to all the bytes that an element needs. What has been asked for stands, whatever stops the rest. -/
def Cache.gather (c : Cache) (b : Nat) (bd : Band) (g : Agent) (skip : Nat → Cmd → Bool) (xs : List Want) : Cache × Option Halt :=
  (xs.flatMap (fun x => (sectorsOf x.addr.toNat x.n).map (fun a => (x, a)))).foldl (fun (c : Cache × Option Halt) y =>
    match c.1.sector b bd g skip y.1 y.2 with
    | .ok d => (d, c.2)
    | .error h => (c.1, c.2.or (some h))) (c, none)

/-- Bytes of sectors that have been read. -/
def gotBytes (got : SMap (List Byte)) (space a n : Nat) : List Byte :=
  (List.range n).map (fun i => ((SMap.get got [] (secKey space (a + i)))[(a + i) % 32]?).getD 0)

/-- Element k of a record as its memory bits. -/
def Rec.elem (r : Rec) (got : SMap (List Byte)) (k : Nat) : Nat :=
  let x := Rec.need r k
  let m := Fmt.memBits (Rec.fmt r)
  leNat (gotBytes got x.space x.addr.toNat x.n) / 2 ^ (m * (Rec.addr r k).2) % 2 ^ m

/-- What a step of an engine makes: the sectors read, as it leaves them; the bytes to write by address, each with the bits of it
that are written; the bits delivered by sector; the exceptions; and the witness entries. -/
structure Chunk where
  got : SMap (List Byte)
  cells : SMap (Nat × Nat)
  bits : SMap Nat
  exc : Exc
  wits : List (Nat × Nat)

/-- Nothing made yet. -/
def Chunk.start (got : SMap (List Byte)) : Chunk := ⟨got, [], [], 0, []⟩

/-- Put bits into a byte of a space: in the bytes to write, and in a sector read. -/
def Chunk.putBits (c : Chunk) (space a v m : Nat) : Chunk :=
  if m = 0 then c else
  let o := SMap.get c.cells (0, 0) a
  let key := secKey space a
  {
    c with
    cells := SMap.insert c.cells a ((o.1 &&& (255 - m)) ||| (v &&& m), o.2 ||| m)
    got := SMap.modify c.got key (fun bs => bs.modify (a % 32) (fun x => BitVec.ofNat 8 ((x.toNat &&& (255 - m)) ||| (v &&& m)))) }

/-- Put n bytes, of which the bits of a mask, at an address. -/
def Chunk.putBytes (c : Chunk) (space a n v m : Nat) : Chunk :=
  (List.range n).foldl (fun c i => c.putBits space (a + i) (v / 2 ^ (8 * i) % 256) (m / 2 ^ (8 * i) % 256)) c

/-- Count bits delivered in the sector of an address. -/
def Chunk.count (c : Chunk) (a n : Nat) : Chunk := { c with bits := SMap.insert c.bits (a / 32) (SMap.get c.bits 0 (a / 32) + n) }

/-- The sectors that the unit of element k touches: two for a group of FP6 elements across a boundary. -/
def Rec.sectors (r : Rec) (k : Nat) : List Nat :=
  let x := Rec.need r k
  (sectorsOf x.addr.toNat x.n).map (· / 32)

/-- Whether the unit of element k lies across two sectors. -/
def Rec.straddles (r : Rec) (k : Nat) : Bool := decide (1 < (Rec.sectors r k).length)

/-- Write element k of a record. The bits of one that lies across two sectors count when both have landed (R218). -/
def Rec.put (r : Rec) (k v : Nat) (c : Chunk) : Chunk :=
  let x := Rec.need r k
  let m := Fmt.memBits (Rec.fmt r)
  let sh := m * (Rec.addr r k).2
  let c := c.putBytes x.space x.addr.toNat x.n (v % 2 ^ m * 2 ^ sh) ((2 ^ m - 1) * 2 ^ sh)
  if Rec.straddles r k then c else c.count x.addr.toNat m

/-- The bytes to write, sector by sector in address order: the sector's address, its bytes as (offset, value, bits), and the bits
delivered. -/
def Chunk.sectors (c : Chunk) : List (Nat × List (Nat × Nat × Nat) × Nat) :=
  let keys : List Nat := c.cells.map (fun (e : Nat × Nat × Nat) => e.1 / 32) ++ c.bits.map (fun (e : Nat × Nat) => e.1)
  keys.eraseDups.map (fun k =>
    (32 * k, (c.cells.filter (fun (e : Nat × Nat × Nat) => e.1 / 32 == k)).map (fun e => (e.1 % 32, e.2)), SMap.get c.bits 0 k))

/-- Insert a walk position into groups by the sector of its first byte, in ascending order. -/
def insertBySector (key k : Nat) : List (Nat × List Nat) → List (Nat × List Nat)
  | [] => [(key, [k])]
  | g :: gs =>
    if g.1 = key then (key, k :: g.2) :: gs
    else if key < g.1 then (key, [k]) :: g :: gs
    else g :: insertBySector key k gs

/-- A record's walk as works of one sector each, in ascending address order (R205). -/
def Rec.byAddress (r : Rec) : List Work :=
  ((List.range (Rec.len r)).foldr (fun k a => (Rec.sectors r k).foldr (fun x a => insertBySector x k a) a) []).map
    (fun g => .out g.1 g.2)

/-- Put a walk position that touches some sectors before groups by sector: into the groups of those sectors where they come first. -/
def joinGroups (k : Nat) (gs : List (Nat × List Nat)) : List Nat → List (Nat × List Nat)
  | [] => gs
  | x :: xs =>
    let n := xs.length + 1
    if (gs.take n).map (fun g => g.1) = x :: xs then (gs.take n).map (fun g => (g.1, k :: g.2)) ++ gs.drop n
    else (x, [k]) :: joinGroups k gs xs

/-- A record's walk as works of one sector each, in walk order (R217, R226). -/
def Rec.byWalk (r : Rec) : List Work :=
  ((List.range (Rec.len r)).foldr (fun k a => joinGroups k a (Rec.sectors r k)) []).map (fun g => .out g.1 g.2)

/-- The near lines that a work writes in a record's walk. -/
def State.workLines (s : State) (b : Nat) (bd : Band) (r : Rec) (w : Work) : List Line :=
  match w with
  | .out sec ks => (ks.filterMap (fun k =>
      let x := Rec.need r k
      match s.nearOf b bd x true with
      | .ok (p, off) => some (⟨p, (off + (32 * sec - x.addr.toNat)) / 128⟩ : Line)
      | .error _ => none)).eraseDups
  | _ => []

/-- Count a work's line among those of the works before it. -/
def countLine (l : Line) : List (Nat × Line) → List (Nat × Line)
  | [] => [(1, l)]
  | x :: xs => if x.2 = l then (x.1 + 1, l) :: xs else x :: countLine l xs

/-- The near lines that some works write, each with the number of works that touch it (R185). -/
def State.planLines (s : State) (b : Nat) (bd : Band) (r : Rec) (works : List Work) : List (Nat × Line) :=
  works.foldl (fun a w => (s.workLines b bd r w).foldl (fun a l => countLine l a) a) []

/-- Bytes as pages of 4 KiB of a space, each with a bit for every byte of it that is one of them. -/
def addBytes (m : SMap Nat) (a n : Nat) : SMap Nat :=
  let v := (2 ^ n - 1) * 2 ^ (a % 4096)
  let put := fun (m : SMap Nat) page x => SMap.insert m page (SMap.get m 0 page ||| x)
  let m := put m (a / 4096) (v % 2 ^ 4096)
  if v / 2 ^ 4096 = 0 then m else put m (a / 4096 + 1) (v / 2 ^ 4096)

/-- Bytes of storage: what names their page of 4 KiB, whatever address leads to it, with a bit for every byte. -/
abbrev Foot := List ((Nat × Nat × Nat) × Nat)

/-- What names a page of a space that a band reaches (R180, R202): a page of its own address where nothing is there. -/
def State.pageKey (s : State) (b : Nat) (bd : Band) (space page : Nat) : Nat × Nat × Nat :=
  match space with
  | 0 => (s.farPage bd.part (BitVec.ofNat 64 (4096 * page))).getD (0, 0, page)
  | 1 => ((s.member b bd (page / 256 % 16)).map (fun id => (4, id, page % 256))).getD (5, 0, page)
  | _ => (6, 0, page)

/-- The storage of bytes of a space, by pages. -/
def State.footOf (s : State) (b : Nat) (bd : Band) (space : Nat) (m : SMap Nat) : Foot :=
  m.map (fun e => (s.pageKey b bd space e.1, e.2))

/-- The storage of a record's walk. -/
def State.recFoot (s : State) (b : Nat) (bd : Band) (r : Rec) : Foot :=
  s.footOf b bd (Rec.space r) ((List.range (Rec.len r)).foldl (fun m k => addBytes m (Rec.addr r k).1.toNat (Fmt.unitBytes (Rec.fmt r))) [])

/-- The storage of bytes in a row. -/
def State.rowFoot (s : State) (b : Nat) (bd : Band) (space a n : Nat) : Foot :=
  s.footOf b bd space ((List.range ((a + n + 4095) / 4096 - a / 4096)).foldl (fun m k =>
    let lo := max a (4096 * (a / 4096 + k))
    addBytes m lo (min (a + n) (4096 * (a / 4096 + k + 1)) - lo)) [])

/-- Whether two pieces of storage share a byte. -/
def footMeet (xs ys : Foot) : Bool := xs.any (fun x => ys.any (fun y => x.1 == y.1 && (x.2 &&& y.2) != 0))

/-- A command that starts: whether it writes far memory, for R306. -/
def Rec.isFar (r : Rec) : Bool := Rec.space r == 0

end Sys2Proof.Machine
end

