-- ==== Sys2Proof/Machine/Engine.lean ====
section
/-! DEFINITION. TCOPY, FILL and CHAIN: issue (R215, R216, R221, R222, R225, R226), the sectors that their engines land
(R205, R218), and how a command ends (R185, R217). -/
namespace Sys2Proof.Machine

/-- The lowest and highest offsets of dimension indices between two bounds. -/
def dimSpan (stride : Int) (l h : Nat) : Int × Int := (min (l * stride) (h * stride), max (l * stride) (h * stride))

/-- The offset that a dimension's index makes: none under broadcast, in units for a dense dimension 0. -/
def Rec.dimRange (r : Rec) (d l h : Nat) : Int × Int :=
  if Rec.bcast r d then (0, 0)
  else if d = 0 ∧ Fmt.isDense (Rec.fmt r) then
    dimSpan (Fmt.unitBytes (Rec.fmt r)) (l / Fmt.unitElems (Rec.fmt r)) (h / Fmt.unitElems (Rec.fmt r))
  else dimSpan (Rec.dim r d).stride.toInt l h

/-- The span of the remaining elements whose index first rises in dimension d (R212, R226). -/
def Rec.boxSpan (r : Rec) (d : Nat) : Option (Int × Int) :=
  let from_ := (Rec.dim r d).index.toNat + (if d = 0 then 0 else 1)
  let ext := (Rec.dim r d).extent.toNat
  if ext ≤ from_ then none else
  some ((List.range (Rec.nd r)).foldl (fun a e =>
    let i := (Rec.dim r e).index.toNat
    let x := if e < d then Rec.dimRange r e 0 ((Rec.dim r e).extent.toNat - 1)
      else if e = d then Rec.dimRange r e from_ (ext - 1) else Rec.dimRange r e i i
    (a.1 + x.1, a.2 + x.2)) (0, 0))

/-- The lowest and highest byte of a record's walk (R226), from its base. -/
def Rec.span (r : Rec) : Int × Int :=
  let boxes := (List.range (Rec.nd r)).filterMap (Rec.boxSpan r)
  let lo := boxes.foldl (fun a x => min a x.1) ((boxes.head?.map (fun x => x.1)).getD 0)
  let hi := boxes.foldl (fun a x => max a x.2) ((boxes.head?.map (fun x => x.2)).getD 0)
  (r.base.toNat + lo, r.base.toNat + hi + Fmt.unitBytes (Rec.fmt r) - 1)

/-- An address whose member field names its own band by its position in the gang, as member 0 reaches the same bytes (R180). -/
def ownAddr (pos space : Nat) (a : W64) : W64 :=
  if space = 1 ∧ a.toNat / 2 ^ 20 % 16 = pos + 1 then a - BitVec.ofNat 64 ((pos + 1) * 2 ^ 20) else a

/-- A record with its base in its own band's window. -/
def Rec.own (r : Rec) (pos : Nat) : Rec := { r with base := ownAddr pos (Rec.space r) r.base }

/-- Whether two spans of bytes in spaces share a byte. -/
def spansMeet (sa : Nat) (a : Int × Int) (sb : Nat) (b : Int × Int) : Bool := sa == sb && decide (a.1 ≤ b.2) && decide (b.1 ≤ a.2)

/-- Two records of a band at a position of its gang, in one space, whose spans share a byte. -/
def Rec.overlaps (pos : Nat) (a b : Rec) : Bool :=
  spansMeet (Rec.space a) (Rec.span (Rec.own a pos)) (Rec.space b) (Rec.span (Rec.own b pos))

/-- Records identical in base, format, nd, extents, strides and flags (R226). -/
def Rec.identical (a b : Rec) : Bool :=
  a.base == b.base && a.hdr == b.hdr
    && (Rec.used a).map (fun d => (d.extent, d.stride)) == (Rec.used b).map (fun d => (d.extent, d.stride))

/-- The commands of a core on an engine that are not done (R215): those of its resident bands. -/
def State.engineLoad (s : State) (core : Nat) (p : Path) : Nat :=
  s.cmds.countP (fun e =>
    (match e.2.kind with
      | .item _ _ => false
      | _ => true) && e.2.path == p
      && (s.band? e.2.band).any (fun b => b.core == core && (b.state == .resident || b.state == .saving)))

/-- The room of an engine's queue (R215). -/
def Path.room (p : Path) : Nat := if p = .copy then 32 else 8

/-- What a command of a copy or chain engine is; `wit` is the space of its witness. -/
structure CmdSpec where
  path : Path
  ctr : Nat
  recs : List (Nat × Rec)
  kind : CmdKind
  todo : List Work
  wit : Option Nat := none

/-- Whether a command's path sets presence bits (R185). -/
def CmdKind.presence : CmdKind → Bool
  | .tcopy _ => true
  | .fill _ _ => true
  | .item _ _ => true
  | _ => false

/-- Whether a command is a channel's item. -/
def CmdKind.isItem : CmdKind → Bool
  | .item _ _ => true
  | _ => false

/-- The output elements, or the upstream entry, of a work. -/
def Work.outs : Work → List Nat
  | .out _ ks => ks
  | .entry k => [k]
  | _ => []

/-- Issue a command that has passed its checks (R185, R199, R204, R215, R306): it waits for room, for a pending PHASE where it or
its witness touches die scratchpad or far memory, and for the sixteenth copy over a line. -/
def State.queueCmd (s : State) (b i : Nat) (bd : Band) (w : Weft) (latch : List (Nat × Nat)) (c : CmdSpec) : Out :=
  let far := c.recs.any (fun r => Rec.space r.2 != 1) || c.wit.any (fun x => x != 1)
  if (w.phase.isSome && far) || (!c.kind.isItem && decide (Path.room c.path ≤ s.engineLoad bd.core c.path)) then .next s.stall else
  let dst : Rec := (c.recs.head?.map (fun r => r.2)).getD Rec.fresh
  let lines := if c.kind.presence && Rec.space dst != 0 then s.planLines b bd dst c.todo else []
  if lines.any (fun l => decide (15 ≤ s.copiesOn l.2)) then .next s.hold else
  let s' := s.finish b i bd w latch {}
  let s' := lines.foldl (fun s l => s.setCopies l.2 (s.copiesOn l.2 + 1)) s'
  let s' := if Rec.isFar dst then s'.modBand b (fun x => { x with wroteFar := true }) else s'
  let cmd : Cmd := {
    band := b, weft := i, stamp := s'.stamp, path := c.path, ctr := c.ctr, recs := c.recs, kind := c.kind, snap := w.snap
    started := false, todo := c.todo, flight := [], loads := [], got := [], wits := [], bits := 0, lines := lines
    made := [], carry := [], cut := false, whole := false }
  .next { s'.nextStamp with cmds := SMap.insert s'.cmds s'.stamp cmd }

/-- TCOPY (R221). -/
def execTcopy (ctr : Fin 64) (d a : Fin 16) (cls : Bool) (g : Guard) (s : State) : Out :=
  runOnce g Needs.none [] (fun s b i bd w _ chk =>
    let rd := bd.rec_ d.val
    let rs := bd.rec_ a.val
    chk (checkRecs 0x122 [(d.val, rd, true), (a.val, rs, false)] true true none) <| fun _ => s.queueCmd b i bd w []
      ⟨.copy, ctr.val, [(d.val, rd), (a.val, rs)], .tcopy cls, Rec.byAddress rd, none⟩) s

/-- FILL (R222). -/
def execFill (ctr : Fin 64) (d : Fin 16) (pat : Operand) (w64 : Bool) (g : Guard) (s : State) : Out :=
  let fd := feField w64 pat
  let needs := feNeeds [(2, fd)] []
  runOnce g needs [fd] (fun s b i bd w lanes chk =>
    let rd := bd.rec_ d.val
    chk (checkRecs 0x12A [(d.val, rd, true)] true false none) <| fun _ => s.queueCmd b i bd w needs.latch
      ⟨.copy, ctr.val, [(d.val, rd)], .fill (fd.value w (lanes.headD 0)) w64, Rec.byAddress rd, none⟩) s

/-- Operation j of a CHAIN list (R225). -/
def FChain.op (f : FChain) (j : Nat) : ChainOp :=
  let n := if j < 5 then f.l0.toNat / 2 ^ (12 * j) else f.l1.toNat / 2 ^ (12 * (j - 5))
  ⟨Fin.ofNat 64 (n / 64), Fin.ofNat 8 (n / 8), Fin.ofNat 8 n⟩

/-- The operations of a list, all eight. -/
def FChain.ops (f : FChain) : List ChainOp := (List.range 8).map (FChain.op f)

/-- Whether the x of an operation names an input in use, a constant, r or t (R225). -/
def FChain.xOk (f : FChain) (x : Nat) : Bool :=
  match x with
  | 1 => f.in1.isSome
  | 2 => f.in2.isSome
  | 7 => false
  | _ => true

/-- Whether one operation is allowed (R225). -/
def FChain.opOk (f : FChain) (o : ChainOp) : Bool :=
  let plain := FChain.xOk f o.x.val && o.aux == 0
  match o.op.val with
  | 0 => o.x == 0 && o.aux == 0
  | 13 => FChain.xOk f o.x.val
  | 9 | 10 | 11 | 12 => o.x == 7 && o.aux == 0
  | 14 => o.x == 7
  | n => if n ≤ 15 then plain else false

/-- Reason 8 of R216: the list breaks R225. -/
def FChain.badList (f : FChain) : Bool :=
  let ops := FChain.ops f
  let after := (ops.dropWhile (fun o => o.op != 0)).drop 1
  decide (2 ^ 60 ≤ f.l0.toNat) || decide (2 ^ 36 ≤ f.l1.toNat) || ops.any (fun o => !FChain.opOk f o)
    || after.any (fun o => o.op != 0 || o.x != 0 || o.aux != 0)

/-- The input records of a CHAIN by number. -/
def FChain.inputs (f : FChain) : List Nat := [f.in0.val] ++ f.in1.toList.map Fin.val ++ f.in2.toList.map Fin.val

/-- The numbers by which the operations of a CHAIN name its inputs in use. -/
def FChain.places (f : FChain) : List Nat := [0] ++ f.in1.toList.map (fun _ => 1) ++ f.in2.toList.map (fun _ => 2)

/-- CHAIN (R225, R226). -/
def execChain (f : FChain) (s : State) : Out :=
  let needs := feNeeds [] [f.ks.val]
  runOnceWords 3 false f.guard needs [] (fun s b i bd w _ chk =>
    let ro := bd.rec_ f.out.val
    let ins := (FChain.inputs f).map (fun n => (n, bd.rec_ n))
    let clash := (ins.find? (fun r => Rec.overlaps bd.gangPos ro r.2 && !Rec.identical ro r.2)).map (fun _ => f.out.val)
    let bad := (checkRecs 0x129 ((f.out.val, ro, true) :: ins.map (fun r => (r.1, r.2, false))) true false clash).or
      (if FChain.badList f then some (engineCause 8 0x129 none) else none)
    chk bad <| fun _ =>
      let k := w.sget f.ks.val
      match s.queueCmd b i bd w needs.latch
        ⟨.chain, f.ctr.val, (f.out.val, ro) :: ins, .chain f (k.setWidth 32) ((k >>> 32).setWidth 32),
          Rec.byWalk ro, none⟩ with
      | .next s' => if s'.stalled then .next s' else
          .next (s'.modWeft b i (fun v => v.advance w.bundle 16))
      | o => o) s

/-- One word of FP32 arithmetic in the chain engine: t, r and the exceptions so far. -/
structure ChainReg where
  t : Nat
  r : Nat
  exc : Exc

/-- Apply one operation (R225): abs and neg deliver the canonical NaN without a flag, as FABS and FNEG do (R80, R127). -/
def ChainReg.apply (c : ChainReg) (ins : List Nat) (k0 k1 : W32) (o : ChainOp) : ChainReg :=
  let x := match o.x.val with
    | 0 => ins.getD 0 0
    | 1 => ins.getD 1 0
    | 2 => ins.getD 2 0
    | 3 => k0.toNat
    | 4 => k1.toNat
    | 5 => c.r
    | _ => c.t
  let res := fun (y : Res) => { c with t := y.bits, exc := c.exc ||| y.exc }
  match o.op.val with
  | 1 => { c with t := x }
  | 2 => res (FInfo.f32.fadd .rne c.t x)
  | 3 => res (FInfo.f32.fsub .rne c.t x)
  | 4 => res (FInfo.f32.fsub .rne x c.t)
  | 5 => res (FInfo.f32.fmul .rne c.t x)
  | 6 => res (FInfo.f32.fma .rne c.t x c.r)
  | 7 => res (fminmax false c.t x)
  | 8 => res (fminmax true c.t x)
  | 9 => { c with t := if (FInfo.f32.unpack c.t).isNan then FInfo.f32.nan else c.t % 2 ^ 31 }
  | 10 => { c with t := if (FInfo.f32.unpack c.t).isNan then FInfo.f32.nan else c.t ^^^ 2 ^ 31 }
  | 11 => { c with r := c.t }
  | 12 => { c with t := c.r, r := c.t }
  | 13 =>
    let y := fcmp o.aux.val c.t x
    { c with t := if y.1 then 0x3F800000 else 0, exc := c.exc ||| y.2 }
  | 14 =>
    let fn : SFn := match o.aux.val with
      | 0 => .rcp | 1 => .rsq | 2 => .sqrt | 3 => .exp2 | 4 => .log2 | 5 => .tanh | 6 => .sigm | _ => .erf
    res (fn.eval .rne c.t)
  | 15 => { c with t := if c.t % 2 ^ 31 ≠ 0 then x else c.r }
  | _ => c

/-- An element as FP32 (R226): exact, but for 32-bit integers. -/
def elemF32 (f : Fmt) (n : Nat) : Res := if f = .f32 then ⟨n, 0⟩ else convert .f32 f .rne 0 false n

/-- An element from FP32 under RNE (R226): a conversion under R88 to FP32 as to any format. -/
def f32Elem (f : Fmt) (sat : Bool) (n : Nat) : Res := convert f .f32 .rne 0 sat n

/-- One element of a CHAIN (R226), of its inputs in use. -/
def chainElem (f : FChain) (k0 k1 : W32) (ins : List Res) (out : Fmt) : Res :=
  let c : ChainReg := ⟨0, 0, Exc.all (ins.map (fun x => x.exc))⟩
  let ops := (FChain.ops f).takeWhile (fun o => o.op != 0)
  let at_ := (FChain.places f).zip (ins.map (fun x => x.bits))
  let xs := (List.range 3).map (fun x => ((at_.find? (fun e => e.1 == x)).map (fun e => e.2)).getD 0)
  let c := ops.foldl (fun c o => c.apply xs k0 k1 o) c
  let y := f32Elem out f.sat c.t
  ⟨y.bits, c.exc ||| y.exc⟩

/-- The agent of a command. -/
def Cmd.agent (c : Cmd) (bd : Band) : Agent := ⟨c.band, c.weft, c.path, c.snap, bd.gang, c.stamp⟩

/-- The written record of a command. -/
def Cmd.dst (c : Cmd) : Rec := (c.recs.head?.map (fun r => r.2)).getD Rec.fresh

/-- The first record that a command reads. -/
def Cmd.src (c : Cmd) : Rec := ((c.recs.drop 1).head?.map (fun r => r.2)).getD Rec.fresh

/-- The elements that a command delivers. -/
def Cmd.len (c : Cmd) : Nat := Rec.len c.dst

/-- The bits of a pattern under element k of m bits, counted from the first byte of the walk, in which `at_` elements come before the
walk's first (R222). -/
def patternBits (pat : W64) (w64 : Bool) (m at_ k : Nat) : Nat :=
  let p := if w64 then 64 else 32
  (List.range m).foldl (fun a j => a + (if pat.getLsbD (((at_ + k) * m + j) % p) then 2 ^ j else 0)) 0

/-- A channel that is free. -/
def Channel.free : Channel := ⟨0, [], 0⟩

/-- A channel. -/
def State.chan (s : State) (n : Nat) : Channel := SMap.get s.chans Channel.free n

/-- Change a channel. -/
def State.modChan (s : State) (n : Nat) (f : Channel → Channel) : State :=
  { s with chans := SMap.set s.chans Channel.free n (f (s.chan n)) }

/-- The ports of a channel (R332): its home port where it is pinned, else its mask. -/
def Channel.portMask (c : Channel) : Nat := if fld c.d0 48 48 = 1 then 2 ^ fld c.d0 47 44 else fld c.d0 31 16

/-- Where a far address leads by its segment entry: 0 HBM, 1 the host, 2 a peer (R311). -/
def State.farKind (s : State) (part : Nat) (a : W64) : Nat :=
  match s.segLook part a with
  | .entry _ e => e.kind
  | _ => 0

/-- The segment labels of a walk in far memory. -/
def Rec.segments (r : Rec) : List (BitVec 64) :=
  let x := Rec.span r
  if 0 ≤ x.1 ∧ x.1 / 2 ^ 48 = x.2 / 2 ^ 48 then [r.base]
  else ((List.range (Rec.len r)).map (fun k => (Rec.addr r k).1 >>> 48 <<< 48)).eraseDups

/-- Whether a copy is routed on a single path, so that its sectors land in ascending order (R205, R333). -/
def State.onePath (s : State) (c : Cmd) (bd : Band) : Bool :=
  match c.kind with
  | .item ch _ => fld (s.chan ch).d0 48 48 == 1 && Config.znPeer (fld (s.chan ch).d0 41 32)
  | .tcopy _ | .fill _ _ => c.recs.all (fun r => Rec.space r.2 != 0 || (Rec.segments r.2).all (fun a => s.farKind bd.part a == 0))
  | _ => true

/-- Whether a fill covers whole DRAM rows, which the base die carries out in service class 3 (R222; log 56). -/
def Rec.wholeRows (r : Rec) : Bool :=
  let x := Rec.span r
  Rec.space r == 0 && x.2 - x.1 + 1 == (Rec.bytes r : Int) && x.1 % 8192 == 0 && Rec.bytes r % 8192 == 0

/-- The service class of a command's requests (R221, R371). -/
def Cmd.cls (c : Cmd) : Nat :=
  match c.kind with
  | .tcopy true => 1
  | .fill _ _ => if Rec.wholeRows c.dst then 3 else 2
  | _ => 2

/-- The requester that a command's requests count under (R375): the copy or the chain engine of its core, or the adapter of its
channel's home port (R332). -/
def State.requesterOf (s : State) (c : Cmd) (bd : Band) : Nat :=
  match c.kind with
  | .item ch _ => 320 + fld (s.chan ch).d0 47 44
  | _ => if c.path = .chain then 160 + bd.core else bd.core

/-- A far request of a command. -/
def State.cmdReq (s : State) (id : Nat) (c : Cmd) (bd : Band) (op : FarOp) (a n : Nat) : FarReq :=
  { FarReq.make (.engine id) op bd (BitVec.ofNat 64 a) n .segment with
    cls := c.cls, snap := c.snap, by_ := s.requesterOf c bd
    via := match c.kind with
      | .item ch _ => some (s.chan ch).portMask
      | _ => none }

/-- Ask far memory for the sectors that a command lacks. -/
def State.askFar (s : State) (id : Nat) (c : Cmd) (bd : Band) (ask : List (Nat × Bool)) : State × List (Nat × Nat) :=
  ask.foldl (fun (x : State × List (Nat × Nat)) a =>
    (x.1.sendReq { s.cmdReq id c bd .load a.1 32 with fresh := a.2 }, x.2 ++ [(x.1.stamp, secKey 0 a.1)])) (s, c.loads)

/-- A far write of bytes of one sector, given as (offset, value, bits). -/
def State.storeReq (s : State) (id : Nat) (c : Cmd) (bd : Band) (a : Nat) (cells : List (Nat × Nat × Nat)) : FarReq :=
  let lo := (cells.head?.map (fun x => x.1)).getD 0
  let hi := (cells.getLast?.map (fun x => x.1)).getD 0
  let at_ := fun i => (cells.find? (fun x => x.1 == lo + i)).map (fun x => x.2)
  let n := hi - lo + 1
  let mask := (List.range n).map (fun i => (BitVec.ofNat 8 (((at_ i).map (fun x => x.2)).getD 0) : Byte))
  { s.cmdReq id c bd .store (a + lo) n with
    data := (List.range n).map (fun i => BitVec.ofNat 8 (((at_ i).map (fun x => x.1)).getD 0))
    mask := if mask.all (fun m => m == 255) then [] else mask }

/-- Add exceptions to the flags of a command's weft (R95). -/
def State.raiseAt (s : State) (b i : Nat) (x : Exc) : State := s.modWeft b i (fun w => w.raiseFlags x)

/-- Bits of a command have landed: whole bytes are counted (R218). -/
def State.countBits (s : State) (id n : Nat) : State :=
  match SMap.find? s.cmds id with
  | none => s
  | some c =>
    { s.addCount c.band c.ctr ((c.bits + n) / 8 - c.bits / 8) with cmds := SMap.insert s.cmds id { c with bits := c.bits + n } }

/-- Bytes of a near sector land (R198, R205): published at one instant, and counted. -/
def State.landSector (s : State) (id : Nat) (c : Cmd) (bd : Band) (space a : Nat) (cells : List (Nat × Nat × Nat)) (bits : Nat) : State :=
  let lo := (cells.head?.map (fun x => x.1)).getD 0
  match s.nearOf c.band bd ⟨space, BitVec.ofNat 64 (a + lo), 1, 0, false, false⟩ true with
  | .error _ => s
  | .ok (p, off) =>
    (s.instant.publishCells p (cells.map (fun x => (off + x.1 - lo, x.2))) (some (c.band, c.weft, c.path)) c.kind.presence).countBits id bits

/-- What a step made goes out: near sectors land; far ones are sent, and counted when they have landed. -/
def State.sendChunk (s : State) (id : Nat) (c : Cmd) (bd : Band) (space : Nat) (x : Chunk) : State :=
  x.sectors.foldl (fun (s : State) y =>
    if y.2.1.isEmpty then s.countBits id y.2.2 else
    if space = 0 then
      let n := s.stamp
      let s := s.sendReq (s.storeReq id c bd y.1 y.2.1)
      { s with cmds := SMap.modify s.cmds id (fun c => { c with flight := c.flight ++ [(n, y.2.2)] }) }
    else s.landSector id c bd space y.1 y.2.1 y.2.2) (s.raiseAt c.band c.weft x.exc)

/-- Set the presence bit of a line for one of its copies (R185). -/
def State.setLine (s : State) (id : Nat) (l : Line) : State :=
  let s := s.setCopies l (s.copiesOn l - 1)
  { s with cmds := SMap.modify s.cmds id (fun c => { c with lines := c.lines.filter (fun x => x.2 != l) }) }

/-- Set every line that a command has cleared (R185). -/
def State.setAllLines (s : State) (id : Nat) : State :=
  match SMap.find? s.cmds id with
  | none => s
  | some c => c.lines.foldl (fun s l => s.setLine id l.2) s

/-- The index counters of a band's record become those of an element (R217). -/
def State.writeIndex (s : State) (b n : Nat) (r : Rec) (k : Nat) : State :=
  let want := (Rec.atElem r k).dims
  s.modBand b (fun x =>
    let now := x.rec_ n
    let dims := now.dims.mapIdx (fun d y => if d < Rec.nd r then { y with index := (want.getD d Dim.zero).index } else y)
    { x with it := SMap.set x.it Rec.fresh n { now with dims := dims } })

/-- The first output element, or for ADJB upstream entry, that a command has not delivered (R217). -/
def Cmd.undone (c : Cmd) : Nat :=
  let all := match c.kind with
    | .adjb _ _ _ _ hdr => if hdr.isNone then 0 else Rec.len c.src
    | _ => c.len
  (c.todo.flatMap Work.outs).foldl min all

/-- The element of a record that stands at a place of its command (R217): WRED and ADJB count entries of their shorter
record. -/
def Cmd.elemOf (c : Cmd) (r : Rec) (k : Nat) : Nat :=
  match c.kind with
  | .wred .. | .adjb .. =>
    let n := c.recs.foldl (fun a x => min a (Rec.len x.2)) (Rec.len r)
    if Rec.len r = n then k else k * (Rec.len r / max n 1)
  | _ => k

/-- Forget requests: none of them has been performed, or its answer will find nobody. -/
def State.dropReqs (s : State) (ids : List Nat) : State :=
  if ids.isEmpty then s else
  { s with
    reqs := s.reqs.filter (fun e => !ids.contains e.1)
    ports := s.ports.map (fun e =>
      let q := e.2.egress.filter (fun x => !ids.contains x)
      (e.1, { e.2 with egress := q, filledAt := if q.isEmpty then none else e.2.filledAt })) }

/-- A command is no more: its lines are present, its requests are forgotten. -/
def State.dropCmd (s : State) (id : Nat) : State :=
  let s := s.setAllLines id
  let mine := s.reqs.filter (fun e => e.2.who == .engine id)
  { s.dropReqs (mine.map (fun e => e.1)) with cmds := SMap.erase s.cmds id }

/-- A command ends in error (R217): its lines are present again, its counter and fault record take the cause, and its records
the index of the first element not delivered. -/
def State.failCmd (s : State) (id : Nat) (c : Cmd) (cause : Cause) : State :=
  let s := s.failCount c.band c.ctr cause
  (c.recs.foldl (fun s r => s.writeIndex c.band r.1 r.2 (c.elemOf r.2 c.undone)) s).dropCmd id

/-- A command completes (R217): the index counters of its records become zero, but for a record written since. -/
def State.doneCmd (s : State) (id : Nat) (c : Cmd) : State :=
  let s := c.recs.foldl (fun s r =>
    s.modBand c.band (fun x =>
      let now := x.rec_ r.1
      if now.ver = r.2.ver then { x with it := SMap.set x.it Rec.fresh r.1 (Rec.clearIndex now) } else x)) s
  { s with cmds := SMap.erase s.cmds id }

/-- The witness of a command: its space, its address and the bytes that it may hold. -/
def Cmd.witness (c : Cmd) : Option (Nat × W64 × Nat) :=
  let n := Rec.len c.dst
  match c.kind with
  | .wred _ _ _ (some (sp, a, _)) => some (sp, a, 16 + 2 * n)
  | .adjb _ sp a _ _ => some (sp, a, 16 + 32 * Rec.len c.src)
  | _ => none

/-- The storage of a command's witness. -/
def State.witFoot (s : State) (c : Cmd) (bd : Band) : Foot :=
  (c.witness.map (fun x => s.rowFoot c.band bd x.1 x.2.1.toNat x.2.2)).getD []

/-- What a command reads. -/
def State.readFoot (s : State) (c : Cmd) (bd : Band) : Foot :=
  let recs := match c.kind with
    | .adjb true _ _ _ _ => c.recs
    | _ => c.recs.drop 1
  recs.flatMap (fun r => s.recFoot c.band bd r.2) ++ (match c.kind with
    | .adjb _ _ _ _ _ => s.witFoot c bd
    | _ => [])

/-- What a command writes. -/
def State.writeFoot (s : State) (c : Cmd) (bd : Band) : Foot :=
  s.recFoot c.band bd c.dst ++ (match c.kind with
    | .wred _ _ _ _ => s.witFoot c bd
    | _ => [])

/-- Whether a later command must wait for an earlier one of the same path (R202): one writes what the other reads or writes. -/
def State.clashes (s : State) (bd : Band) (a b : Cmd) : Bool :=
  let w := s.writeFoot b bd
  footMeet (s.writeFoot a bd) (s.readFoot b bd ++ w) || footMeet (s.readFoot a bd) w

/-- Whether an operation writes far memory. -/
def FarOp.writes : FarOp → Bool
  | .store => true
  | .atom _ _ _ => true
  | _ => false

/-- Whether a far request of a lane has taken effect: it has been performed, or has failed. -/
def FarReq.taken (r : FarReq) : Bool :=
  match r.stage with
  | .performed _ => true
  | .failed _ => true
  | _ => false

/-- Whether a lane's far request and a command reach the same bytes, and one of them writes there (R202). -/
def State.reqClashes (s : State) (bd : Band) (r : FarReq) (c : Cmd) : Bool :=
  let x := s.rowFoot c.band bd 0 r.addr.toNat r.len
  footMeet x (s.writeFoot c bd) || (r.op.writes && footMeet x (s.readFoot c bd))

/-- Whether an earlier command or far request of the weft on the same path overlaps a command (R202, R256). -/
def State.heldBehind (s : State) (c : Cmd) : Bool :=
  (s.band? c.band).any (fun bd =>
    s.cmds.any (fun e => e.2.band == c.band && e.2.weft == c.weft && e.2.path == c.path && decide (e.2.stamp < c.stamp)
      && s.clashes bd e.2 c)
    || (c.path == .copy && s.reqs.any (fun e => (match e.2.who with
      | .lane b i _ => b == c.band && i == c.weft
      | _ => false) && !e.2.taken && decide (e.2.stamp < c.stamp) && s.reqClashes bd e.2 c)))

/-- Whether a copy's records share bytes: it reads all of its source before it writes (R221). -/
def State.selfMeets (s : State) (c : Cmd) : Bool :=
  match c.kind with
  | .tcopy _ | .item _ _ => (s.band? c.band).any (fun bd => footMeet (s.recFoot c.band bd c.dst) (s.recFoot c.band bd c.src))
  | _ => false

/-- Whether a FENCE.X holds later accesses of a weft on a path (R203, R204): the weft's own, or one that a signal has told it of
before it issued the access. -/
def State.fenceHolds (s : State) (b i : Nat) (p : Path) (stamp : Nat) : Bool :=
  (s.weft? b i).any (fun w => w.fences.any (fun f => (f.p == p || f.q == p) && decide (f.before ≤ stamp))
    || w.fenced.any (fun f => f.fence.isSome && decide (f.heard ≤ stamp) && f.q == p))

/-- Whether a copy waits for an access that its weft issued before it on a path (R202, R204): a later copy that overlaps it, or
that a fence holds until it has been made. A line that such a copy has cleared is not waited for (log 38). -/
def State.waitsFor (s : State) (b i stamp : Nat) (p : Path) (same : Cmd → Bool) (o : Cmd) : Bool :=
  o.band == b && o.weft == i && decide (stamp < o.stamp) && ((o.path == p && same o)
    || (s.weft? b i).any (fun w => w.fences.any (fun f => (f.p == p || f.q == p) && (f.p == o.path || f.q == o.path)
      && decide (stamp < f.before) && decide (f.before ≤ o.stamp))))

/-- The copies whose lines a command does not wait for: itself, and those that wait for it. -/
def State.skips (s : State) (id : Nat) (c : Cmd) (bd : Band) (x : Nat) (o : Cmd) : Bool :=
  x == id || s.waitsFor c.band c.weft c.stamp c.path (s.clashes bd c) o

/-- Whether a band's engines may move (R215): not while it is saved, nor while a save of it has begun. The commands of a
failed launch complete (R292), those of a saved band too. -/
def Band.enginesRun (bd : Band) : Bool :=
  bd.state == .resident || (bd.state == .saved && bd.wefts.all (fun w => w.retired))

/-- PRESENCE_BIT_SET (R185): the last byte of a copy for a line has landed. `place` is twice a band's number, or one more
than twice (context × 4 + die). -/
def execPresenceBitSet (cmd place line : Nat) (s : State) : Out :=
  let p := if place % 2 = 0 then Place.band (place / 2) else Place.die (place / 8) (place / 2 % 4)
  match SMap.find? s.cmds cmd with
  | none => .refused (.notPending "PRESENCE_BIT_SET")
  | some c =>
    if c.lines.contains (0, ⟨p, line⟩) then .next (s.setLine cmd ⟨p, line⟩)
    else .refused (.notPending "PRESENCE_BIT_SET")

end Sys2Proof.Machine
end

