-- ==== Sys2Proof/Machine/Witness.lean ====
section
/-! DEFINITION. Witness reductions and adjoint broadcast: WRED (R245 to R252) and ADJB (R253 to R255), at issue and element by
element, and the witness they share (R249, R251). -/
namespace Sys2Proof.Machine

/-- Where an element stands in the order of R248, a NaN apart: -0 below +0, infinities at the ends. -/
def orderKey (f : Fmt) (n : Nat) : Int :=
  match f with
  | .s32 | .u32 | .s8 | .s4 => f.toInt n
  | f =>
    let m := n % 2 ^ (f.used - 1)
    if n / 2 ^ (f.used - 1) % 2 = 1 then -(m : Int) - 1 else m

/-- Whether an element is a NaN. -/
def elemNan (f : Fmt) (n : Nat) : Bool := (f.value n).isNan

/-- The canonical NaN of a format (R80). -/
def elemCanon (f : Fmt) : Nat := f.finfo.nan

/-- The flag of a signalling NaN among inputs (R247). -/
def sigExc (f : Fmt) (cs : List Nat) : Exc := Exc.on (cs.any (fun n => (f.value n).isSig)) Exc.iv

/-- The index of the best contributor: `better a b` says that b beats a when it comes later. -/
def bestIndex (cs : List Nat) (better : Nat → Nat → Bool) : Nat :=
  (cs.zipIdx.foldl (fun (a : Option (Nat × Nat)) x =>
    match a with
    | none => some x
    | some y => if better y.1 x.1 then some x else some y) none |>.map (fun x => x.2)).getD 0

/-- The result of one output entry: its bits, the witness entry (none where no contributor decided), and the exceptions. -/
structure WredOut where
  bits : Nat
  wit : Option Nat
  exc : Exc

/-- max and min (R247, R248). -/
def wredMax (f : Fmt) (min_ last : Bool) (cs : List Nat) : WredOut :=
  let nans := (cs.zipIdx.filter (fun x => elemNan f x.1)).map (fun x => x.2)
  if !nans.isEmpty then ⟨elemCanon f, some (if last then nans.getLastD 0 else nans.headD 0), sigExc f cs⟩ else
  let better := fun a b =>
    let ka := orderKey f a
    let kb := orderKey f b
    (if min_ then decide (kb < ka) else decide (ka < kb)) || (last && ka == kb)
  let j := bestIndex cs better
  ⟨cs.getD j 0, some j, 0⟩

/-- Insert into a list in rank order (R248): every NaN above the rest. -/
def rankInsert (before : Nat × Nat → Nat × Nat → Bool) (x : Nat × Nat) : List (Nat × Nat) → List (Nat × Nat)
  | [] => [x]
  | y :: ys => if before x y then x :: y :: ys else y :: rankInsert before x ys

/-- median (R247, R248). -/
def wredMedian (f : Fmt) (last : Bool) (cs : List Nat) : WredOut :=
  let key := fun (x : Nat × Nat) => (if elemNan f x.1 then 1 else 0, if elemNan f x.1 then 0 else orderKey f x.1)
  let before := fun (x y : Nat × Nat) =>
    let a := key x
    let b := key y
    decide (a.1 < b.1) || (a.1 == b.1 && (decide (a.2 < b.2)
      || (a.2 == b.2 && (if last then decide (y.2 < x.2) else decide (x.2 < y.2)))))
  let sorted := cs.zipIdx.foldl (fun a x => rankInsert before x a) []
  let x := sorted.getD ((cs.length - 1) / 2) (0, 0)
  ⟨if elemNan f x.1 then elemCanon f else x.1, some x.2, sigExc f cs⟩

/-- A clamp bound as a value: FP32 for float formats, INT32 for integer formats (R246). -/
def boundVal (f : Fmt) (b : W32) : Val :=
  match f with
  | .s32 | .s8 | .s4 | .u32 => .fin (Ex.ofInt b.toInt)
  | _ => FInfo.f32.unpack b.toNat

/-- A clamp bound as an element of the format (R247): an infinity that the format holds is no bound that it cannot hold. -/
def boundElem (f : Fmt) (b : W32) : Res :=
  match f with
  | .s32 | .s8 | .s4 | .u32 =>
    let c := clampInt f.range.1 f.range.2 b.toInt
    ⟨f.ofInt c.1, c.2⟩
  | .f32 => ⟨b.toNat, 0⟩
  | f => convert f .f32 .rne 0 (!((FInfo.f32.unpack b.toNat).isInf && f.finfo.top == .ieee)) b.toNat

/-- clamp (R247): the witness is the arm taken. -/
def wredClamp (f : Fmt) (lo hi : W32) (x : Nat) : WredOut :=
  if elemNan f x then ⟨elemCanon f, some 3, sigExc f [x]⟩
  else if (f.value x).lt (boundVal f lo) then ⟨(boundElem f lo).bits, some 1, (boundElem f lo).exc⟩
  else if (boundVal f hi).lt (f.value x) then ⟨(boundElem f hi).bits, some 2, (boundElem f hi).exc⟩
  else ⟨x, some 0, 0⟩

/-- One step of the saturating sum over floats: the sum's bits, the last clamp step, the exceptions. -/
def ssumStep (f : Fmt) (a : Nat × Option Nat × Exc) (x : Nat × Nat) : Nat × Option Nat × Exc :=
  let s := Val.add .rne (FInfo.f32.unpack a.1) (f.value x.1)
  let r := FInfo.f32.deliver .rne 0 true (s.2 || (f.value x.1).isSig) s.1
  (r.bits, if r.exc &&& Exc.sat ≠ 0 then some x.2 else a.2.1, a.2.2 ||| r.exc)

/-- saturating sum (R247, R248). -/
def wredSum (f : Fmt) (cs : List Nat) : WredOut :=
  match f with
  | .s32 | .s8 | .s4 | .u32 =>
    let r := cs.zipIdx.foldl (fun (a : Int × Option Nat × Exc) x =>
      let c := clampInt (-2 ^ 31) (2 ^ 31 - 1) (a.1 + f.toInt x.1)
      (c.1, if c.2 ≠ 0 then some x.2 else a.2.1, a.2.2 ||| c.2)) (0, none, 0)
    ⟨Fmt.s32.ofInt r.1, r.2.1, r.2.2⟩
  | f =>
    let r := cs.zipIdx.foldl (ssumStep f) (0, none, 0)
    if elemNan .f32 r.1 then ⟨elemCanon .f32, none, r.2.2⟩ else ⟨r.1, r.2.1, r.2.2⟩

/-- One output entry of WRED (R247). -/
def wredEntry (op : Nat) (last : Bool) (bound : W64) (f : Fmt) (cs : List Nat) : WredOut :=
  match op with
  | 0 => wredMax f false last cs
  | 1 => wredMax f true last cs
  | 2 => wredClamp f (bound.setWidth 32) ((bound >>> 32).setWidth 32) (cs.headD 0)
  | 3 => wredMedian f last cs
  | _ => wredSum f cs

/-- The entry width code of a witness (R245, R249); 3 for an operator without one. -/
def witEw (op g : Nat) : Nat :=
  match op with
  | 2 => 0
  | 3 => 1
  | 0 | 1 | 4 => if g ≤ 255 then 1 else 2
  | 5 | 6 => 2
  | _ => 3

/-- The bits of an entry. -/
def ewBits (ew : Nat) : Nat := if ew = 0 then 2 else 8 * ew

/-- The value of an entry that says none (R245). -/
def ewNone (ew : Nat) : Nat := 2 ^ ewBits ew - 1

/-- The largest group an operator takes (R245). -/
def groupLimit (op : Nat) : Nat := if op = 2 then 1 else if op = 3 then 255 else 65535

/-- Whether an operator takes an input format (R245). -/
def wredFmtOk (op : Nat) (f : Fmt) : Bool :=
  f != .e8m0 && !(f == .u32 && (op == 2 || op == 4))

/-- The output format of an operator (R245). -/
def wredOutFmt (op : Nat) (f : Fmt) : Fmt :=
  if op = 4 then (match f with
    | .s32 | .s8 | .s4 => .s32
    | _ => .f32) else f

/-- The first double of a witness header in the dense layout (R249). -/
def witHead (n g : Nat) (last : Bool) (ew op : Nat) : W64 :=
  BitVec.ofNat 64 (n % 2 ^ 32 * 2 ^ 32 + g * 2 ^ 16 + (if last then 128 else 0) + ew * 16 + op)

/-- The marker that stands until a witness is complete (R251). -/
def witMarker : W64 := 15

/-- The body bytes of a dense witness (R249). -/
def witBody (n ew : Nat) : Nat := (n * ewBits ew + 7) / 8

/-- Take a witness serial for a weft (R250). -/
def State.takeSerial (s : State) (b i : Nat) (bd : Band) : W64 × State :=
  let n := ((s.ctx? bd.ctx).map (fun c => c.serial)).getD 0
  let s := s.modCtx bd.ctx (fun c => { c with serial := n + 1 })
  (n, s.modWeft b i (fun w => { w with wlast := n }))

/-- Spans of bytes from an address (R252): whether a record's span meets them, for a band at a position of its gang. -/
def Rec.meets (pos : Nat) (r : Rec) (space : Nat) (a : W64) (n : Nat) : Bool :=
  let x := ((ownAddr pos space a).toNat : Int)
  spansMeet (Rec.space r) (Rec.span (Rec.own r pos)) space (x, x + n - 1)

/-- The checks of R252 on a WRED. -/
def wredCheck (pos : Nat) (f : FWred) (ro ri : Rec) (bound : W64) (wit : Option (Nat × W64)) : Option Cause :=
  let op := f.op.val
  let n := Rec.len ro
  let g := Rec.len ri / n
  let fi := Rec.fmt ri
  let c := fun reason => engineCause reason 0x131
  let meets := Rec.overlaps pos ro ri || (wit.map (fun x => Rec.meets pos ri x.1 x.2 (16 + witBody n (witEw op g)))).getD false
  let first := checkRecs 0x131 [(f.out.val, ro, true), (f.inp.val, ri, false)] false false (if meets then some f.out.val else none)
  first.or <|
  if Rec.len ri ≠ n * g ∨ g = 0 ∨ groupLimit op < g then some (c 9 (some f.inp.val))
  else if !wredFmtOk op fi then some (c 10 (some f.inp.val))
  else if Rec.fmt ro ≠ wredOutFmt op fi then some (c 10 (some f.out.val))
  else if (wit.map (fun x => x.2.toNat % 16 != 0)).getD false then some (c 11 none)
  else
    let lo := boundVal fi (bound.setWidth 32)
    let hi := boundVal fi ((bound >>> 32).setWidth 32)
    if op = 2 ∧ (lo.isNan ∨ hi.isNan ∨ hi.lt lo) then some (c 12 none) else none

/-- The works of a WRED (R251): the marker, the outputs, the body sector by sector, and the header. -/
def wredPlan (op : Nat) (ro ri : Rec) (wit : Option (Nat × W64)) : List Work :=
  let outs := Rec.byWalk ro
  match wit with
  | none => outs
  | some (_, a) =>
    let n := witBody (Rec.len ro) (witEw op (Rec.len ri / max (Rec.len ro) 1))
    let at_ := a.toNat + 16
    let bodies := (sectorsOf at_ n).map (fun x => Work.body (max x at_ - at_) (min (x + 32) (at_ + n) - at_))
    .mark :: outs ++ (if n = 0 then [] else bodies) ++ [.head]

/-- WRED (R246, R247, R250). -/
def execWred (f : FWred) (s : State) : Out :=
  let sregs := (match f.wit with
    | some (k, _) => [2 * k.val]
    | none => []) ++ (if f.op = 2 then [f.bound.val] else [])
  let needs := feNeeds [] sregs
  runOnce f.guard needs [] (fun s b i bd w _ chk =>
    let ro := bd.rec_ f.out.val
    let ri := bd.rec_ f.inp.val
    let bound := w.sget f.bound.val
    let wit := f.wit.map (fun x => (x.2.val, w.sget (2 * x.1.val)))
    chk (wredCheck bd.gangPos f ro ri bound wit) <| fun _ =>
      let ser := ((s.ctx? bd.ctx).map (fun c => c.serial)).getD 0
      let out := s.queueCmd b i bd w needs.latch ⟨.chain, f.ctr.val, [(f.out.val, ro), (f.inp.val, ri)],
        .wred f.op.val f.last bound (wit.map (fun x => (x.1, x.2, ser))), wredPlan f.op.val ro ri wit, wit.map (fun x => x.1)⟩
      match out, f.wit with
      | .next s', some (k, sp) => if s'.stalled then out else
          let s' := (s'.takeSerial b i bd).2.modWeft b i (fun v => v.swrite (2 * k.val + 1) ser)
          .next (if sp.val = 0 then s'.modBand b (fun x => { x with wroteFar := true }) else s')
      | _, _ => out) s

/-- The group size of a WRED or ADJB by its records. -/
def Cmd.group (c : Cmd) : Nat :=
  match c.recs with
  | [a, b] => max (Rec.len a.2) (Rec.len b.2) / max (min (Rec.len a.2) (Rec.len b.2)) 1
  | _ => 1

/-- ADJB (R253). -/
def execAdjb (f : FAdjb) (s : State) : Out :=
  let k := 2 * f.wit.val
  let needs := feNeeds [] [k, k + 1]
  runOnce f.guard needs [] (fun s b i bd w _ chk =>
    let rg := bd.rec_ f.grad.val
    let ru := bd.rec_ f.up.val
    let a := w.sget k
    let ok := fun (x : Fmt) => x == .f32 || x == .f16 || x == .bf16
    let meets := Rec.overlaps bd.gangPos rg ru || Rec.meets bd.gangPos rg f.space.val a 16
    let c := fun reason => engineCause reason 0x132
    let bad := (checkRecs 0x132 [(f.grad.val, rg, true), (f.up.val, ru, false)] false false
        (if meets then some f.grad.val else none)).or
      (if Rec.len rg % Rec.len ru ≠ 0 then some (c 9 (some f.grad.val))
       else if !ok (Rec.fmt rg) || Rec.fmt rg != Rec.fmt ru then some (c 10 (some f.grad.val))
       else if a.toNat % 16 ≠ 0 then some (c 11 none) else none)
    chk bad <| fun _ => s.queueCmd b i bd w needs.latch
        ⟨.chain, f.ctr.val, [(f.grad.val, rg), (f.up.val, ru)], .adjb f.acc f.space.val a (w.sget (k + 1)) none, [.hdrRead], some f.space.val⟩) s

/-- A witness header's fields (R249). -/
structure WitHdr where
  n : Nat
  g : Nat
  rowed : Bool
  e0 : Nat
  ew : Nat
  op : Nat
  body : Nat

/-- Read a header. -/
def WitHdr.of (h : W64) : WitHdr :=
  let rowed := fld h 6 6 == 1
  let ew := fld h 5 4
  let e0 := fld h 63 48
  let rows := fld h 47 32
  ⟨if rowed then rows * e0 else fld h 63 32, fld h 31 16, rowed, e0, ew, fld h 3 0,
    if rowed then 32 * rows else witBody (fld h 63 32) ew⟩

/-- Group 13 (R254, R259). -/
def staleCause (reason : Nat) (h ser : W64) (entry : Nat) : Cause :=
  ⟨13, reason, BitVec.ofNat 96 (entry % 2 ^ 24 * 2 ^ 72 + fld h 5 4 * 2 ^ 68 + fld h 3 0 * 2 ^ 64 + ser.toNat), false⟩

/-- The checks of R254 on a header, and the overlap of R253. -/
def Cmd.headerCheck (c : Cmd) (pos space : Nat) (a expect h ser : W64) : Option Cause :=
  let x := WitHdr.of h
  if ser ≠ expect then some (staleCause 1 h ser 0)
  else if x.op = 15 then some (staleCause 2 h ser 0)
  else if 6 < x.op ∨ x.ew = 3 ∨ x.ew ≠ witEw x.op x.g then some (staleCause 3 h ser 0)
  else if Rec.len c.src ≠ x.n ∨ Rec.len c.dst ≠ x.n * x.g then some (staleCause 4 h ser 0)
  else if Rec.meets pos c.dst space (a + 16) x.body then
    some (engineCause 5 0x132 (c.recs.head?.map (fun r => r.1)))
  else none

/-- The place of entry k in a witness body, in bits from the header's end (R249). -/
def WitHdr.bit (x : WitHdr) (k : Nat) : Nat :=
  if x.rowed then 256 * (k / max x.e0 1) + k % max x.e0 1 * ewBits x.ew else k * ewBits x.ew

/-- What ADJB routes to contributor j (R255): none where the element keeps, or becomes zero. -/
def routed (x : WitHdr) (f : Fmt) (u w j : Nat) : Option Nat :=
  match x.op with
  | 2 => some (if w = 0 then u else if w = 3 then elemCanon f else 0)
  | 4 => some (if w = ewNone x.ew ∨ w < j then u else 0)
  | _ => if j = w then some u else none

/-- The bytes that hold entry k of a witness body (R249), read at home (R255). -/
def WitHdr.need (x : WitHdr) (space : Nat) (a : W64) (k : Nat) : Want :=
  let n := max 1 (ewBits x.ew / 8)
  ⟨space, a + 16 + BitVec.ofNat 64 (x.bit k / 8), n, Nat.log2 n, false, true⟩

/-- Entry k of a witness body that has been read. -/
def WitHdr.entry (x : WitHdr) (got : SMap (List Byte)) (space : Nat) (a : W64) (k : Nat) : Nat :=
  let y := x.need space a k
  leNat (gotBytes got y.space y.addr.toNat y.n) / 2 ^ (x.bit k % 8) % 2 ^ ewBits x.ew

/-- What each contributor of upstream entry k receives (R255). -/
def Cmd.routes (c : Cmd) (space : Nat) (a h : W64) (got : SMap (List Byte)) (k : Nat) : List (Nat × Option Nat) :=
  let x := WitHdr.of h
  let w := x.entry got space a k
  let u := Rec.elem c.src got k
  (List.range x.g).map (fun j => (k * x.g + j, routed x (Rec.fmt c.dst) u w j))

/-- The bytes that a command reads for output element, or for ADJB upstream entry, k. ADJB reads the witness entry first, at home,
also where other bytes of its sector are asked for (R255), and the gradients that it adds to once it has the entry. -/
def Cmd.needs (c : Cmd) (got : SMap (List Byte)) (k : Nat) : List Want :=
  match c.kind with
  | .fill _ _ => []
  | .wred _ _ _ _ => (List.range c.group).map (fun j => Rec.need c.src (k * c.group + j))
  | .adjb acc space a _ (some (h, _)) =>
    let e := (WitHdr.of h).need space a k
    let here := (sectorsOf e.addr.toNat e.n).all (fun x => (SMap.find? got (secKey space x)).isSome)
    [e, Rec.need c.src k] ++ (if acc && here then
      (c.routes space a h got k).filterMap (fun r => r.2.map (fun _ => Rec.need c.dst r.1)) else [])
  | .adjb _ _ _ _ none => []
  | _ => (c.recs.drop 1).map (fun r => Rec.need r.2 k)

/-- The elements that a command writes for k. -/
def Cmd.writes (c : Cmd) (got : SMap (List Byte)) (k : Nat) : List Nat :=
  match c.kind with
  | .adjb acc space a _ (some (h, _)) =>
    if acc then (c.routes space a h got k).filterMap (fun r => r.2.map (fun _ => r.1))
    else (List.range (WitHdr.of h).g).map (fun j => k * (WitHdr.of h).g + j)
  | _ => [k]

/-- Output element, or upstream entry, k of a command is made from what has been read (R221, R222, R226, R247, R255), or its
witness entry is wrong (R254). -/
def Cmd.make (c : Cmd) (k : Nat) (x : Chunk) : Except Cause Chunk :=
  match c.kind with
  | .fill pat w64 => .ok (Rec.put c.dst k (patternBits pat w64 (Fmt.memBits (Rec.fmt c.dst)) (Rec.addr c.dst 0).2 k) x)
  | .chain f k0 k1 =>
    let ins := (c.recs.drop 1).map (fun r => elemF32 (Rec.fmt r.2) (Rec.elem r.2 x.got k))
    let o := chainElem f k0 k1 ins (Rec.fmt c.dst)
    .ok (Rec.put c.dst k o.bits { x with exc := x.exc ||| o.exc })
  | .wred op last bound _ =>
    let f := Rec.fmt c.src
    let o := wredEntry op last bound f ((List.range c.group).map (fun j => Rec.elem c.src x.got (k * c.group + j)))
    .ok (Rec.put c.dst k o.bits { x with
      exc := x.exc ||| o.exc, wits := x.wits ++ [(k, o.wit.getD (ewNone (witEw op c.group)))] })
  | .adjb acc space a _ (some (h, ser)) =>
    let y := WitHdr.of h
    let w := y.entry x.got space a k
    let none_ := y.op != 2 && w == ewNone y.ew
    if (y.op != 2 && !none_ && decide (y.g ≤ w)) || (none_ && y.op != 4) then .error (staleCause 5 h ser k) else
    let f := Rec.fmt c.dst
    .ok ((c.routes space a h x.got k).foldl (fun (x : Chunk) r =>
      match acc, r.2 with
      | true, none => x.count (Rec.need c.dst r.1).addr.toNat (Fmt.memBits f)
      | true, some v =>
        let z := f.finfo.fadd .rne (Rec.elem c.dst x.got r.1) v
        Rec.put c.dst r.1 z.bits { x with exc := x.exc ||| z.exc }
      | false, v => Rec.put c.dst r.1 (v.getD 0) x) x)
  | .adjb _ _ _ _ none => .ok x
  | _ => .ok { Rec.put c.dst k (Rec.elem c.src x.got k) x with got := x.got }

/-- Byte j of a witness body (R249): the unused bits of the last byte are zero. -/
def witByte (wits : List (Nat × Nat)) (ew j : Nat) : Nat :=
  if ew = 0 then (List.range 4).foldl (fun a i => a + SMap.get wits 0 (4 * j + i) * 4 ^ i) 0
  else SMap.get wits 0 (j / ew) / 256 ^ (j % ew) % 256

/-- The witness bytes that a work writes (R251): where in the witness, the bytes, and whether they count. -/
def Cmd.witBytes (c : Cmd) (w : Work) : Nat × List Nat × Bool :=
  match c.kind with
  | .wred op last _ (some (_, _, ser)) =>
    let ew := witEw op c.group
    let two := fun (h : W64) => (leBytes 8 h.toNat ++ leBytes 8 ser.toNat).map BitVec.toNat
    (match w with
      | .mark => (0, two witMarker, false)
      | .body lo hi => (16 + lo, (List.range (hi - lo)).map (fun j => witByte c.wits ew (lo + j)), true)
      | _ => (0, two (witHead c.len c.group last ew op), true))
  | _ => (0, [], false)

/-- The sectors that a command keeps after a work (R211): all where it reads bytes again, else those of its last elements. -/
def Cmd.keepGot (c : Cmd) (ks : List Nat) (got : SMap (List Byte)) : SMap (List Byte) :=
  match c.kind with
  | .adjb _ _ _ _ _ => []
  | _ =>
    if c.whole || (c.recs.drop 1).any (fun r => Rec.broadcasts r.2) then got else
    let keys := (c.needs got (ks.getLastD 0)).flatMap (fun x => (sectorsOf x.addr.toNat x.n).map (secKey x.space))
    SMap.keep got (fun k => keys.contains k)

/-- See to what a command reads for some elements, one after another, with what stops each (R203, R211, R217). -/
def State.gatherAll (s : State) (id : Nat) (c : Cmd) (bd : Band) (ks : List Nat) : Cache × List (Nat × Option Halt) :=
  let g := c.agent bd
  let skip := s.skips id c bd
  let one := fun (x : Cache) (k : Nat) =>
    let y := x.gather c.band bd g skip (c.needs x.got k)
    match c.kind, y.2 with
    | .adjb _ _ _ _ _, none => y.1.gather c.band bd g skip (c.needs y.1.got k)
    | _, _ => y
  ks.foldl (fun (a : Cache × List (Nat × Option Halt)) k =>
    let y := one a.1 k
    let bad := if Rec.space c.dst = 0 then none else
      (c.writes y.1.got k).findSome? (fun e => match y.1.s.nearOf c.band bd (Rec.need c.dst e) true with
        | .error x => some (Halt.fail x)
        | .ok _ => none)
    (y.1, a.2 ++ [(k, y.2.or bad)])) (⟨s, c.got, c.loads, []⟩, [])

/-- The work under way has gone out as far as it can at once: it is over where nothing of it is in flight (R185). -/
def State.workOver (s : State) (id : Nat) (bd : Band) : State :=
  match SMap.find? s.cmds id with
  | none => s
  | some c =>
    if !c.flight.isEmpty then s else
    let done := if c.cut then [] else s.workLines c.band bd c.dst (c.todo.headD .mark)
    let lines := if c.kind.presence then c.lines.map (fun l => if done.contains l.2 then (l.1 - 1, l.2) else l) else c.lines
    { s with cmds := SMap.insert s.cmds id { c with todo := c.todo.drop 1, lines := lines } }

/-- Whether an element's bytes have been made with those in another sector. -/
def Cmd.isMade (c : Cmd) (k : Nat) : Bool := c.made.contains k

/-- What some elements make for a work: for the sector of an `out` its own bytes, with those that were made before; the bytes in
the next sector are kept for it, and the bits of an element across both count when the second is written (R205, R218). -/
def Cmd.forWork (c : Cmd) (w : Work) (ready : List Nat) (y : Chunk) : Chunk × Cmd :=
  match w with
  | .out sec _ =>
    let here := fun (e : Nat × Nat × Nat) => e.1 / 32 == sec
    let second := ready.filter c.isMade
    let y' := { y with cells := y.cells.filter here }
    let y' := if second.isEmpty then y' else y'.count (32 * sec) (second.length * Fmt.memBits (Rec.fmt c.dst))
    (y', { c with
      carry := y.cells.filter (fun e => !here e)
      made := c.made.filter (fun k => !second.contains k) ++ ready.filter (fun k => Rec.straddles c.dst k && !c.isMade k) })
  | _ => (y, c)

/-- A command's work on output elements: it asks for what it lacks, or makes the elements that it can and sends them out. The
elements of a sector before one that ends in error land, and that one is left to be the first (R217). -/
def State.stepOuts (s : State) (id : Nat) (c : Cmd) (bd : Band) (w : Work) (rest : List Work) : Except Halt State :=
  let ks := w.outs
  let all := c.whole && c.got.isEmpty
  let asked := c.loads.any (fun l => (SMap.find? s.reqs l.1).any (fun r => match r.stage with
    | .failed _ => false
    | _ => true))
  if c.whole && asked then .error .wait else
  let x := s.gatherAll id c bd (if all then List.range c.len else ks.filter (fun k => !c.isMade k))
  let keep := fun (s : State) (c : Cmd) => { s with cmds := SMap.insert s.cmds id c }
  if !x.1.ask.isEmpty then
    let y := x.1.s.askFar id c bd x.1.ask
    .ok (keep y.1 { c with got := x.1.got, loads := y.2 })
  else if all && x.2.any (fun e => e.2 == some .wait) then .error .wait else
  let st := fun k => ((x.2.find? (fun e => e.1 == k)).bind (fun e => e.2))
  let ready := ks.takeWhile (fun k => (st k).isNone)
  let more := ks.drop ready.length
  match more.head?.bind st, ready with
  | some .wait, _ => .error .wait
  | some h, [] => .error h
  | _, _ =>
    let made := (ready.filter (fun k => !c.isMade k)).foldl (fun (a : Except Cause Chunk) k => match a with
      | .error e => .error e
      | .ok y => c.make k y) (.ok { Chunk.start x.1.got with cells := c.carry })
    match made with
    | .error e => .error (.fail e)
    | .ok y =>
      let left := match w, more with
        | .out sec _, _ :: _ => [Work.out sec more]
        | _, _ => []
      let z := c.forWork w ready y
      let c' := { z.2 with
        todo := w :: left ++ rest, cut := !left.isEmpty, got := c.keepGot ready y.got, wits := c.wits ++ y.wits }
      .ok (((keep x.1.s c').sendChunk id c' bd (Rec.space c.dst) z.1).workOver id bd)

/-- A command's work on witness bytes (R251). -/
def State.stepWit (s : State) (id : Nat) (c : Cmd) (bd : Band) (w : Work) : Except Halt State :=
  match c.witness with
  | none => .error .wait
  | some (sp, a, _) =>
    let b := c.witBytes w
    let at_ := a + BitVec.ofNat 64 b.1
    let bad := if sp = 0 then none else (match s.nearOf c.band bd ⟨sp, at_, b.2.1.length, Nat.log2 b.2.1.length, false, false⟩ true with
      | .error e => some e
      | .ok _ => none)
    match bad with
    | some e => .error (.fail e)
    | none =>
      let x := b.2.1.zipIdx.foldl (fun (x : Chunk) y =>
        let x := x.putBytes sp (at_.toNat + y.2) 1 y.1 255
        if b.2.2 then x.count (at_.toNat + y.2) 8 else x) (Chunk.start [])
      .ok ((s.sendChunk id c bd sp x).workOver id bd)

/-- ADJB reads the header of its witness at home and checks it (R254). -/
def State.stepHeader (s : State) (id : Nat) (c : Cmd) (bd : Band) : Except Halt State :=
  match c.kind with
  | .adjb acc space a expect none =>
    let x := (⟨s, c.got, c.loads, []⟩ : Cache).gather c.band bd (c.agent bd) (s.skips id c bd) [⟨space, a, 16, 4, false, true⟩]
    if !x.1.ask.isEmpty then
      let y := x.1.s.askFar id c bd x.1.ask
      .ok { y.1 with cmds := SMap.insert y.1.cmds id { c with got := x.1.got, loads := y.2 } }
    else
    match x.2 with
    | some h => .error h
    | none =>
      let bs := gotBytes x.1.got space a.toNat 16
      let h := BitVec.ofNat 64 (leNat (bs.take 8))
      let ser := BitVec.ofNat 64 (leNat (bs.drop 8))
      match c.headerCheck bd.gangPos space a expect h ser with
      | some e => .error (.fail e)
      | none =>
        .ok { x.1.s with cmds := SMap.insert x.1.s.cmds id { c with
          kind := .adjb acc space a expect (some (h, ser)), got := []
          todo := (List.range (Rec.len c.src)).map Work.entry } }
  | _ => .error .wait

/-- One step of a command's engine: work n of those left, which is the first but for a copy that has no sector order (R205, R206). -/
def State.engineStep (s : State) (id : Nat) (c : Cmd) (bd : Band) (n : Nat) : Except Halt State :=
  if !c.flight.isEmpty || (n != 0 && s.onePath c bd) then .error .wait else
  let others := c.todo.eraseIdx n
  match c.todo[n]? with
  | none => .error .wait
  | some (.out sec ks) => s.stepOuts id c bd (.out sec ks) others
  | some (.entry k) => s.stepOuts id c bd (.entry k) others
  | some .hdrRead => s.stepHeader id c bd
  | some w => s.stepWit id c bd w

/-- Whether a command has delivered everything. -/
def Cmd.delivered (c : Cmd) : Bool := c.todo.isEmpty && c.flight.isEmpty

end Sys2Proof.Machine
end

