-- ==== Sys2Proof/Machine/Channel.lean ====
section
/-! DEFINITION. Channels (R332 to R335): RCOPY, the page, and the items. -/
namespace Sys2Proof.Machine

/-- The state of a channel (R332). -/
def Channel.state (c : Channel) : Nat := fld c.d0 63 62

/-- Group 14 for a channel (R346, R259). -/
def chanCause (reason ch : Nat) : Cause := ⟨14, reason, BitVec.ofNat 96 (ch * 2 ^ 64), false⟩

/-- Why a context of a partition may not use a channel (R335). -/
def State.chanBad (s : State) (part ctx n : Nat) : Option Nat :=
  let c := s.chan n
  if Config.channels ≤ n ∨ fld c.d0 61 54 ≠ ctx ∨ fld c.d0 53 49 ≠ part ∨ c.state = 0 ∨ c.state = 3 then some 7
  else if c.state = 2 then some 8 else none

/-- RCOPY (R335). -/
def execRcopy (ctr : Fin 64) (ch : Operand) (d a : Fin 16) (wait : Option (Fin 64)) (g : Guard) (s : State) : Out :=
  let fd := feField false ch
  let needs := feNeeds [(1, fd)] (wait.toList.map Fin.val)
  runOnceEnding g needs [fd] (fun s b i bd w lanes chk =>
    let rd := bd.rec_ d.val
    let rs := bd.rec_ a.val
    let n := (fd.value w (lanes.headD 0)).toNat
    let wv := wait.map (fun k => w.sget k.val)
    let waitBad := wv.bind (fun v =>
      if fld v 63 60 ≠ 0 then some (7, fld v 59 48) else (s.chanBad bd.part bd.ctx (fld v 59 48)).map (fun r => (r, fld v 59 48)))
    let own := (if 4096 ≤ n then some 7 else s.chanBad bd.part bd.ctx n).map (fun r => (r, n % 4096))
    let bad := (checkRecs 0x133 [(d.val, rd, true), (a.val, rs, false)] true true none).or
      ((own.or waitBad).map (fun x => chanCause x.1 x.2))
    chk bad <| fun _ =>
      if 64 ≤ (s.chan n).items.length then .next s.hold else
      let id := s.stamp
      match s.queueCmd b i bd w needs.latch ⟨.copy, ctr.val, [(d.val, rd), (a.val, rs)],
          .item n (wv.map (fun v => (fld v 59 48, v.setWidth 48))), Rec.byAddress rd, none⟩ with
      | .next s' => if s'.stalled then .next s' else
          .next ((s'.modChan n (fun c => { c with items := c.items ++ [(id, false)] })).modBand b (fun x =>
            { x with restartable := false }))
      | o => o) s

/-- CHANNEL_PAGE_WRITE (R332): writing READY to a channel in ERROR discards its queue and zeroes its count; so does giving
the channel to a context (R308): it was FREE, or another's. -/
def execChannelPageWrite (ch : Nat) (d0 : W64) (s : State) : Out :=
  if Config.channels ≤ ch then .refused (.notPending "CHANNEL_PAGE_WRITE") else
  let c := s.chan ch
  let new := d0 &&& (maskBits 63 44 ||| maskBits 41 16)
  let given := c.state == 0 && fld d0 63 62 != 0
  let fresh := (c.state == 2 && fld d0 63 62 == 1) || given || fld c.d0 61 49 != fld d0 61 49
  let drop := if fresh then c.items.map (fun x => x.1) else []
  let s := drop.foldl (fun (s : State) id => s.dropCmd id) s
  .next (s.modChan ch (fun c => if fresh then ⟨new, [], 0⟩ else { c with d0 := new }))

/-- Whether the item's records resolve as R335 asks: exactly one far record, through a peer segment that names the channel's
peer. -/
def State.itemOk (s : State) (c : Channel) (cmd : Cmd) (part : Nat) : Bool :=
  match (cmd.recs.filter (fun r => Rec.space r.2 == 0)) with
  | [r] => match s.segLook part r.2.base with
    | .entry _ e => e.kind == 2 && e.peer == fld c.d0 41 32
    | _ => false
  | _ => false

/-- The first item of a channel that has not started. -/
def State.nextItem (s : State) (c : Channel) : Option (Nat × Cmd) :=
  c.items.findSome? (fun x => (SMap.find? s.cmds x.1).bind (fun m => if m.started then none else some (x.1, m)))

/-- Whether an item's wait is met (R334). -/
def State.itemWait (s : State) (cmd : Cmd) : Bool :=
  match cmd.kind with
  | .item _ (some (w, v)) => decide (((s.chan w).count - v).toNat < 2 ^ 47)
  | _ => true

/-- Whether an item waits on a channel in ERROR (R334). -/
def State.itemLost (s : State) (cmd : Cmd) : Option Nat :=
  match cmd.kind with
  | .item _ (some (w, _)) => if (s.chan w).state = 2 then some w else none
  | _ => none

/-- Whether a command has issued all its requests (R333): what is left is in flight, a write or the reads of its last work. -/
def Cmd.issuedAll (c : Cmd) : Bool :=
  let asked := fun (key : Nat) => (SMap.find? c.got key).isSome || c.loads.any (fun l => l.2 == key)
  c.todo.isEmpty || (c.todo.length == 1 && (!c.flight.isEmpty || (Rec.space c.dst != 0 && Rec.space c.src == 0
    && (c.todo.flatMap Work.outs).all (fun k =>
      let x := Rec.need c.src k
      (sectorsOf x.addr.toNat x.n).all (fun a => asked (secKey 0 a))))))

/-- CHANNEL_ITEM_START (R333, R334). -/
def execChannelItemStart (ch : Nat) (s : State) : Out :=
  let no : Out := .refused (.notPending "CHANNEL_ITEM_START")
  let c := s.chan ch
  match s.nextItem c with
  | none => no
  | some (id, m) =>
    let before := c.items.takeWhile (fun x => x.1 != id)
    let issued := before.all (fun x => (SMap.find? s.cmds x.1).all Cmd.issuedAll)
    let part := fld c.d0 53 49
    if c.state ≠ 1 || !issued || !s.itemWait m || (s.itemLost m).isSome || !s.itemOk c m part
        || s.fenceHolds m.band m.weft .copy m.stamp || s.heldBehind m then no
    else .next { s with cmds := SMap.insert s.cmds id { m with started := true, whole := s.selfMeets m } }

/-- The leading completed items leave the queue and are counted (R333). -/
def Channel.settle (c : Channel) : Channel :=
  let done := c.items.takeWhile (fun x => x.2)
  { c with items := c.items.drop done.length, count := c.count + BitVec.ofNat 48 done.length }

/-- CHANNEL_ITEM_COMPLETE (R333): an item whose every byte has landed. -/
def execChannelItemComplete (ch : Nat) (s : State) : Out :=
  let c := s.chan ch
  let done := c.items.findSome? (fun x =>
    if x.2 then none else (SMap.find? s.cmds x.1).bind (fun m =>
      if m.started && m.delivered && m.lines.isEmpty then some (x.1, m) else none))
  match done with
  | none => .refused (.notPending "CHANNEL_ITEM_COMPLETE")
  | some (id, m) =>
    .next ((s.doneCmd id m).modChan ch (fun c =>
      Channel.settle { c with items := c.items.map (fun x => if x.1 = id then (id, true) else x) }))

/-- An item ends in error (R334): its counter records it, its channel goes to ERROR, and the later items are discarded. The
earlier ones complete. -/
def State.failItem (s : State) (ch id : Nat) (m : Cmd) (c : Cause) : State :=
  let items := (s.chan ch).items
  let later := ((items.dropWhile (fun x => x.1 != id)).drop 1).map (fun x => x.1)
  let s := later.foldl (fun (s : State) x => s.dropCmd x) (s.failCmd id m c)
  s.modChan ch (fun c => { c with d0 := setFld c.d0 63 62 2, items := items.takeWhile (fun x => x.1 != id) })

/-- The cause that an item meets by itself (R334, R335): a lost wait, or records that do not resolve as they must. -/
def State.itemCause (s : State) (ch : Nat) (c : Channel) : Option (Nat × Cmd × Cause) :=
  (s.nextItem c).bind (fun x =>
    match s.itemLost x.2 with
    | some w => some (x.1, x.2, chanCause 8 w)
    | none => if s.itemWait x.2 && !s.itemOk c x.2 (fld c.d0 53 49) then some (x.1, x.2, chanCause 9 ch) else none)

end Sys2Proof.Machine
end

