-- ==== Sys2Proof/Machine/NearMem.lean ====
section
/-! DEFINITION. The near-memory instructions (R187 to R193) and the register blocks (R174 to R177). -/
namespace Sys2Proof.Machine

/-- The base of an FM word in a lane (R30): a v register is zero-extended, an s register and a latch entry are whole, a
constant is sign-extended. -/
def Weft.fmBase (w : Weft) (o : Operand) (lane : Nat) : W64 :=
  match o with
  | .v n => (w.vget n.val lane).setWidth 64
  | .s n => w.sget n.val
  | .x d => w.latchVal d.val lane
  | .k c => BitVec.ofInt 64 (constInt c)

/-- The effective address of an FM word in a lane (R30), modulo 2^64 (DESIGN CHOICE; log 65). -/
def fmAddr (f : FM) (w : Weft) (lane : Nat) : W64 := w.fmBase f.base lane + f.offset.signExtend 64

/-- The base of an FM word as a source field. -/
def fmField (f : FM) : FieldRead := ⟨f.base, false, .s32, fun l => some l, none⟩

/-- The v registers a value of a size covers (R21). -/
def sizeRegs (size : Nat) : Nat := if size = 3 then 2 else if size = 4 then 4 else 1

/-- The register writes of a loaded value. -/
def loadRegs (dst size : Nat) (v : Nat) : List (Nat × W32) :=
  (List.range (sizeRegs size)).map (fun k => (dst + k, BitVec.ofNat 32 (v / 2 ^ (32 * k))))

/-- The value held in consecutive registers of a lane. -/
def Weft.regsVal (w : Weft) (r n lane : Nat) : Nat :=
  (List.range n).foldl (fun a k => a + (w.vget (r + k) lane).toNat * 2 ^ (32 * k)) 0

/-- What the access of one lane did: its register writes and the value it pushes. -/
structure NearRes where
  v : List (Nat × W32)
  push : Option W64

/-- Put a far-side result in flight (R65): the registers wait for it, and so does the latch entry just pushed. -/
def Weft.sendReply (w : Weft) (r : NearReply) (pushed : Bool) : Weft :=
  let aw := r.v.map (fun x => (⟨x.1 / 64, x.1 % 64, r.id⟩ : Await))
    ++ r.s.toList.map (fun x => (⟨256 + x.1, 0, r.id⟩ : Await))
  let lt := match w.latches, pushed with
    | e :: es, true => { e with reply := some r.id } :: es
    | es, _ => es
  { w with replies := w.replies ++ [r], await := w.await ++ aw, latches := lt }

/-- What an FM word is. -/
structure FMWord where
  load : Bool
  store : Bool
  pushes : Bool
  regs : Nat
  source : Bool

/-- What an FM word needs. -/
def fmNeeds (f : FM) (x : FMWord) (w : Weft) : Needs :=
  let data := (List.range x.regs).map (fun k => f.data.val + k)
  {
    regs := (fmField f).regs ++ data
    half2 := []
    latch := (fmField f).depth.toList.map (fun d => (1, d))
    routes := []
    keys := (fmField f).keys ++ (if x.source || w.act f.guard != w.bundle then data else []) }

/-- Run LD, ST or an atomic (R187, R188): a helper lane raises nothing. `go` performs the access of one lane, given its place. -/
def runFM (f : FM) (x : FMWord) (go : Nat → Nat → Band → Weft → NearLoc → Nat → State → State × NearRes)
    (s : State) : Out :=
  match s.current with
  | none => .refused .noBundle
  | some (_, _, _, w0) =>
    let act := w0.act f.guard
    let data := (List.range x.regs).map (fun k => f.data.val + k)
    let suppress := fun l => !(x.load && !x.store) && (w0.lane l).helper
    let acting := laneList w0.width act
    let needs := fmNeeds f x w0
    s.issue needs (fun b i bd w =>
      if !acting.isEmpty && w.held? .lane (f.space == .die) then .next s.stall else
      let n := 2 ^ f.size.val
      let srcs := (fmField f).regs ++ (if x.source then data else [])
      let mark := fun l => srcs.foldl (fun c r => pickCause c (w.mark r l)) none
      let live := acting.filter (fun l => !suppress l)
      let loc := fun l => s.nearLoc b bd f.space (some l) (fmAddr f w l) n x.store
      let cause := fun l => if (w.lane l).helper then none else pickCause (mark l) (match loc l with
        | .error r => some (nearCause x.store f.size.val f.space r (fmAddr f w l))
        | .ok p => if x.load then s.locFlaw b i p n else none)
      let ok := live.filterMap (fun l => match cause l, loc l with
        | none, .ok p => some (l, p)
        | _, _ => none)
      let gone := ok.flatMap (fun e => match e.2 with
        | .at_ p off => s.absentLines p off n
        | _ => [])
      if !gone.isEmpty then .next (s.parkWord b i bd w needs.latch (.lines gone.eraseDups)) else
      let bad := live.filterMap (fun l => (cause l).map (fun c => ({ lane := l, cause := some c } : LaneEff)))
      if !bad.isEmpty && (w.chainFor (needs.latch.map (fun r => r.2))).isSome then
        .next (s.finish b i bd w needs.latch { lanes := bad })
      else
      let s := if f.rel && f.space == .die && !ok.isEmpty then s.publish b i .die else s
      let far := ok.any (fun e => e.2.farSide b (Config.freeNat s.freeCtr) x.load)
      let s := if f.space == .spill && x.load then s.tick else s
      let r := ok.foldl (fun (a : State × List (Nat × NearRes)) e =>
        let y := go b i bd w e.2 e.1 a.1
        (y.1, a.2 ++ [(e.1, y.2)])) (s, [])
      let s := if f.acq && f.space == .die && !ok.isEmpty then r.1.refresh b i else r.1
      let lanes := r.2.map (fun e => ({ lane := e.1, v := if far then [] else e.2.v } : LaneEff))
      let pushes : List Push := if x.pushes
        then [⟨f.data.val, decide (3 ≤ f.size.val), false, r.2.filterMap (fun e => e.2.push.map (fun v => (e.1, v)))⟩]
        else []
      let s := s.finish b i bd w needs.latch { lanes := lanes ++ bad, pushes := pushes }
      let out := r.2.flatMap (fun e => e.2.v.map (fun v => (v.1 * 64 + e.1, v.2)))
      if far && !out.isEmpty then
        .next (s.nextStamp.modWeft b i (fun w => w.sendReply ⟨s.stamp, out, none⟩ x.pushes))
      else .next s)

/-- LD as an FM word. -/
def ldWord (f : FM) : FMWord := ⟨true, false, true, sizeRegs f.size.val, false⟩
/-- ST as an FM word. -/
def stWord (f : FM) : FMWord := ⟨false, true, false, sizeRegs f.size.val, true⟩
/-- An atomic as an FM word. -/
def atomWord (op : AtomOp) (f : FM) : FMWord :=
  let k := if f.size.val == 3 then 2 else 1
  ⟨true, true, true, if op == .cas then 2 * k else k, true⟩

/-- LD (R190). -/
def execLd (f : FM) (s : State) : Out :=
  runFM f (ldWord f) (fun b i bd w loc _ s =>
    let r := s.nearRead b i bd ((s.weft? b i).getD w) loc (2 ^ f.size.val) f.acq
    let v := leNat r.1
    (r.2, ⟨loadRegs f.data.val f.size.val v, some (BitVec.ofNat 64 v)⟩)) s

/-- ST (R190). -/
def execSt (f : FM) (s : State) : Out :=
  runFM f (stWord f) (fun b i _ w loc l s =>
    let n := 2 ^ f.size.val
    (s.nearWrite b i loc (leBytes n (w.regsVal f.data.val (sizeRegs f.size.val) l)) f.rel, ⟨[], none⟩)) s

/-- The new value of an atomic (R192), near or far: `x` is the operand, or the compare operand of a compare and swap whose
new operand is `y`. -/
def atomNew (op : AtomOp) (w64 : Bool) (old x y : Nat) : Nat :=
  let m := if w64 then 2 ^ 64 else 2 ^ 32
  let sx := fun (v : Nat) => if w64 then (BitVec.ofNat 64 v).toInt else (BitVec.ofNat 32 v).toInt
  match op with
  | .add => (old + x) % m
  | .fadd => (FInfo.f32.fadd .rne old x).bits
  | .min => if sx old ≤ sx x then old else x
  | .max => if sx x ≤ sx old then old else x
  | .and => old &&& x
  | .or => old ||| x
  | .xor => old ^^^ x
  | .xchg => x
  | .cas => if old = x then y else old
  | .inc => if x ≤ old then 0 else old + 1

/-- Run a near atomic (R192, R193, R200): at home, with the old value returned. -/
def runAtomic (op : AtomOp) (f : FM) (s : State) : Out :=
  let w64 := f.size.val == 3
  let k := if w64 then 2 else 1
  runFM f (atomWord op f) (fun b i _ w loc l s =>
    let n := 4 * k
    match loc with
    | .at_ p off =>
      let s := if p.snapshots then s.publishBefore b i off n else s
      let old := leNat (s.homeRead p off n)
      let new := atomNew op w64 old (w.regsVal f.data.val k l) (w.regsVal (f.data.val + k) k l)
      let s := if !p.snapshots || f.acq then s.hear b i p off n else s
      let s := if p.snapshots then s.land p off (leBytes n new) (some (b, i, .lane)) false
        else s.nearWrite b i loc (leBytes n new) false
      let s := if p.snapshots && f.rel then s.signal b i p off n else s
      (s, ⟨loadRegs f.data.val f.size.val old, some (BitVec.ofNat 64 old)⟩)
    | _ => (s, ⟨[], none⟩)) s

/-- AADD (R192). -/
def execAadd (f : FM) (s : State) : Out := runAtomic .add f s
/-- AFADD (R192). -/
def execAfadd (f : FM) (s : State) : Out := runAtomic .fadd f s
/-- AMIN (R192). -/
def execAmin (f : FM) (s : State) : Out := runAtomic .min f s
/-- AMAX (R192). -/
def execAmax (f : FM) (s : State) : Out := runAtomic .max f s
/-- AAND (R192). -/
def execAand (f : FM) (s : State) : Out := runAtomic .and f s
/-- AOR (R192). -/
def execAor (f : FM) (s : State) : Out := runAtomic .or f s
/-- AXOR (R192). -/
def execAxor (f : FM) (s : State) : Out := runAtomic .xor f s
/-- AXCHG (R192). -/
def execAxchg (f : FM) (s : State) : Out := runAtomic .xchg f s
/-- ACAS (R192). -/
def execAcas (f : FM) (s : State) : Out := runAtomic .cas f s
/-- AINC (R192). -/
def execAinc (f : FM) (s : State) : Out := runAtomic .inc f s

/-- What LDU and STU need. -/
def uniNeeds (f : FM) (store : Bool) : Needs where
  regs := (fmField f).regs
  half2 := []
  latch := (fmField f).depth.toList.map (fun d => (1, d))
  routes := []
  keys := (fmField f).keys ++ (if store then [256 + f.data.val] else [])

/-- Run LDU or STU (R191): one access, once per issue, when a lane that is not a helper acts. A fault is raised in every
such lane (R188), and the lowest group wins (R258). `go` performs the access and may give the s register's new value. -/
def runUniform (f : FM) (store : Bool) (go : Nat → Nat → Band → Weft → NearLoc → State → State × Option W64)
    (s : State) : Out :=
  let needs := uniNeeds f store
  s.issue needs (fun b i bd w =>
    let act := w.act f.guard
    let lanes := w.nonHelpers act
    if lanes.isEmpty then .next (s.finish b i bd w needs.latch {}) else
    if w.held? .lane (f.space == .die) then .next s.stall else
    let a := fmAddr f w (lanes.headD 0)
    let marks := (fmField f).marks w (lanes.headD 0) ++ (if store then (w.mark (256 + f.data.val) 0).toList else [])
    let mark := marks.foldl (fun a c => pickCause a (some c)) none
    let at_ := s.nearLoc b bd f.space none a (2 ^ f.size.val) store
    let own := match at_ with
      | .error r => some (nearCause store f.size.val f.space r a)
      | .ok p => if store then none else s.locFlaw b i p (2 ^ f.size.val)
    match pickCause mark own, at_ with
    | some c, _ => .next (s.finish b i bd w needs.latch { lanes := lanes.map (fun l => { lane := l, cause := some c }) })
    | none, .error _ => .next (s.finish b i bd w needs.latch {})
    | none, .ok loc =>
      let gone := match loc with
        | .at_ p off => s.absentLines p off (2 ^ f.size.val)
        | _ => []
      if !gone.isEmpty then .next (s.parkWord b i bd w needs.latch (.lines gone)) else
      let s := if f.rel && f.space == .die then s.publish b i .die else s
      let far := loc.farSide b (Config.freeNat s.freeCtr) (!store)
      let s := if f.space == .spill && !store then s.tick else s
      let r := go b i bd w loc s
      let s := if f.acq && f.space == .die then r.1.refresh b i else r.1
      let sw := r.2.toList.map (fun x => (f.data.val, x, ([] : List Nat)))
      let s := s.finish b i bd w needs.latch { s := if far then [] else sw }
      match r.2, far with
      | some x, true => .next (s.nextStamp.modWeft b i (fun w => w.sendReply ⟨s.stamp, [], some (f.data.val, x)⟩ false))
      | _, _ => .next s)

/-- LDU (R191). -/
def execLdu (f : FM) (s : State) : Out :=
  runUniform f false (fun b i bd w loc s =>
    let r := s.nearRead b i bd w loc (2 ^ f.size.val) f.acq
    (r.2, some (BitVec.ofNat 64 (leNat r.1)))) s

/-- STU (R191). -/
def execStu (f : FM) (s : State) : Out :=
  runUniform f true (fun b i _ w loc s =>
    (s.nearWrite b i loc (leBytes (2 ^ f.size.val) (w.sget f.data.val).toNat) f.rel, none)) s

/-- The entries a weft's extended block costs (R174). -/
def Band.extCost (bd : Band) (w : Weft) : Nat := 8 * bd.ext8 * w.width

/-- The register pool of a core (R174): the file less the base blocks of resident wefts and the extended blocks held. -/
def State.pool (s : State) (core : Nat) : Nat :=
  let used := s.bands.foldl (fun a e =>
    if e.2.core = core ∧ (e.2.state = .resident ∨ e.2.state = .saving) then
      e.2.wefts.foldl (fun a w =>
        if w.retired then a else a + 8 * e.2.base8 * w.width + (if w.ext then e.2.extCost w else 0)) a
    else a) 0
  Config.regFile - used

/-- Zero the v registers of the extended block (R9, R176): their contents are lost, with the replies that they await and their failed
marks. -/
def Weft.dropExt (w : Weft) (bd : Band) : Weft :=
  let base := fun key => decide (key < 8 * bd.base8) || decide (256 ≤ key)
  { w with
    v := SMap.keep w.v (fun k => base (k / 64)), failed := SMap.keep w.failed (fun k => base (k / 64))
    await := w.await.filter (fun a => base a.key), ext := false }

/-- A request of a weft is granted (R176, R302): the weft holds the block, zeroed but for what a restore writes into it, or
holds it already (R177); the lanes of the request go on. -/
def Weft.takeExt (w : Weft) (bd : Band) (m : W64) : Weft :=
  let w' := if w.ext || w.stop == some .block then w else w.dropExt bd
  let wake := fun (l : Lane) => match l.state with
    | .parked .block => l.ready
    | _ => l
  { w'.modLanes m wake with ext := true, stop := if w.stop == some .block then none else w.stop }

/-- Grant requests from the head of a core's queue while each fits (R176). -/
def State.grantFrom (s : State) (core : Nat) : Nat → State
  | 0 => s
  | fuel + 1 =>
    match (s.core core).grants with
    | [] => s
    | (b, i, m) :: rest =>
      match s.band? b, s.weft? b i with
      | some bd, some w =>
        if w.ext || decide (bd.extCost w ≤ s.pool core) then
          let s := s.modWeft b i (fun w => w.takeExt bd m)
          (s.modCore core (fun c => { c with grants := rest })).grantFrom core fuel
        else s
      | _, _ => (s.modCore core (fun c => { c with grants := rest })).grantFrom core fuel

/-- Serve a core's grant queue. -/
def State.grant (s : State) (core : Nat) : State := s.grantFrom core (s.core core).grants.length

/-- RACQ (R176, R177); `words` is 2 behind a ROUTEX word. -/
def runRacq (words : Nat) (s : State) : Out :=
  s.issue { regs := [], half2 := [], latch := [], routes := [], keys := [] } (fun b i bd w =>
    let s' := s.finish b i bd w [] { words := words }
    if w.ext then .next s' else
    if (s.core bd.core).grants.isEmpty && decide (bd.extCost w ≤ s.pool bd.core) then
      .next (s'.modWeft b i (fun w => { w.dropExt bd with ext := true }))
    else
      let s' := s'.modWeft b i (fun v => v.parkLanes w.bundle .block (w.pc + BitVec.ofNat 64 (8 * words)))
      .next (s'.modCore bd.core (fun c => { c with grants := c.grants ++ [(b, i, w.bundle)] })))

/-- RREL (R176). -/
def runRrel (words : Nat) (s : State) : Out :=
  s.issue { regs := [], half2 := [], latch := [], routes := [], keys := [] } (fun b i bd w =>
    let s' := s.finish b i bd w [] { words := words }
    if w.ext then .next ((s'.modWeft b i (fun w => w.dropExt bd)).grant bd.core) else .next s')

/-- RACQ (R176). -/
def execRacq (s : State) : Out := runRacq 1 s
/-- RREL (R176). -/
def execRrel (s : State) : Out := runRrel 1 s

end Sys2Proof.Machine
end

