-- ==== Sys2Proof/Machine/Launch.lean ====
section
/-! DEFINITION. Launch records (R278, R279) and their checks (R281), completion counters (R282), placement (R285 to R288),
arbitration (R284), and the retire of wefts, bands and launches (R120, R291, R292). -/
namespace Sys2Proof.Machine

/-- The doubles of a launch record by number. -/
abbrev LRec := List W64

/-- A double of a record. -/
def LRec.d (r : LRec) (k : Nat) : W64 := r.getD k 0
/-- The weft width (R278). -/
def LRec.width (r : LRec) : Nat := 16 * 2 ^ fld (LRec.d r 2) 1 0
/-- Wefts per band. -/
def LRec.wefts (r : LRec) : Nat := fld (LRec.d r 2) 14 8
/-- The base block in units of eight. -/
def LRec.base8 (r : LRec) : Nat := fld (LRec.d r 2) 39 32
/-- The extended block in units of eight. -/
def LRec.ext8 (r : LRec) : Nat := fld (LRec.d r 2) 47 40
/-- The gang size. -/
def LRec.gang (r : LRec) : Nat := fld (LRec.d r 2) 51 48 + 1
/-- The priority. -/
def LRec.prio (r : LRec) : Nat := fld (LRec.d r 2) 58 56
/-- The lanes launched per band. -/
def LRec.lanes (r : LRec) : Nat :=
  let n := fld (LRec.d r 2) 31 16
  if n = 0 then LRec.wefts r * LRec.width r else n
/-- The lanes launched with the helper lanes of quads-complete (R279). -/
def LRec.allLanes (r : LRec) : Nat :=
  if fld (LRec.d r 2) 63 63 = 1 then (LRec.lanes r + 3) / 4 * 4 else LRec.lanes r
/-- The context. -/
def LRec.ctx (r : LRec) : Nat := fld (LRec.d r 3) 39 32
/-- Spill bytes per lane. -/
def LRec.spill (r : LRec) : Nat := 64 * fld (LRec.d r 3) 26 20
/-- Band scratchpad bytes. -/
def LRec.pad (r : LRec) : Nat := fld (LRec.d r 3) 19 0
/-- The extents of the grid. -/
def LRec.ex (r : LRec) : Nat := fld (LRec.d r 4) 15 0 + 1
/-- The extent along y. -/
def LRec.ey (r : LRec) : Nat := fld (LRec.d r 4) 31 16 + 1
/-- The extent along z. -/
def LRec.ez (r : LRec) : Nat := fld (LRec.d r 4) 47 32 + 1
/-- The bands of a launch. -/
def LRec.bands (r : LRec) : Nat := LRec.ex r * LRec.ey r * LRec.ez r
/-- The gangs of a launch; a band of gang size 1 is a gang of its own. -/
def LRec.gangs (r : LRec) : Nat := LRec.bands r / LRec.gang r

/-- The record offset of a field that R278 or R279 calls invalid: the offset of its double (log 16). -/
def LRec.invalid (r : LRec) : Option Nat :=
  let d2 := LRec.d r 2
  let d3 := LRec.d r 3
  let w := LRec.width r
  if fld (LRec.d r 0) 2 0 ≠ 0 then some 0x00
  else if fld (LRec.d r 1) 2 0 ≠ 0 then some 0x08
  else if fld d2 55 52 ≠ 0 ∨ fld d2 15 15 ≠ 0 ∨ fld d2 7 2 ≠ 0 ∨ 12 < LRec.gang r ∨ LRec.base8 r = 0
      ∨ 32 < LRec.base8 r + LRec.ext8 r ∨ LRec.wefts r = 0 ∨ 64 < LRec.wefts r ∨ fld d2 1 0 = 3
      ∨ LRec.wefts r * w < LRec.lanes r ∨ LRec.allLanes r ≤ (LRec.wefts r - 1) * w then some 0x10
  else if fld d3 63 40 ≠ 0 ∨ fld d3 31 27 ≠ 0 ∨ 4096 < LRec.spill r ∨ LRec.pad r % 64 ≠ 0
      ∨ Config.bandPad < LRec.pad r then some 0x18
  else if fld (LRec.d r 4) 63 48 ≠ 0 ∨ LRec.ex r % LRec.gang r ≠ 0 then some 0x20
  else if fld (LRec.d r 5) 63 13 ≠ 0 then some 0x28
  else if fld (LRec.d r 6) 63 48 ≠ 0 then some 0x30
  else if fld (LRec.d r 7) 63 13 ≠ 0 then some 0x38
  else if fld (LRec.d r 15) 62 6 ≠ 0 then some 0x78
  else none

/-- The cores of a granule (R2). -/
def granuleCores (g : Nat) : List Nat := (List.range 8).map (fun k => 8 * g + k)

/-- A partition. -/
def State.part? (s : State) (p : Nat) : Option Partition := SMap.find? s.parts p

/-- Change a partition. -/
def State.modPart (s : State) (p : Nat) (f : Partition → Partition) : State := { s with parts := SMap.modify s.parts p f }

/-- The cores of a partition in ascending number. -/
def Partition.cores (p : Partition) : List Nat := (List.range Config.granules).flatMap (fun g =>
  if p.granules.contains g then granuleCores g else [])

/-- The columns of a gang's shape (R286). -/
def shapeColumns (n : Nat) : Nat := if n ≤ 8 then n else (n + 1) / 2

/-- The core of a gang position at an anchor (R286). -/
def shapeCore (n die r0 c0 p : Nat) : Nat := die * 40 + (r0 + p / shapeColumns n) * 8 + c0 + p % shapeColumns n

/-- The anchors of a shape whose rows lie on one die and in granules of a partition, lowest first (R286). -/
def Partition.anchors (p : Partition) (n : Nat) (dies : List Nat) : List (Nat × Nat × Nat) :=
  let rows := if n ≤ 8 then 1 else 2
  (List.range 4).flatMap (fun die => if !dies.contains die then [] else
    (List.range (6 - rows)).flatMap (fun r0 =>
      if (List.range rows).all (fun k => p.granules.contains (die * 5 + r0 + k)) then
        (List.range (9 - shapeColumns n)).map (fun c0 => (die, r0, c0))
      else []))

/-- A launch completion counter lies in a partition's range (R283). -/
def State.ownsCounter (s : State) (part c : Nat) : Bool :=
  let p := s.kget (.psched part)
  let lo := fld p 27 16
  decide (lo ≤ c) && decide (c < lo + fld p 40 28)

/-- The checks of R281 after the port's own, with reasons 3 to 7, and the offset for reason 4; (0, 0) accepts. -/
def State.checkRecord (s : State) (part queue : Nat) (r : LRec) : Nat × Nat :=
  match s.part? part with
  | none => (5, 0)
  | some p =>
    if 256 ≤ (SMap.get p.queues [] queue).length then (3, 0) else
    match LRec.invalid r with
    | some off => (4, off)
    | none =>
      if ((s.ctx? (LRec.ctx r)).map (fun c => c.part)) ≠ some part then (5, 0)
      else if (fld (LRec.d r 5) 12 12 = 1 && !s.ownsCounter part (fld (LRec.d r 5) 11 0))
          || (fld (LRec.d r 7) 12 12 = 1 && !s.ownsCounter part (fld (LRec.d r 7) 11 0)) then (6, 0)
      else
        let w := LRec.width r
        let need := LRec.wefts r * (8 * LRec.base8 r) * w + 8 * LRec.ext8 r * w
        if Config.regFile < need ∨ 64 < LRec.wefts r ∨ (p.anchors (LRec.gang r) [0, 1, 2, 3]).isEmpty then (7, 0)
        else (0, 0)

/-- The launch at the head of a queue has been there since now, if it was not there before (R284). -/
def State.markHead (s : State) (part queue : Nat) : State :=
  match ((s.part? part).map (fun p => SMap.get p.queues [] queue)).bind List.head? with
  | none => s
  | some h => { s with launches := SMap.modify s.launches h (fun l => { l with headAt := l.headAt.or (some s.now) }) }

/-- Append an accepted record to a queue (R280, R293); a launch is numbered by a stamp. -/
def State.queueRecord (s : State) (part queue : Nat) (r : LRec) : State :=
  let id := s.stamp
  let l : Launch := {
    part := part, queue := queue, doubles := r, next := 0, last := none, retired := 0, failed := false
    headAt := none, eff := none, firstFail := none, bypassOver := false, sought := none }
  let s := { s.nextStamp with launches := SMap.insert s.launches id l }
  (s.modPart part (fun p => { p with queues := SMap.insert p.queues queue (SMap.get p.queues [] queue ++ [id]) })).markHead part queue

/-- Count a launch on a completion counter (R282). -/
def State.countLaunch (s : State) (c : Nat) (err : Bool) : State :=
  let v := SMap.get s.lcc 0 c
  let n := setFld v 47 0 (fld v 47 0 + 1)
  { s with lcc := SMap.set s.lcc 0 c (if err then setFld n 63 63 1 else n) }

/-- A launch is not on its queue. -/
def State.unqueue (s : State) (id : Nat) (l : Launch) : State :=
  s.modPart l.part (fun p =>
    { p with queues := SMap.set p.queues [] l.queue ((SMap.get p.queues [] l.queue).filter (fun x => x != id)) })

/-- Take a launch off its queue; the next record becomes the head (R284). -/
def State.dequeue (s : State) (id : Nat) : State :=
  match SMap.find? s.launches id with
  | none => s
  | some l => (s.unqueue id l).markHead l.part l.queue

/-- Put a launch at the head of its queue, if it does not stand there (R290). Its time at the head starts then, and that of the
head it displaces starts anew when it is the head again (R284; log 54). -/
def State.requeue (s : State) (id : Nat) : State :=
  match SMap.find? s.launches id with
  | none => s
  | some l =>
    let head := ((s.part? l.part).map (fun p => SMap.get p.queues [] l.queue)).bind List.head?
    let s := (s.unqueue id l).modPart l.part (fun p =>
      { p with queues := SMap.insert p.queues l.queue (id :: SMap.get p.queues [] l.queue) })
    if head = some id then s else
    let s := { s with launches := SMap.modify s.launches id (fun x => { x with headAt := some s.now, sought := none }) }
    match head with
    | none => s
    | some h => { s with launches := SMap.modify s.launches h (fun x => { x with headAt := none, sought := none }) }

/-- Retire a launch: its counter counts it (R282, R291, R292), and it leaves its queue. -/
def State.endLaunch (s : State) (id : Nat) : State :=
  match SMap.find? s.launches id with
  | none => s
  | some l =>
    let s := s.dequeue id
    let d7 := LRec.d l.doubles 7
    let s := if fld d7 12 12 = 1 then s.countLaunch (fld d7 11 0) l.failed else s
    { s with launches := SMap.erase s.launches id }

/-- Whether a band stands on a core with its wefts and registers (R285). -/
def Band.onCore (b : Band) (core : Nat) : Bool := b.core == core && (b.state == .resident || b.state == .saving)

/-- The members of a gang that are resident or saving. -/
def State.gangLive (s : State) (gang : Nat) : Bool :=
  s.bands.any (fun e => e.2.gang == gang && (e.2.state == .resident || e.2.state == .saving))

/-- Bytes of band scratchpad allotted on a core: resident bands, and reservations of retired gang members (R181, R285), but
for those that a save of the gang's last bands has taken with it. -/
def State.padOn (s : State) (core : Nat) : Nat :=
  s.bands.foldl (fun a e =>
    if e.2.onCore core || (e.2.core == core && e.2.state == .retired && (e.2.image == 0 || s.gangLive e.2.gang)) then
      a + e.2.padBytes
    else a) 0

/-- Whether a gang still holds cores (R181): a band of it is on its core, or the scratchpad of a retired one is reserved there. -/
def State.gangHeld (s : State) (gang : Nat) : Bool :=
  s.gangLive gang || s.bands.any (fun e => e.2.gang == gang && e.2.state == .retired && e.2.image == 0)

/-- The wefts resident on a core by slot: a slot for each. -/
def State.slotsOn (s : State) (core : Nat) : List Nat :=
  s.bands.flatMap (fun e =>
    if e.2.onCore core then (e.2.wefts.filter (fun w => !w.retired)).map (fun w => w.slot) else [])

/-- The slot that holds the fewest wefts, the lowest on a tie (R288). -/
def leastSlot (used : List Nat) : Nat :=
  let n := fun k => used.countP (fun x => x == k)
  [1, 2, 3].foldl (fun a k => if n k < n a then k else a) 0

/-- Spill bytes that a band's region takes (R285). -/
def spillNeed (wefts spill width : Nat) : Nat := wefts * (spill * width + 1024)

/-- What placement asks of a core; `regions` spill regions are added on its die (R285). -/
structure Need where
  ctx : Nat
  wefts : Nat
  width : Nat
  base8 : Nat
  ext8 : Nat
  pad : Nat
  spill : Nat
  regions : Nat

/-- The needs of a band of a record: its gang's regions lie on one die. -/
def Need.ofRec (r : LRec) : Need :=
  ⟨LRec.ctx r, LRec.wefts r, LRec.width r, LRec.base8 r, LRec.ext8 r, LRec.pad r, LRec.spill r, LRec.gang r⟩

/-- The needs of a band that returns to its die: its spill region is still reserved there (R294, R302). -/
def Need.ofBand (b : Band) : Need :=
  ⟨b.ctx, (b.wefts.filter (fun w => !w.retired)).length, b.width, b.base8, b.ext8, b.padBytes, b.spillBytes, if b.image = 0 then 1 else 0⟩

/-- Whether a band fits on a core (R285). -/
def State.fits (s : State) (n : Need) (core : Nat) : Bool :=
  match s.ctx? n.ctx with
  | none => false
  | some c =>
    let die := dieOf core
    let mine := (s.bands.filter (fun e => e.2.onCore core)).map (fun e => e.2)
    let base := mine.foldl (fun a b => a + (b.wefts.filter (fun w => !w.retired)).length * (8 * b.base8) * b.width) 0
    let ext := mine.foldl (fun a b => max a (8 * b.ext8 * b.width)) (8 * n.ext8 * n.width)
    let spill := s.bands.foldl (fun a e =>
      if e.2.ctx = n.ctx ∧ dieOf e.2.core = die ∧ e.2.state ≠ .retired ∧ ¬ (e.2.state = .saved ∧ e.2.image = 0) then
        a + spillNeed e.2.wefts.length e.2.spillBytes e.2.width else a) 0
    let slots := s.slotsOn core
    c.dies.contains die
      && decide (s.padOn core + n.pad ≤ Config.bandPad)
      && decide (slots.length + n.wefts ≤ 64)
      && decide (base + n.wefts * (8 * n.base8) * n.width + ext ≤ Config.regFile)
      && (n.regions == 0 || decide (spill + n.regions * spillNeed n.wefts n.spill n.width ≤ c.spillReserve))

/-- A lane at the start of its band (R288, R86). -/
def Lane.start (entry : W64) (lane : Nat) (helper : Bool) : Lane :=
  ⟨entry, .live, false, 0, helper, 0, 0, 0, 0, 0, lfsrSeed lane 0, 0⟩

/-- A weft as a band starts it: lanes below `n` are launched, those from `real` on as helper lanes (R279, R288, R75). -/
def Weft.start (width slot n real snap : Nat) (entry : W64) (args : List W64) : Weft where
  width := width
  slot := slot
  lanes := (List.range width).map (fun l =>
    if l < n then Lane.start entry l (decide (real ≤ l)) else { Lane.unlaunched with rs := lfsrSeed l 0 })
  v := []
  p := []
  s := (args.mapIdx (fun k x => (57 + k, x))).filter (fun e => decide (e.2 ≠ 0))
  uni := []
  await := []
  failed := []
  replies := []
  latches := []
  bundle := 0
  run := 0
  reform := true
  issued := 0
  seq := 0
  chain := none
  rb := []
  flags := 0
  hangk := 20
  wlast := 0
  ext := false
  subs := 0
  snap := snap
  seen := []
  fenced := []
  wbuf := []
  phase := none
  fences := []
  held := none
  stop := none
  frozen := false
  slack := 0
  begun := false
  spent := false
  spill := []
  uspill := []
  fetched := []
  late := []
  retired := false
  slotCycles := 0

/-- The wefts of a band that starts on a core. -/
def startWefts (r : LRec) (snap : Nat) (used : List Nat) : List Weft :=
  let w := LRec.width r
  ((List.range (LRec.wefts r)).foldl (fun (a : List Weft × List Nat) k =>
    let slot := leastSlot a.2
    let n := LRec.allLanes r - k * w
    (a.1 ++ [Weft.start w slot n (LRec.lanes r - k * w) snap (LRec.d r 0) ((r.drop 8).take 7)], a.2 ++ [slot]))
    ([], used)).1

/-- The linear index and the coordinates of position p of gang k (R279). -/
def LRec.place (r : LRec) (k p : Nat) : Nat × Nat × Nat × Nat :=
  let per := LRec.ex r / LRec.gang r
  let x := LRec.gang r * (k % per) + p
  let y := k / per % LRec.ey r
  let z := k / per / LRec.ey r
  (x + LRec.ex r * (y + LRec.ey r * z), x, y, z)

/-- A band as it starts (R288). -/
def mkBand (r : LRec) (launch part core gang k p snap now : Nat) (used : List Nat) : Band :=
  let at_ := LRec.place r k p
  {
    launch := launch, ctx := LRec.ctx r, part := part, core := core, gang := gang, gangPos := p
    gangSize := LRec.gang r, index := at_.1, x := at_.2.1, y := at_.2.2.1, z := at_.2.2.2
    width := LRec.width r, base8 := LRec.base8 r, ext8 := LRec.ext8 r, spillBytes := LRec.spill r, padBytes := LRec.pad r
    prio := LRec.prio r, pclass := fld (LRec.d r 2) 60 59, comm := fld (LRec.d r 2) 62 62 == 1
    trapEntry := LRec.d r 1, since := now, wefts := startWefts r snap used
    pad := [], signals := [], old := [], absent := [], ctr := [], ctrFault := [], it := [], bar := [], mq := [], mfault := none
    restartable := fld (LRec.d r 2) 61 61 == 1, wroteFar := false, stopped := false, state := .resident
    save := none, image := 0 }

/-- Place a gang of a launch on cores, position by position (R286 to R288). -/
def State.startGang (s : State) (id : Nat) (l : Launch) (k : Nat) (cores : List Nat) : State :=
  let s := s.instant
  let base := s.stamp
  let s := { s with stamp := s.stamp + cores.length, gangs := SMap.insert s.gangs base ⟨(List.range cores.length).map (fun p => base + p), []⟩ }
  let s := cores.zipIdx.foldl (fun (s : State) e =>
    let b := mkBand l.doubles id l.part e.1 base k e.2 s.clock s.now (s.slotsOn e.1)
    { s with bands := SMap.insert s.bands (base + e.2) b }) s
  { s with launches := SMap.modify s.launches id (fun l => { l with next := l.next + 1, last := cores.getLast? }) }

/-- A weft as it returns from a save (R302): its latch queue is empty, it forms anew, and a weft that held its extended block,
or still waited for it, waits for it. -/
def Weft.restored (w : Weft) (slot snap : Nat) : Weft :=
  { w with
    slot := slot, snap := snap, latches := [], chain := none, bundle := 0, reform := true, slotCycles := 0
    stop := if w.ext || w.stop == some .block then some .block else none, ext := false }

/-- The requests that a restored weft makes for its extended block (R177, R302): its own where it held the block, then one for
each bundle that stands parked at an RACQ. -/
def Weft.blockRequests (w : Weft) : List W64 :=
  let parked := (List.range w.lanes.length).filter (fun l => (w.lane l).state == .parked .block)
  let groups := (parked.map (fun l => ((w.lane l).pc, (w.lane l).run))).eraseDups
  (if w.stop == some .block then [0] else [])
    ++ groups.map (fun g => laneMask (parked.filter (fun l => ((w.lane l).pc, (w.lane l).run) == g)))

/-- A saved band returns to a core (R302); the save engine reads its image (R371). -/
def State.restoreBand (s : State) (b core : Nat) : State :=
  let saved := (s.band? b).any (fun x => x.image != 0)
  let s := s.instant
  let used := s.slotsOn core
  let s := s.modBand b (fun bd =>
    let r := bd.wefts.foldl (fun (a : List Weft × List Nat) w =>
      if w.retired then (a.1 ++ [w], a.2) else
      let slot := leastSlot a.2
      (a.1 ++ [w.restored slot s.clock], a.2 ++ [slot])) ([], used)
    { bd with core := core, wefts := r.1, state := .resident, image := 0, save := none, since := s.now })
  match s.band? b with
  | none => s
  | some bd =>
    let wait := (bd.wefts.mapIdx (fun i w => w.blockRequests.map (fun m => (b, i, m)))).flatten
    let s := (s.modCore core (fun c => { c with grants := c.grants ++ wait })).grant core
    if saved then s.sendImage (.restore b) (dieOf core) else s

/-- The retired members of a gang move with its shape (R181). -/
def State.moveReserved (s : State) (gang pos core : Nat) : State :=
  { s with bands := s.bands.map (fun e =>
      if e.2.gang = gang ∧ e.2.gangPos = pos ∧ e.2.state = .retired then (e.1, { e.2 with core := core, image := 0 }) else e) }

/-- The cores after one, and round to it (R285). -/
def searchFrom (cores : List Nat) (last : Option Nat) : List Nat :=
  match last with
  | none => cores
  | some c => cores.filter (fun x => decide (c < x)) ++ cores.filter (fun x => decide (x ≤ c))

/-- Return a saved band, or its whole gang where every other member has left its core (R302). None when it does not fit. -/
def State.placeSaved (s : State) (l : Launch) (p : Partition) (b : Nat) (bd : Band) : Option State :=
  let gang := (s.bands.filter (fun e => e.2.gang == bd.gang))
  let dies := if bd.image = 0 then [0, 1, 2, 3] else [dieOf bd.core]
  if bd.gangSize = 1 then
    ((searchFrom p.cores l.last).find? (fun c => dies.contains (dieOf c) && s.fits (Need.ofBand bd) c)).map
      (fun c => let s := s.restoreBand b c
                { s with launches := SMap.modify s.launches bd.launch (fun l => { l with last := some c }) })
  else if s.gangHeld bd.gang then
    if s.fits (Need.ofBand bd) bd.core then some (s.restoreBand b bd.core) else none
  else
    let dies := if gang.all (fun e => e.2.image == 0 && e.2.state != .retired) then [0, 1, 2, 3] else [dieOf bd.core]
    let at_ := fun (a : Nat × Nat × Nat) q => shapeCore bd.gangSize a.1 a.2.1 a.2.2 q
    let fresh := gang.countP (fun e => e.2.image == 0 && e.2.state != .retired)
    let ok := fun (a : Nat × Nat × Nat) => gang.all (fun e =>
      let n := Need.ofBand e.2
      s.fits (if e.2.state = .retired then { n with wefts := 0, ext8 := 0, regions := 0 }
        else if e.2.image = 0 then { n with regions := fresh } else n) (at_ a e.2.gangPos))
    ((p.anchors bd.gangSize dies).find? ok).map (fun a =>
      let s := gang.foldl (fun (s : State) e =>
        if e.2.state = .retired then s.moveReserved bd.gang e.2.gangPos (at_ a e.2.gangPos)
        else s.restoreBand e.1 (at_ a e.2.gangPos)) s
      { s with launches := SMap.modify s.launches bd.launch (fun l => { l with last := some (at_ a (bd.gangSize - 1)) }) })

/-- Place the next gang of a launch (R285, R286). None when it does not fit. -/
def State.placeNext (s : State) (id : Nat) (l : Launch) (p : Partition) : Option State :=
  let r := l.doubles
  let n := Need.ofRec r
  if LRec.gang r = 1 then
    ((searchFrom p.cores l.last).find? (s.fits n)).map (fun c => s.startGang id l l.next [c])
  else
    let cores := fun (a : Nat × Nat × Nat) => (List.range (LRec.gang r)).map (shapeCore (LRec.gang r) a.1 a.2.1 a.2.2)
    ((p.anchors (LRec.gang r) [0, 1, 2, 3]).find? (fun a => (cores a).all (s.fits n))).map
      (fun a => s.startGang id l l.next (cores a))

/-- The effective priority of a head (R284): a launch that is partly placed keeps what it had reached. -/
def State.effHead (s : State) (l : Launch) : Nat :=
  let k := fld (s.kget (.psched l.part)) 3 0
  let aged := LRec.prio l.doubles + (if k = 0 then 0 else (s.now - l.headAt.getD s.now) / (1000 * 2 ^ k))
  if l.next = 0 then min 7 aged else l.eff.getD (min 7 aged)

/-- Whether a gang has waited 100 µs since its first failed attempt (R287). -/
def Launch.bypassEnded (l : Launch) (now : Nat) : Bool := !l.failed && l.firstFail.any (fun t => decide (t + 100000 ≤ now))

/-- Whether smaller gangs may no longer place because a waiting gang's bypass has ended (R287). -/
def State.bypassed (s : State) (id : Nat) (l : Launch) (eff : Nat) : Bool :=
  s.launches.any (fun e => e.1 != id && e.2.part == l.part && e.2.bypassEnded s.now
    && decide (LRec.gang l.doubles < LRec.gang e.2.doubles) && decide (eff ≤ s.effHead e.2))

/-- Place bands of a head until one does not fit or none remains (R284); fuel bounds the bands. The flag says whether any was
placed. -/
def State.placeHead (s : State) (id eff : Nat) : Nat → State × Bool
  | 0 => (s, false)
  | fuel + 1 =>
    match SMap.find? s.launches id with
    | none => (s, false)
    | some l =>
      match s.part? l.part with
      | none => (s, false)
      | some p =>
        if s.bypassed id l eff then (s, false) else
        let saved := List.find? (fun (e : Nat × Band) => e.2.launch == id && e.2.state == .saved) s.bands
        if saved.isNone && decide (LRec.gangs l.doubles ≤ l.next) then (s.dequeue id, true) else
        let go := match saved with
          | some e => s.placeSaved l p e.1 e.2
          | none => s.placeNext id l p
        match go with
        | some s =>
          let s := { s with launches := SMap.modify s.launches id (fun l =>
            { l with eff := some eff, headAt := some s.now, firstFail := none, bypassOver := false }) }
          ((s.placeHead id eff fuel).1, true)
        | none =>
          ({ s with launches := SMap.modify s.launches id (fun l =>
              if 1 < LRec.gang l.doubles && l.firstFail.isNone then { l with firstFail := some s.now }
              else l) }, false)

/-- The heads of a partition's queues. -/
def Partition.heads (p : Partition) : List (Nat × Nat) :=
  p.queues.filterMap (fun e => e.2.head?.map (fun id => (e.1, id)))

/-- Mark launches that have become heads with the time (R284). -/
def State.markHeads (s : State) (part : Nat) : State :=
  match s.part? part with
  | none => s
  | some p => p.heads.foldl (fun (s : State) h =>
      { s with launches := SMap.modify s.launches h.2 (fun l => if l.headAt.isNone then { l with headAt := some s.now } else l) }) s

/-- Whether a launch's dependence counter has err set (R282). -/
def State.depFailed (s : State) (l : Launch) : Bool :=
  fld (LRec.d l.doubles 5) 12 12 == 1 && (SMap.get s.lcc 0 (fld (LRec.d l.doubles 5) 11 0)).getLsbD 63

/-- Whether a launch's dependence is met (R282). -/
def State.depMet (s : State) (l : Launch) : Bool :=
  fld (LRec.d l.doubles 5) 12 12 == 0 || countReached (SMap.get s.lcc 0 (fld (LRec.d l.doubles 5) 11 0)) (LRec.d l.doubles 6)

/-- A head whose dependence has failed, with no band placed (R282). -/
def State.badHead (s : State) (part : Nat) : Option (Nat × Launch) :=
  (s.part? part).bind (fun p => p.heads.findSome? (fun h => (SMap.find? s.launches h.2).bind (fun l =>
    if l.next = 0 && s.depFailed l then some (h.2, l) else none)))

/-- Heads whose dependence has failed fail at once, and so do those that become heads so (R282, R292); fuel bounds them. -/
def State.failHeads (s : State) (part : Nat) : Nat → State
  | 0 => s
  | fuel + 1 =>
    match s.badHead part with
    | none => s
    | some (id, l) =>
      (({ s with launches := SMap.insert s.launches id { l with failed := true } }).endLaunch id).failHeads part fuel

/-- The candidates of a selection in their order (R284): (queue, launch, effective priority). -/
def State.candidates (s : State) (p : Partition) : List (Nat × Nat × Nat) :=
  let rot := p.heads.filter (fun h => decide (p.lastQueue < h.1)) ++ p.heads.filter (fun h => decide (h.1 ≤ p.lastQueue))
  let all := rot.filterMap (fun h =>
    (SMap.find? s.launches h.2).bind (fun l => if 0 < l.next || s.depMet l then some (h.1, h.2, s.effHead l) else none))
  [7, 6, 5, 4, 3, 2, 1, 0].flatMap (fun e => all.filter (fun c => c.2.2 == e))

/-- A selection (R284); the flag says whether it did anything. -/
def State.select (s : State) (part : Nat) : State × Bool :=
  let s0 := s.markHeads part
  let s1 := (s0.failHeads part s0.launches.length).markHeads part
  match s1.part? part with
  | none => (s, false)
  | some p =>
    let r := (s1.candidates p).foldl (fun (a : State × Bool) c =>
      let x := a.1.placeHead c.2.1 c.2.2 (LRec.gangs ((SMap.find? s1.launches c.2.1).map (fun l => l.doubles) |>.getD []) + s1.bands.length + 1)
      if x.2 then (x.1.modPart part (fun p => { p with lastQueue := c.1 }), true) else (x.1, a.2)) (s1, false)
    let failed := decide (s1.launches.length ≠ s0.launches.length)
    let marked := decide (s0.launches ≠ s.launches) || decide (r.1.launches ≠ s1.launches)
    (r.1, r.2 || failed || marked)

/-- SCHEDULER_SELECTION (R284). -/
def execSchedulerSelection (part : Nat) (s : State) : Out :=
  let r := s.select part
  if r.2 then .next r.1 else .refused (.notPending "SCHEDULER_SELECTION")

/-- GANG_BYPASS_TIMEOUT (R287): 100 µs after a gang's first failed attempt. -/
def execGangBypassTimeout (launch : Nat) (s : State) : Out :=
  match SMap.find? s.launches launch with
  | none => .refused (.notPending "GANG_BYPASS_TIMEOUT")
  | some l =>
    match l.firstFail with
    | none => .refused (.notPending "GANG_BYPASS_TIMEOUT")
    | some t =>
      if l.bypassOver || decide (s.now < t + 100000) then .refused (.notPending "GANG_BYPASS_TIMEOUT")
      else .next { s with launches := SMap.insert s.launches launch { l with bypassOver := true } }

/-- Set a port's status after a rejection (R281). -/
def State.rejectPort (s : State) (part port reason off : Nat) (drop : Bool) : State :=
  s.modPart part (fun p =>
    let x := SMap.get p.ports LPort.empty port
    let x := { x with reason := reason, offset := if reason = 4 then off else x.offset }
    { p with ports := SMap.set p.ports LPort.empty port (if drop then { x with first := none, second := none } else x) })

/-- Replace a port. -/
def State.setPort (s : State) (part port : Nat) (x : LPort) : State :=
  s.modPart part (fun p => { p with ports := SMap.set p.ports LPort.empty port x })

/-- A port's state. -/
def State.port (s : State) (part port : Nat) : LPort :=
  ((s.part? part).map (fun p => SMap.get p.ports LPort.empty port)).getD LPort.empty

/-- LAUNCH_PORT_FIRST_HALF (R280). -/
def execLaunchPortFirstHalf (part port off : Nat) (data : List W64) (s : State) : Out :=
  if (s.part? part).isNone || decide (64 ≤ port) then .refused (.notPending "LAUNCH_PORT_FIRST_HALF") else
  if off ≠ 0 ∨ data.length ≠ 8 then .next (s.rejectPort part port 1 0 false) else
  .next (s.setPort part port { s.port part port with first := some data })

/-- LAUNCH_PORT_SECOND_HALF (R280, R281). -/
def execLaunchPortSecondHalf (part port off : Nat) (data : List W64) (s : State) : Out :=
  if (s.part? part).isNone || decide (64 ≤ port) then .refused (.notPending "LAUNCH_PORT_SECOND_HALF") else
  if off ≠ 0x40 ∨ data.length ≠ 8 then .next (s.rejectPort part port 1 0 false) else
  let x := s.port part port
  if fld (LRec.d data 7) 63 63 = 0 then .next (s.setPort part port { x with second := some data }) else
  match x.first with
  | none => .next (s.rejectPort part port 2 0 true)
  | some h =>
    let r : LRec := h ++ data
    let c := s.checkRecord part port r
    if c.1 ≠ 0 then .next (s.rejectPort part port c.1 c.2 true) else
    let s := s.setPort part port { x with first := none, second := none, accepted := (x.accepted + 1) % 2 ^ 16 }
    .next (s.queueRecord part port r)

/-- LAUNCH_COUNTER_WRITE (R282): as CSET; the reserved bits read zero. -/
def execLaunchCounterWrite (n : Nat) (v : W64) (s : State) : Out :=
  if Config.counters ≤ n then .refused (.notPending "LAUNCH_COUNTER_WRITE") else
  .next { s with lcc := SMap.set s.lcc 0 n (v &&& (maskBits 63 63 ||| maskBits 47 0)) }

/-- LAUNCH's record of 128 bytes as doubles. -/
def doublesOf : Nat → List Byte → List W64
  | 0, _ => []
  | n + 1, bs => BitVec.ofNat 64 (leNat (bs.take 8)) :: doublesOf n (bs.drop 8)

/-- What LAUNCH does once its publish and wait have ended (R293): the checks, the record's queueing, and the status. -/
def State.launchNow (s : State) (b i dst : Nat) (bs : List Byte) : State :=
  match s.band? b with
  | none => s
  | some bd =>
    let r : LRec := doublesOf 16 bs
    let q := fld (LRec.d r 15) 5 0
    let c := s.checkRecord bd.part q r
    let s := if c.1 = 0 then s.queueRecord bd.part q r else s
    s.modWeft b i (fun w =>
      { w.sset dst (BitVec.ofNat 64 (c.2 * 256 + c.1)) with
        await := w.await.filter (fun a => a.key != 256 + dst || a.req != 2 ^ 64) })

/-- LAUNCH (R293): the status register awaits the publish and wait that it makes as PHASE.dev does. -/
def execLaunch (dst : Fin 64) (a : Operand) (die : Bool) (g : Guard) (s : State) : Out :=
  let fd := feField true a
  let needs := feNeeds [(1, fd)] []
  let sp := if die then Space.die else Space.band
  runOnceEnding g needs [fd] (fun s b i bd w lanes chk =>
    let addr := fd.value w (lanes.headD 0)
    let at_ : Except Nat (Place × Nat) :=
      if addr.toNat % 128 ≠ 0 then .error 1 else s.nearAddr b bd die (dieOf bd.core) addr.toNat 128 false
    match at_ with
    | .error r => chk (some (nearCause false 0 sp r addr)) (fun _ => .next s.stall)
    | .ok (p, off) =>
      let gone := s.absentLines p off 128
      if !gone.isEmpty then chk none (fun _ => .next (s.parkWord b i bd w needs.latch (.lines gone))) else
      if w.held? .lane die || w.phase.isSome then chk none (fun _ => .next s.stall) else
      chk (s.flawAt p off 128) <| fun _ =>
      let r := s.nearRead b i bd w (.at_ p off) 128 false
      let s := r.2.finish b i bd w needs.latch {}
      let ends := bd.wroteFar
      let s := s.modBand b (fun x => { x with restartable := false })
      .next (s.modWeft b i (fun v =>
        { v with phase := some ⟨.dev, s.stamp, false, ends, some (dst.val, r.1)⟩, await := v.await ++ [⟨256 + dst.val, 0, 2 ^ 64⟩] }))) s

end Sys2Proof.Machine
end

