-- ==== Sys2Proof/Machine/Far.lean ====
section
/-! DEFINITION. FLOAD, FSTORE and FATOM as they issue (R215, R216, R223, R224). -/
namespace Sys2Proof.Machine

/-- The far requests of lanes that a core has outstanding (R215). -/
def State.farLoad (s : State) (core : Nat) : Nat :=
  s.reqs.countP (fun e => (match e.2.who with
    | .lane _ _ _ => true
    | _ => false) && e.2.core == core)

/-- What a far word is: its opcode, operation, access size, first data register, the registers it reads and those its reply
writes. -/
structure FarWord where
  opc : Nat
  op : FarOp
  len : Nat
  dst : Nat
  reads : Nat
  writes : Nat
  ctr : Option Nat

/-- The registers it names. -/
def FarWord.regs (x : FarWord) : List Nat := (List.range (max x.reads x.writes)).map (fun k => x.dst + k)

/-- Group 10, reason 7 (R216, R259). -/
def farAlignCause (opc : Nat) (a : W64) : Cause := ⟨10, 7, BitVec.ofNat 96 (a.toNat * 2 ^ 32 + opc), false⟩

/-- What a far word needs. -/
def farNeeds (x : FarWord) (a b : Operand) : Needs :=
  let n := feNeeds [(1, feField true a), (2, feField false b)] []
  { n with regs := n.regs ++ x.regs, keys := n.keys ++ (List.range x.reads).map (fun k => x.dst + k) }

/-- Run a far word (R215, R223, R224): one request for each acting lane that is not a helper. The issue
of a FATOM clears the restartable bit (R306). -/
def runFar (x : FarWord) (a b : Operand) (g : Guard) (s : State) : Out :=
  let fa := feField true a
  let fb := feField false b
  let data := (List.range x.reads).map (fun k => x.dst + k)
  let needs := farNeeds x a b
  s.issue needs (fun bi i bd w =>
    let lanes := w.nonHelpers (w.act g)
    let addr := fun l => fa.value w l + ((fb.value w l).setWidth 32).signExtend 64
    let marks := fun l => fa.marks w l ++ fb.marks w l ++ data.filterMap (fun r => w.mark r l)
    let cause := fun l => pickCause ((marks l).foldl (fun a c => pickCause a (some c)) none)
      (if (addr l).toNat % x.len ≠ 0 then some (farAlignCause x.opc (addr l)) else none)
    let bad := lanes.filterMap (fun l => (cause l).map (fun c => ({ lane := l, cause := some c } : LaneEff)))
    let ok := lanes.filter (fun l => (cause l).isNone)
    let ends := match x.op with
      | .atom _ _ _ => true
      | _ => false
    if !bad.isEmpty && (w.chainFor (needs.latch.map (fun r => r.2))).isSome then
      .next ((s.finish bi i bd w needs.latch { lanes := bad }).endRestart bi ends)
    else if !ok.isEmpty && (w.held? .copy true || decide (1024 < s.farLoad bd.core + ok.length)) then .next s.stall
    else
      let s' := (s.finish bi i bd w needs.latch { lanes := bad }).endRestart bi ends
      let s' := if x.op.writes && !ok.isEmpty then s'.modBand bi (fun y => { y with wroteFar := true }) else s'
      .next (ok.foldl (fun s l =>
        let id := s.stamp
        let r := FarReq.make (.lane bi i l) x.op bd (addr l) x.len .segment
        let s := s.sendReq { r with data := leBytes (4 * x.reads) (w.regsVal x.dst x.reads l), dst := x.dst, ctr := x.ctr, snap := w.snap }
        if x.writes = 0 then s else
        s.modWeft bi i (fun v => { v with await := v.await ++ (List.range x.writes).map (fun k => ⟨x.dst + k, l, id⟩) })) s'))

/-- The bytes of a size code (R223). -/
def FFar.bytes (f : FFar) : Nat := 4 * 2 ^ f.size.val

/-- FLOAD as a far word. -/
def floadWord (f : FFar) : FarWord := ⟨0x123, .load, FFar.bytes f, f.dst.val, 0, FFar.bytes f / 4, f.ctr.map Fin.val⟩

/-- FSTORE as a far word. -/
def fstoreWord (f : FFar) : FarWord := ⟨0x124, .store, FFar.bytes f, f.dst.val, FFar.bytes f / 4, 0, f.ctr.map Fin.val⟩

/-- FATOM as a far word. -/
def fatomWord (f : FFatom) : FarWord :=
  let k := if f.w64 then 2 else 1
  ⟨0x125, .atom f.op f.w64 f.nr, 4 * k, f.dst.val, if f.op == .cas then 2 * k else k, if f.nr then 0 else k, f.ctr.map Fin.val⟩

/-- FLOAD (R223). -/
def execFload (f : FFar) (s : State) : Out := runFar (floadWord f) f.a f.b f.guard s

/-- FSTORE (R223). -/
def execFstore (f : FFar) (s : State) : Out := runFar (fstoreWord f) f.a f.b f.guard s

/-- FATOM (R224). -/
def execFatom (f : FFatom) (s : State) : Out := runFar (fatomWord f) f.a f.b f.guard s

end Sys2Proof.Machine
end

