-- ==== Sys2Proof/Machine/Ticket.lean ====
section
/-! DEFINITION. Tickets and the ends of collectives at this device's ranks (R338, R342, R343, R346). -/
namespace Sys2Proof.Machine

/-- Group 14 (R346, R259). -/
def collCause (reason comm : Nat) (call : W32) (number : BitVec 48) : Cause :=
  ⟨14, reason, BitVec.ofNat 96 (call.toNat * 2 ^ 64 + comm % 2 ^ 16 * 2 ^ 48 + number.toNat), false⟩

/-- A ticket slot. -/
def State.ticket? (s : State) (ctx slot : Nat) : Option Ticket := (s.ctx? ctx).bind (fun c => SMap.find? c.tickets slot)

/-- Change a ticket. -/
def State.modTicket (s : State) (ctx slot : Nat) (f : Ticket → Ticket) : State :=
  s.modCtx ctx (fun c => { c with tickets := SMap.modify c.tickets slot f })

/-- A number's entry. -/
def State.number? (s : State) (n : BitVec 48) : Option BNum := SMap.find? s.numbers n.toNat

/-- Change a number's entry. -/
def State.modNumber (s : State) (n : BitVec 48) (f : BNum → BNum) : State :=
  { s with numbers := SMap.modify s.numbers n.toNat f }

/-- Every ticket of a partition for a number. -/
def State.ticketsOf (s : State) (part : Nat) (n : BitVec 48) : List (Nat × Nat) :=
  s.ctxs.flatMap (fun c => if c.2.part = part then
    (c.2.tickets.filter (fun t => t.2.number == some n)).map (fun t => (c.1, t.1)) else [])

/-- A number ends at the rank of a partition of this device (R338). -/
def State.endRank (s : State) (part : Nat) (n : BitVec 48) (e : CollEnd) : State :=
  let s := (s.ticketsOf part n).foldl (fun (s : State) x =>
    s.modTicket x.1 x.2 (fun t => { t with fin := t.fin.or (some e) })) s
  s.modNumber n (fun x => { x with mine := SMap.insert x.mine part e })

/-- The collective of a ticket ends at this rank. -/
def State.endTicket (s : State) (ctx slot : Nat) (e : CollEnd) : State :=
  match (s.ticket? ctx slot).bind (fun t => t.number) with
  | none => s
  | some n => s.endRank (((s.ctx? ctx).map (fun c => c.part)).getD 0) n e

/-- A source read or a transfer of this rank ends in error (R343): the counter records it and the rank ends ABORTED with
reason 5. -/
def State.failRun (s : State) (ctx slot : Nat) (c : Cause) : State :=
  match s.ticket? ctx slot with
  | none => s
  | some t =>
    match t.run with
    | none => s
    | some r => (s.failCount r.band r.ctr c).endTicket ctx slot (.aborted 5)

/-- The number of a key, with its entry. -/
def State.keyNumber (s : State) (comm : Nat) (call : W32) : Option (Nat × BNum) :=
  List.find? (fun e => e.2.comm == comm && e.2.call == call) s.numbers

/-- The number of a key, or 0 where none has been assigned (R259). -/
def State.numberOf (s : State) (comm : Nat) (call : W32) : BitVec 48 :=
  ((s.keyNumber comm call).map (fun x => BitVec.ofNat 48 x.1)).getD 0

end Sys2Proof.Machine
end

