-- ==== Sys2Proof/Machine/Translate.lean ====
section
/-! DEFINITION. A far request on its way: the three stages (R312 to R317), the hold queues (R322), the HBM channels (R371 to
R375, R379), page-in, ATS and PRI (R314), and how it ends at its requester (R217, R223, R224, R305, R326). -/
namespace Sys2Proof.Machine

/-- The access kind of a request (R259, R326). -/
def FarReq.access (r : FarReq) : Access :=
  match r.op, r.who with
  | .load, .fetch _ _ => .fetch
  | .load, _ => .read
  | .store, _ => .write
  | .atom _ _ _, _ => .atomic
  | .probe 0, _ => .read
  | .probe 1, _ => .write
  | .probe 2, _ => .atomic
  | .probe _, _ => .fetch

/-- Whether the request is a probe. -/
def FarReq.isProbe (r : FarReq) : Bool :=
  match r.op with
  | .probe _ => true
  | _ => false

/-- Whether a request never pages in: a PROBE (R326), a request of a peer (R317), or one of the device. -/
def FarReq.firm (r : FarReq) : Bool :=
  r.isProbe || (match r.who with
    | .peer _ _ _ => true
    | .dev _ => true
    | _ => false)

/-- Whose rights are checked (R312). -/
def FarReq.origin (r : FarReq) : Origin :=
  match r.who with
  | .peer acc _ _ => .peer acc
  | _ => .own

/-- The weft a request belongs to. -/
def FarReq.weft (r : FarReq) : Option (Nat × Nat) :=
  match r.who with
  | .lane b i _ => some (b, i)
  | .probe b i _ => some (b, i)
  | .fetch b i => some (b, i)
  | _ => none

/-- A request. -/
def State.req? (s : State) (id : Nat) : Option FarReq := SMap.find? s.reqs id

/-- Put a request back. -/
def State.setReq (s : State) (id : Nat) (r : FarReq) : State := { s with reqs := SMap.insert s.reqs id r }

/-- Remove a request. -/
def State.dropReq (s : State) (id : Nat) : State := { s with reqs := SMap.erase s.reqs id }

/-- A port. -/
def State.uport (s : State) (p : Nat) : Port := SMap.get s.ports Port.idle p

/-- Change a port. -/
def State.modUport (s : State) (p : Nat) (f : Port → Port) : State :=
  { s with ports := SMap.set s.ports Port.idle p (f (s.uport p)) }

/-- A request leaves its port's egress queue. -/
def State.leaveEgress (s : State) (port req : Nat) : State :=
  s.modUport port (fun p =>
    let q := p.egress.filter (fun x => x != req)
    { p with egress := q, filledAt := if q.isEmpty then none else p.filledAt })

/-- The port a request waits on or was sent by. -/
def FarReq.portOf (r : FarReq) : Option Nat :=
  match r.stage with
  | .egress p => some p
  | .sent p => some p
  | _ => none

/-- The receive limit of a virtual channel (R329): an equal share of the pool until the first window ends (log 15). -/
def Port.limit (p : Port) (vc : Nat) : Nat := SMap.get p.limits 1024 vc

/-- The receive credits of a channel that the partner holds. -/
def Port.holds (p : Port) (vc : Nat) : Nat := SMap.get p.granted 1024 vc

/-- Release credits to the channels that stand below their limits, lowest first, as far as the pool of 4096 allows (R329). -/
def Port.release (p : Port) : Port :=
  (List.range 4).foldl (fun (p : Port) v =>
    let out := (List.range 4).foldl (fun a x => a + p.holds x) 0
    let n := min (p.limit v - p.holds v) (4096 - out)
    { p with granted := SMap.set p.granted 1024 v (p.holds v + n) }) p

/-- Credits that a served request used come back (R328, R329): those above the channel's limit are withheld and go to others. -/
def Port.reclaim (p : Port) (vc n : Nat) : Port :=
  Port.release { p with granted := SMap.set p.granted 1024 vc (p.holds vc - min n (p.holds vc - p.limit vc)) }

/-- The credits of 64 bytes that a request takes (R327; log 15): 32 bytes and the payload. -/
def creditsFor (payload : Nat) : Nat := (32 + payload + 63) / 64

/-- The bytes that a response carries (R326, R327): the data, or the 8 bytes of a ZN-160's fault. -/
def respBytes (ans : FarAnswer) : Nat :=
  match ans with
  | .data bs => bs.length
  | .ownerFault _ _ _ _ => 8
  | _ => 0

/-- The virtual channel that a peer's request came on (R327, R371). -/
def FarReq.vc (r : FarReq) : Nat := if r.cls = 0 then 2 else 0

/-- A peer's request leaves its port's receive buffer (R322, R328): its credits come back. -/
def State.freeRoom (s : State) (r : FarReq) : State :=
  match r.who with
  | .peer _ _ port => if r.room = 0 then s else s.modUport port (fun p => p.reclaim r.vc r.room)
  | _ => s

/-- A request is over: where a peer's response has brought that, the response leaves its port's receive buffer (R329). -/
def State.endReq (s : State) (id : Nat) (r : FarReq) (ans : FarAnswer) : State :=
  match r.stage with
  | .sent p => (s.modUport p (fun x => x.reclaim 1 (creditsFor (respBytes ans)))).dropReq id
  | _ => s.dropReq id

/-- A message of a collective or of the beacon comes in at a port, which the manual does not name (log 59), and leaves its receive
buffer (R329). -/
def State.arrives (s : State) (vc payload : Nat) : State :=
  s.tick.modUport (Config.freeNat s.freeCtr % Config.ports) (fun p => p.reclaim vc (creditsFor payload))

/-- The address of the entry that a request meets at its stage, or waits for there (R311, R315, R316). -/
def State.entryOf (s : State) (r : FarReq) : Option Nat :=
  let seg := fld (s.kget (.pseg r.part)) 55 12 * 4096 + 16 * segLabel r.addr
  match r.stage with
  | .segment => some seg
  | .region a _ => some (a + 16 * regLabel r.addr)
  | .block st _ bt _ => some (st * 2 ^ 36 + bt + 8 * blkLabel r.addr)
  | .hold 1 => some seg
  | .hold 2 => r.region.map (fun x => x.1 + 16 * regLabel r.addr)
  | .hold _ => r.blockAt.map (fun x => x.1 * 2 ^ 36 + x.2.2.1 + 8 * blkLabel r.addr)
  | _ => none

/-- Whether a request is held. -/
def FarReq.isHeld (r : FarReq) : Bool :=
  match r.stage with
  | .hold _ => true
  | _ => false

/-- Whether a request that was held at the same entry goes on first: held requests are released in the order of their arrival
(R319, R322). -/
def State.behindHeld (s : State) (r : FarReq) : Bool :=
  s.reqs.any (fun e => e.2.held != 0 && !e.2.isHeld && (r.held == 0 || decide (e.2.held < r.held))
    && (s.entryOf e.2).isSome && s.entryOf e.2 == s.entryOf r)

/-- Whether a request must wait at its stage: behind one that was held, or for an entry that the stage's cache lacks (R316). -/
def State.stageWaits (s : State) (req : Nat) (r : FarReq) : Bool := s.behindHeld r || s.working (.table req)

/-- The requests held at a stage of a die (R322): at the block stage, of a base die. -/
def State.heldAt (s : State) (stage : Nat) (r : FarReq) : Nat :=
  s.reqs.countP (fun e => e.2.stage == .hold stage &&
    (if stage = 3 then (e.2.blockAt.map (fun b => b.1)) == (r.blockAt.map (fun b => b.1)) else e.2.home == r.home))

/-- A request goes back to its engine, from which it starts again (R264, R322). -/
def FarReq.back (r : FarReq) (stage : FarStage) : FarReq :=
  { r with stage := stage, passed := [], region := none, blockAt := none, held := 0 }

/-- A request meets an entry that is moving: held, or sent back with RETRY when the queue is full (R322). A request of a peer
never gets RETRY, nor one of the device: it stays where it is, and a peer's keeps its credits. -/
def State.holdReq (s : State) (id : Nat) (r : FarReq) (stage : Nat) : Option State :=
  if s.heldAt stage r < 256 then
    some ((s.freeRoom r).nextStamp.setReq id { r with
      stage := .hold stage, heldOnce := true, held := s.stamp, retry := if r.retry = stage then 0 else r.retry, room := 0 })
  else match r.who with
    | .peer _ _ _ => none
    | .dev _ => none
    | _ => some (s.setReq id { r.back (.retry stage) with retry := stage })

/-- A request passes an entry of a stage and goes on (R320, R322). -/
def FarReq.pass (r : FarReq) (stage pa : Nat) (next : FarStage) : FarReq :=
  { r with stage := next, passed := r.passed ++ [pa], held := 0, retry := if r.retry = stage then 0 else r.retry }

/-- The result of a PROBE that ends in a fault or an error (R326). -/
def probeFailed (owner : Nat) (rights : Nat) (held : Bool) (c : Cause) : W64 :=
  let outcome := if c.group = 8 then 1 else if c.group = 9 then 2 else 3
  let stage := if outcome = 3 then 0 else c.detail.toNat / 2 ^ 84 % 4
  let label := if outcome = 3 then 0 else c.detail.toNat / 2 ^ 64 % 2 ^ 20
  let own := if outcome = 3 then owner else c.detail.toNat / 2 ^ 86 % 4
  BitVec.ofNat 64 (outcome * 2 ^ 62 + c.reason * 2 ^ 56 + stage * 2 ^ 54 + own * 2 ^ 52 + rights * 2 ^ 48
    + (if held then 2 ^ 47 else 0) + label * 2 ^ 16)

/-- The result of a PROBE that an access would pass (R326). -/
def probePassed (owner rights : Nat) (held : Bool) (where_ cgroup : Nat) : W64 :=
  BitVec.ofNat 64 (owner * 2 ^ 52 + rights * 2 ^ 48 + (if held then 2 ^ 47 else 0) + where_ * 2 ^ 40 + cgroup * 2 ^ 37)

/-- A peer's request has ended: its response waits at its port (R327, R397). -/
def State.respond (s : State) (id : Nat) (r : FarReq) (ans : FarAnswer) : State :=
  (s.freeRoom r).setReq id { r with stage := .respond ans, room := 0 }

/-- What a peer is told of an error (R397, R313, R362): a ZN-160 the fault with the rights that its request has, another make a UALink
status; and of data that an uncorrected error or a refused activation keeps back, poison (log 15). -/
def errorAnswer (src : Nat) (c : Cause) (rights : Nat) : FarAnswer :=
  if c.group ≠ 8 ∧ c.group ≠ 9 then .poisoned
  else if Config.znPeer src then .ownerFault c.group c.reason (c.detail.toNat / 2 ^ 84 % 4) rights
  else if c.group = 9 then .aborted else .unsupported

/-- A request ends in error: its response goes back. A block that a move no longer finds in the old table is not copied (R321). -/
def State.failReq (s : State) (id : Nat) (r : FarReq) (c : Cause) : State :=
  match r.who with
  | .peer src _ _ => s.respond id r (errorAnswer src c r.rights)
  | .dev _ => if c.group = 8 then s.dropReq id else s.setReq id { r with stage := .failed c }
  | _ =>
    if r.isProbe then s.setReq id { r with stage := .probed (probeFailed r.owner r.rights r.heldOnce c) }
    else s.setReq id { r with stage := .failed c }

/-- A row refuses a request's activation, or the request meets poison (R362, R379). -/
def State.refuseReq (s : State) (id : Nat) (r : FarReq) (phys : Nat) : State :=
  let x := s.refusedRow r.part r.ctx phys r.addr
  x.2.failReq id r x.1

/-- A passing probe comes back: to a peer with the three rights that its request has (R326). -/
def State.passProbe (s : State) (id : Nat) (r : FarReq) (where_ cgroup : Nat) : State :=
  match r.who with
  | .peer _ _ _ => s.respond id r (.data (leBytes 1 (r.rights / 2)))
  | _ => s.setReq id { r with stage := .probed (probePassed r.owner r.rights r.heldOnce where_ cgroup) }

/-- The translated address that the translation cache of a die holds for an address and an access kind (R314). -/
def State.atsHit (s : State) (die tag va : Nat) (k : Access) : Option Nat :=
  (s.ats.find? (fun e => e.die == die && e.tag == tag && e.page == va / 4096 && e.kinds / 2 ^ k.code % 2 == 1)).map (fun e =>
    e.phys * 4096 + va % 4096)

/-- The translation cache of a die takes an entry (R314): it holds 2048, of which the oldest makes room (log 14). -/
def State.atsKeep (s : State) (x : AtsEntry) : State :=
  let mine := s.ats.filter (fun e => e.die == x.die && !(e.tag == x.tag && e.page == x.page))
  { s with ats := (x :: mine).take 2048 ++ s.ats.filter (fun e => e.die != x.die) }

/-- Whether a FATOM operation has a PCIe AtomicOp (R314). -/
def FarOp.hostAtom : FarOp → Bool
  | .atom .add _ _ => true
  | .atom .xchg _ _ => true
  | .atom .cas _ _ => true
  | .atom _ _ _ => false
  | _ => true

/-- Whether a port is down (R328). -/
def State.portDown (s : State) (port : Nat) : Bool := fld (s.kget (.ptmo port)) 20 20 == 1

/-- The peer timeout of a port in ns (R328). -/
def State.portTmo (s : State) (p : Nat) : Nat := 1000 * max (fld (s.kget (.ptmo p)) 19 0) 10

/-- The port that a request with no port up names: the lowest of its mask (log 15). -/
def lowestPort (mask : Nat) : Nat := ((List.range Config.ports).find? (fun p => mask / 2 ^ p % 2 == 1)).getD 0

/-- The port of a request through a mask (R313). -/
def State.pickPort (s : State) (mask label : Nat) : Option Nat :=
  let up := (List.range Config.ports).filter (fun p => mask / 2 ^ p % 2 == 1 && !s.portDown p)
  if up.isEmpty then none else up[label % up.length]?

/-- The channel of a request, which its fabric errors name (R259). -/
def State.chanOf (s : State) (r : FarReq) : Option Nat :=
  match r.who with
  | .engine id => (SMap.find? s.cmds id).bind (fun c => match c.kind with
    | .item ch _ => some ch
    | _ => none)
  | _ => none

/-- The fabric error of a request at a port (R259). -/
def State.fabricFail (s : State) (r : FarReq) (reason port : Nat) : Cause := fabricCause reason port (s.chanOf r) r.addr

/-- Whether an operation is one of the vendor's own, which only a ZN-160 serves (R327). -/
def FarOp.vendor : FarOp → Bool
  | .atom .fadd _ _ => true
  | .atom .inc _ _ => true
  | _ => false

/-- What a UALink status of a peer of another make, or the fault of a ZN-160 owner, means for a request (R313, R317): at a
peer's segment stage the label is the exported one. -/
def FarReq.peerFault (r : FarReq) (group reason stage : Nat) : Cause :=
  let label := if stage = 1 then r.wire else if stage = 2 then regLabel r.addr else blkLabel r.addr
  farCause group reason r.access 2 stage label r.addr

/-- A request enters a port's egress queue (R328, R331). -/
def State.toEgress (s : State) (id : Nat) (r : FarReq) (port : Nat) : State :=
  (s.setReq id { r with stage := .egress port, at_ := s.now }).modUport port (fun p =>
    { p with egress := p.egress ++ [id], filledAt := p.filledAt.or (some s.now) })

/-- The weft and the path that a request belongs to. -/
def State.issuerOf (s : State) (r : FarReq) : Option (Nat × Nat × Path) :=
  match r.who with
  | .engine id => (SMap.find? s.cmds id).map (fun c => (c.band, c.weft, c.path))
  | _ => r.weft.map (fun x => (x.1, x.2, .copy))

/-- Whether an earlier request of the weft on the same path to the same block was sent back with RETRY and has not been
accepted yet (R322). A request that a stage holds has been issued. -/
def State.behindRetry (s : State) (r : FarReq) : Bool :=
  r.held == 0 && s.reqs.any (fun e => e.2.retry != 0 && decide (e.2.stamp < r.stamp) && (s.issuerOf e.2).isSome
    && s.issuerOf e.2 == s.issuerOf r && e.2.addr.toNat / 4096 == r.addr.toNat / 4096)

/-- A request to the host with a translation goes on to it; a probe has passed (R314, R326). -/
def State.toHost (s : State) (req : Nat) (r : FarReq) (phys va tag : Nat) : State :=
  if r.isProbe then s.passProbe req r 0 0 else s.setReq req { r with stage := .host phys va tag }

/-- The rights that the segment entry of a request grants it, as PROBE reports them where the stage refuses it (R326): those of
a valid entry of this device. -/
def State.segRights (s : State) (r : FarReq) : Nat :=
  match s.segLook r.part r.addr with
  | .entry _ e => if e.kind = 2 then 0 else e.rightsOf r.origin
  | _ => 0

/-- FAR_REQUEST_SEGMENT_STAGE (R312, R313, R314, R317). -/
def execFarRequestSegmentStage (req : Nat) (s : State) : Out :=
  let no : Out := .refused (.notPending "FAR_REQUEST_SEGMENT_STAGE")
  match s.req? req with
  | none => no
  | some r =>
    if r.stage ≠ .segment ∨ s.behindRetry r = true ∨ s.stageWaits req r = true then no else
    let k := r.access
    match s.segStage r.part r.origin k r.isProbe r.addr with
    | .fail c => .next (s.failReq req { r with owner := c.detail.toNat / 2 ^ 86 % 4, rights := s.segRights r } c)
    | .refused pa => .next (s.refuseReq req r pa)
    | .pageIn => .next (s.setReq req (r.back (.pageIn 1)))
    | .hold _ =>
      let home := match s.segLook r.part r.addr with
        | .entry _ e => e.home
        | _ => r.home
      match s.holdReq req { r with home := home } 1 with
      | some s => .next s
      | none => no
    | .toRegion pa e =>
      .next (s.setReq req { r.pass 1 pa (.region e.rtbase e.rlog2) with
        region := some (e.rtbase, e.rlog2), home := e.home, owner := 0, rights := e.rightsOf r.origin })
    | .host pa e =>
      let r := { r.pass 1 pa .ats with home := e.home, owner := 1, rights := e.rights }
      if !r.op.hostAtom then .next (s.failReq req r (farCause 9 7 k 1 1 (segLabel r.addr) r.addr)) else
      let va := hostAddr e r.addr
      let tag := pasidTag e.pasid
      match s.atsHit e.home tag va k with
      | some phys => .next (s.toHost req r phys va tag)
      | none => .next (s.setReq req r)
    | .peer pa e =>
      let mask := r.via.getD e.mask
      let r := { r.pass 1 pa .segment with home := e.home, owner := 2, rights := 0, wire := e.exp, peer := e.peer }
      if r.op.vendor && !Config.znPeer e.peer then .next (s.failReq req r (r.peerFault 8 10 1)) else
      match s.pickPort mask (blkLabel r.addr) with
      | none => .next (s.failReq req r (s.fabricFail r 2 (lowestPort mask)))
      | some p => .next (s.toEgress req r p)

/-- REGION_STAGE_LOOKUP (R315, R317). -/
def execRegionStageLookup (req : Nat) (s : State) : Out :=
  let no : Out := .refused (.notPending "REGION_STAGE_LOOKUP")
  match s.req? req with
  | none => no
  | some r =>
    match r.stage with
    | .region rtbase rlog2 =>
      if s.stageWaits req r then no else
      match s.regStage r.part rtbase rlog2 r.access r.firm r.addr with
      | .fail c => .next (s.failReq req r c)
      | .refused pa => .next (s.refuseReq req r pa)
      | .pageIn => .next (s.setReq req (r.back (.pageIn 2)))
      | .hold _ =>
        match s.holdReq req r 2 with
        | some s => .next s
        | none => no
      | .pass pa e => .next (s.setReq req { r.pass 2 pa (.block e.stack e.cgroup e.btbase e.blog2) with
          blockAt := some (e.stack, e.cgroup, e.btbase, e.blog2) })
    | _ => no

/-- BLOCK_STAGE_ACCESS (R316, R317): the request joins its channel, with its arrival. -/
def execBlockStageAccess (req : Nat) (s : State) : Out :=
  let no : Out := .refused (.notPending "BLOCK_STAGE_ACCESS")
  match s.req? req with
  | none => no
  | some r =>
    match r.stage with
    | .block stack cgroup btbase blog2 =>
      if s.stageWaits req r then no else
      match s.blkStage r.part stack btbase blog2 r.access r.firm r.addr with
      | .fail c => .next (s.failReq req r c)
      | .refused pa => .next (s.refuseReq req r pa)
      | .pageIn => .next (s.setReq req (r.back (.pageIn 3)))
      | .hold _ =>
        match s.holdReq req r 3 with
        | some s => .next s
        | none => no
      | .pass pa e =>
        if r.isProbe then .next (s.passProbe req r stack cgroup) else
        .next ((s.freeRoom r).nextStamp.setReq req {
          r.pass 3 pa (.channel stack (4 * cgroup + e.chan) e.bank e.row (e.half * 4096 + fld r.addr 11 0)) with
          at_ := s.stamp, room := 0 })
    | _ => no

/-- Whether two far addresses lie in the same 4 KiB of storage. -/
def State.samePage (s : State) (part : Nat) (a b : W64) : Bool :=
  a.toNat / 4096 == b.toNat / 4096 || ((s.farPage part a).isSome && s.farPage part a == s.farPage part b)

/-- Whether an earlier access of the same weft on the copy path to overlapping bytes has not been performed (R202), or an earlier
write that came by the same port of a peer's (R333). -/
def State.reqBehind (s : State) (r : FarReq) : Bool :=
  match r.who with
  | .lane b i _ =>
    s.reqs.any (fun e =>
      let mine := match e.2.who with
        | .lane x y _ => x == b && y == i
        | _ => false
      mine && !e.2.taken && decide (e.2.stamp < r.stamp) && (e.2.op.writes || r.op.writes)
        && meet (e.2.addr.toNat % 4096) e.2.len (r.addr.toNat % 4096) r.len && s.samePage r.part e.2.addr r.addr)
    || (s.band? b).any (fun bd => s.cmds.any (fun e =>
      e.2.band == b && e.2.weft == i && e.2.path == .copy && decide (e.2.stamp < r.stamp) && s.reqClashes bd r e.2))
  | .peer _ _ port => r.op == .store && s.reqs.any (fun e =>
      (match e.2.who, e.2.stage with
        | .peer _ _ _, .respond _ => false
        | .peer _ _ p, _ => p == port
        | _, _ => false) && e.2.op == .store && decide (e.2.stamp < r.stamp))
  | _ => false

/-- One stamp precedes another (R372). -/
def stampBefore (a b : Nat) : Bool := decide (1 ≤ (b + 2 ^ 16 - a) % 2 ^ 16) && decide ((b + 2 ^ 16 - a) % 2 ^ 16 ≤ 2 ^ 15 - 1)

/-- Whether a request stands on a channel. -/
def FarReq.onChannel (r : FarReq) (stack chan : Nat) : Bool :=
  match r.stage with
  | .channel st c _ _ _ => st == stack && c == chan
  | _ => false

/-- The HBM address of a request on a channel. -/
def FarReq.hbmAddr (r : FarReq) : Nat :=
  match r.stage with
  | .channel st c bank row col => st * 2 ^ 36 + c * 2 ^ 31 + bank * 2 ^ 25 + row * 2 ^ 13 + col
  | _ => 0

/-- The block of 4 KiB that a request on a channel lies in. -/
def FarReq.blockKey (r : FarReq) : Nat := r.hbmAddr / 4096

/-- The agent that a request reads and writes for: a lane's copy path, an engine command, or a collective. -/
def State.agentOf (s : State) (r : FarReq) : Option Agent :=
  let gang := fun b => ((s.band? b).map (fun x => x.gang)).getD 0
  match r.who with
  | .lane b i _ => some ⟨b, i, .copy, r.snap, gang b, r.stamp⟩
  | .engine id => (SMap.find? s.cmds id).map (fun c => ⟨c.band, c.weft, c.path, r.snap, gang c.band, c.stamp⟩)
  | .coll ctx slot => (s.ticket? ctx slot).bind (fun t => t.run.map (fun x => ⟨x.band, x.weft, .coll, r.snap, gang x.band, x.stamp⟩))
  | _ => none

/-- The path of a request: a path of a weft, or the requester that counts it (R194, R375). -/
def State.pathOf (s : State) (r : FarReq) : Option (Nat × Nat × Path) × Nat :=
  match s.agentOf r with
  | some a => (some (a.band, a.weft, a.path), 0)
  | none => (none, r.by_)

/-- The requests of a channel that it may perform: none that would pass an earlier one to the same block that shares its path (R202,
R373). -/
def State.channelReady (s : State) (stack chan : Nat) : List (Nat × FarReq) :=
  let q := s.reqs.filter (fun e => e.2.onChannel stack chan)
  q.filter (fun e => !s.reqBehind e.2 && !(q.any (fun x =>
    decide (x.2.at_ < e.2.at_) && x.2.blockKey == e.2.blockKey && s.pathOf x.2 == s.pathOf e.2)))

/-- The choice of R373. -/
def State.channelPick (s : State) (stack chan : Nat) : Option (Nat × FarReq) :=
  let q := s.channelReady stack chan
  let of := fun c => q.filter (fun e => e.2.cls == c)
  let first := fun (e x : Nat × FarReq) => x.1 == e.1 || stampBefore e.2.stampD x.2.stampD
    || (!stampBefore x.2.stampD e.2.stampD && decide (e.2.at_ < x.2.at_))
  let best := fun (xs : List (Nat × FarReq)) => (xs.find? (fun e => xs.all (first e))).or xs.head?
  let since := SMap.get s.sinceC3 15 (stack * 32 + chan)
  if !(of 3).isEmpty && decide (15 ≤ since) then best (of 3)
  else ([0, 1, 2, 3].map (fun c => best (of c))).findSome? id

/-- Count a missed deadline of a requester in a class, saturating (R375). -/
def State.missed (s : State) (who cls : Nat) : State :=
  let v := s.kget (.mdcnt who)
  let n := fld v (16 * cls + 15) (16 * cls)
  s.kset (.mdcnt who) (setFld v (16 * cls + 15) (16 * cls) (min (n + 1) 0xFFFF))

/-- Bytes that a store has brought to its home land there and are published (R198). -/
def State.landReq (s : State) (r : FarReq) (p : Place) (a : Nat) : State :=
  s.landMasked p a r.data r.mask ((s.agentOf r).bind Agent.id) (match r.who with
    | .engine id => some id
    | _ => none)

/-- Perform a request at its home bytes (R197, R200, R223, R224): what comes back, and the state after it. A store of this device
is published when it is counted (R198), a peer's now. -/
def State.performReq (s : State) (r : FarReq) (phys : Nat) : List Byte × State :=
  let who := (s.agentOf r).bind Agent.id
  match r.op with
  | .store => ([], match r.who with
    | .peer _ _ _ => s.land .hbm phys r.data none false
    | _ => s)
  | .atom op w64 _ =>
    let n := if w64 then 8 else 4
    let old := leNat (s.homeRead .hbm phys n)
    let new := atomNew op w64 old (leNat (r.data.take n)) (leNat (r.data.drop n))
    let s := s.land .hbm phys (leBytes n new) who false
    (leBytes n old, match r.who with
      | .lane b i _ => s.modWeft b i (fun w => w.see .copy .hbm phys n s.clock)
      | _ => s)
  | _ =>
    match s.agentOf r with
    | some g => if r.fresh then (s.homeRead .hbm phys r.len, s.sawHome g .hbm phys r.len) else s.readShared .hbm phys r.len g
    | none => (s.homeRead .hbm phys r.len, s)

/-- HOLD_QUEUE_RETRY (R322). -/
def execHoldQueueRetry (req : Nat) (s : State) : Out :=
  match s.req? req with
  | none => .refused (.notPending "HOLD_QUEUE_RETRY")
  | some r =>
    match r.stage with
    | .retry _ => .next (s.setReq req { r with stage := .segment })
    | _ => .refused (.notPending "HOLD_QUEUE_RETRY")

/-- ATS_TRANSLATION_RESPONSE (R314): with 256 page requests outstanding, the request asks again. -/
def execAtsTranslationResponse (req : Nat) (ans : AtsAnswer) (s : State) : Out :=
  let no : Out := .refused (.notPending "ATS_TRANSLATION_RESPONSE")
  match s.req? req with
  | none => no
  | some r =>
    if r.stage ≠ .ats then no else
    let k := r.access
    let fail := fun g reason => Host.Outcome.next (s.failReq req r (farCause g reason k 1 1 (segLabel r.addr) r.addr))
    match ans with
    | .granted page kinds =>
      if kinds / 2 ^ k.code % 2 = 0 then no else
      match s.segLook r.part r.addr with
      | .entry _ e =>
        let va := hostAddr e r.addr
        let tag := pasidTag e.pasid
        .next ((s.atsKeep ⟨e.home, tag, va / 4096, kinds, page⟩).toHost req r (page * 4096 + va % 4096) va tag)
      | _ => .next (s.setReq req (r.back .segment))
    | .noPermission => fail 9 8
    | .error => fail 8 9
    | .notPresent =>
      if !s.pagein r.part || r.isProbe then fail 8 8
      else if s.reqs.countP (fun e => e.2.stage == .pri) < 256 then .next (s.setReq req { r with stage := .pri })
      else .next s.instant

/-- PRI_RESPONSE (R314). -/
def execPriResponse (req : Nat) (ok : Bool) (s : State) : Out :=
  match s.req? req with
  | none => .refused (.notPending "PRI_RESPONSE")
  | some r =>
    if r.stage ≠ .pri then .refused (.notPending "PRI_RESPONSE")
    else if ok then .next (s.setReq req { r with stage := .ats })
    else .next (s.failReq req r (farCause 8 8 r.access 1 1 (segLabel r.addr) r.addr))

/-- ATS_INVALIDATE_REQUEST (R324): the range is in bytes; a whole PASID when no other bound is given. At most 32 are
outstanding (R314). -/
def execAtsInvalidateRequest (pasid : Option Nat) (lo hi : Nat) (s : State) : Out :=
  if 32 ≤ s.atsInvals then .refused (.notPending "ATS_INVALIDATE_REQUEST") else
  let hit := fun tag page => tag == pasidTag pasid && decide (lo < (page + 1) * 4096) && decide (page * 4096 ≤ hi)
  let before := (s.reqs.filter (fun e => match e.2.stage with
    | .host _ va tag => hit tag (va / 4096)
    | _ => false)).map (fun e => e.1)
  let s := { s with ats := s.ats.filter (fun e => !hit e.tag e.page), atsInvals := s.atsInvals + 1 }
  .next { s.nextStamp with buoys := SMap.insert s.buoys s.stamp ⟨.invalidate, before⟩ }

/-- The registers of n from dst on that still await a reply in a lane: one of an extended block that has been released does not
(R176). -/
def Weft.waiting (w : Weft) (dst n lane id : Nat) : List Nat :=
  (List.range n).filter (fun k => w.await.contains ⟨dst + k, lane, id⟩)

/-- Registers that a failed load, atomic or MRD was to write are marked failed (R217, R234): those of n from dst on with the numbers
given. -/
def Weft.markFailed (w : Weft) (dst : Nat) (ks : List Nat) (lane id : Nat) (c : Cause) : Weft :=
  {
    w with
    failed := ks.foldl (fun m k => SMap.insert m ((dst + k) * 64 + lane) c) w.failed
    await := w.await.filter (fun a => a.req != id || a.lane != lane) }

/-- A reply is written into the registers of a lane that await it (R223). -/
def Weft.landReply (w : Weft) (dst lane id : Nat) (bs : List Byte) : Weft :=
  let n := bs.length / 4
  let w := (w.waiting dst n lane id).foldl (fun (w : Weft) k =>
    {
      w with
      v := SMap.set w.v 0 ((dst + k) * 64 + lane) (BitVec.ofNat 32 (leNat ((bs.drop (4 * k)).take 4)))
      failed := SMap.erase w.failed ((dst + k) * 64 + lane)
      uni := w.uni.filter (fun r => r != dst + k) }) w
  { w with await := w.await.filter (fun a => a.req != id || a.lane != lane) }

/-- The registers a request's reply writes. -/
def FarReq.replyRegs (r : FarReq) : Nat :=
  match r.op with
  | .load => r.len / 4
  | .atom _ w64 nr => if nr then 0 else if w64 then 2 else 1
  | _ => 0

/-- A lane's request ends in error (R217): its registers are marked, its counter takes the error, and a store or a
non-returning atomic without a counter leaves the error with the weft. -/
def State.laneError (s : State) (id : Nat) (r : FarReq) (b i l : Nat) (c : Cause) (ans : FarAnswer) : State :=
  let s := (s.modWeft b i (fun w => w.markFailed r.dst (w.waiting r.dst r.replyRegs l id) l id c)).endReq id r ans
  match r.ctr with
  | some k => s.failCount b k c
  | none => if r.replyRegs = 0 then s.modWeft b i (fun w => { w with held := w.held.or (some c) }) else s

/-- What an outside answer means for a request: its bytes, or a cause (R313, R259). -/
def State.farAnswer (s : State) (r : FarReq) (port : Nat) (ans : FarAnswer) : Except Cause (List Byte) :=
  match ans with
  | .here => .ok []
  | .data bs => .ok bs
  | .unsupported => .error (r.peerFault 8 10 1)
  | .aborted => .error (r.peerFault 9 9 1)
  | .poisoned => .error (s.fabricFail r 4 port)
  | .ownerFault g reason stage _ => .error (r.peerFault g reason stage)

/-- How a request has ended: by itself on this device, or by an answer from the host or a peer. -/
def State.ended (s : State) (r : FarReq) (ans : FarAnswer) : Option (Except Cause (List Byte)) :=
  match r.stage, ans with
  | .performed bs, .here => some (.ok bs)
  | .stored _, .here => some (.ok [])
  | .failed c, .here => some (.error c)
  | .probed _, .here => some (.ok [])
  | .host _ _ _, .data bs => if s.reqBehind r then none else some (.ok bs)
  | .sent _, .here => none
  | .sent p, a => if s.reqBehind r then none else some (s.farAnswer r p a)
  | _, _ => none

/-- Lanes that wait for code become ready (R117). -/
def Weft.wakeCode (w : Weft) : Weft :=
  { w with lanes := w.lanes.map (fun l => if l.state == .parked .code then l.ready else l) }

/-- The lanes that wait for a code address. -/
def State.codeWaiters (s : State) (ctx : Nat) (w : Weft) (a : W64) : List Nat :=
  (List.range w.width).filter (fun l => (w.lane l).state == .parked .code && s.codeAddr ctx (w.lane l).pc == a)

/-- The ticket of a partition whose transfer of a number is under way at this rank. -/
def State.collRunOf (s : State) (part : Nat) (n : BitVec 48) : Option (Nat × Nat) :=
  (s.ticketsOf part n).find? (fun x => (s.ticket? x.1 x.2).any (fun t => t.fin.isNone && t.run.any (fun r => r.started)))

/-- The rights that a peer reports for a probe: 0 for a peer of another make (R326). -/
def FarReq.peerRights (r : FarReq) (rights : Nat) : Nat := if Config.znPeer r.peer then rights else 0

/-- FAR_REPLY_LAND (R223, R305, R326, R117, R343): the reply of a far load, a probe, a code fetch, a sector of the source of a
collective, or the response to one of its messages. -/
def execFarReplyLand (req : Nat) (ans : FarAnswer) (s : State) : Out :=
  let no : Out := .refused (.notPending "FAR_REPLY_LAND")
  match s.req? req with
  | none => no
  | some r =>
    match s.ended r ans, r.who, r.op with
    | some (.ok bs), .lane b i l, .load =>
      let bs := (bs ++ List.replicate r.len 0).take r.len
      let s := (s.modWeft b i (fun w => w.landReply r.dst l req bs)).endReq req r ans
      .next (match r.ctr with
        | some c => s.addCount b c r.len
        | none => s)
    | some (.error c), .lane b i l, .load => .next (s.laneError req r b i l c ans)
    | some e, .probe b i dst, _ =>
      let x := match r.stage, e with
        | .probed x, _ => x
        | _, .error c => probeFailed 2 (match ans with
          | .ownerFault _ _ _ rights => r.peerRights rights
          | _ => 0) r.heldOnce c
        | .sent p, .ok bs => probePassed 2 (r.peerRights (leNat bs % 8 * 2)) r.heldOnce p 0
        | _, .ok _ => probePassed r.owner r.rights r.heldOnce 0 0
      .next ((s.modWeft b i (fun w =>
        { w.sset dst x with await := w.await.filter (fun a => a.req != req) })).endReq req r ans)
    | some (.ok bs), .coll ctx slot, .load =>
      .next ((s.endReq req r ans).modTicket ctx slot (fun t => { t with run := t.run.map (fun x => { x with
        loads := x.loads.filter (fun l => l.1 != req)
        have_ := SMap.insert x.have_ (secKey 0 r.addr.toNat) ((bs ++ List.replicate 32 0).take 32) }) }))
    | some e, .coll ctx slot, _ =>
      let ended := ((s.ticket? ctx slot).bind (fun t => if t.fin.isSome then none else t.run)).isNone
      match e with
      | .ok _ => no
      | .error _ => if ended then .next (s.endReq req r ans) else no
    | some (.ok _), .collMsg _ _, _ => .next (s.endReq req r ans)
    | some (.error _), .collMsg part n, _ =>
      if (s.collRunOf part n).isNone then .next (s.endReq req r ans) else no
    | some (.ok bs), .fetch b i, _ =>
      .next ((s.modWeft b i (fun w =>
        { w.wakeCode with fetched := SMap.insert w.fetched r.addr.toNat (BitVec.ofNat 64 (leNat bs)) })).endReq req r ans)
    | some (.error c), .fetch b i, _ =>
      match s.weft? b i with
      | none => .next (s.endReq req r ans)
      | some w =>
        let ls := s.codeWaiters r.ctx w r.addr
        let pc := (w.lane (ls.headD 0)).pc
        if ls.isEmpty then .next (s.endReq req r ans) else
        .next ((s.endReq req r ans).trapWeft b i (ls.map (fun l => (l, c))) pc pc false)
    | _, _, _ => no

/-- FATOM_REPLY (R224): the old value, or the completion of an atomic that returns none. Host memory is written here. -/
def execFatomReply (req : Nat) (ans : FarAnswer) (s : State) : Out :=
  let no : Out := .refused (.notPending "FATOM_REPLY")
  match s.req? req with
  | none => no
  | some r =>
    match s.ended r ans, r.who, r.op with
    | some (.ok bs), .lane b i l, .atom op w64 _ =>
      let n := if w64 then 8 else 4
      let s := match r.stage with
        | .host a _ _ => s.land .host a (leBytes n (atomNew op w64 (leNat (bs.take n)) (leNat (r.data.take n)) (leNat (r.data.drop n))))
            (some (b, i, .copy)) false
        | _ => s
      let s := if r.replyRegs = 0 then s
        else s.modWeft b i (fun w => w.landReply r.dst l req ((bs ++ List.replicate n 0).take n))
      .next (match r.ctr with
        | some c => (s.endReq req r ans).addCount b c n
        | none => s.endReq req r ans)
    | some (.error c), .lane b i l, .atom _ _ _ => .next (s.laneError req r b i l c ans)
    | _, _, _ => no

/-- The bytes of a store that has come back land where it has brought them; a peer's memory is outside the package. -/
def State.storeLands (s : State) (r : FarReq) : State :=
  match r.stage with
  | .host a _ _ => s.landReq r .host a
  | .stored a => s.landReq r .hbm a
  | _ => s

/-- FSTORE_COMPLETE (R198, R218, R223). -/
def execFstoreComplete (req : Nat) (ans : FarAnswer) (s : State) : Out :=
  let no : Out := .refused (.notPending "FSTORE_COMPLETE")
  match s.req? req with
  | none => no
  | some r =>
    match s.ended r ans, r.who, r.op with
    | some (.ok _), .lane b _ _, .store =>
      let s := s.storeLands r
      .next (match r.ctr with
        | some c => (s.endReq req r ans).addCount b c r.len
        | none => s.endReq req r ans)
    | some (.error c), .lane b i l, .store => .next (s.laneError req r b i l c ans)
    | _, _, _ => no

/-- PAGE_IN_RESUME (R264, R317): the service installs the entry and the waiting agent goes on, or it refuses and the fault is
delivered. -/
def execPageInResume (who : Nat) (ok : Bool) (s : State) : Out :=
  let no : Out := .refused (.notPending "PAGE_IN_RESUME")
  match s.req? who with
  | none => no
  | some r =>
    match r.stage with
    | .pageIn st =>
      let label := if st = 1 then segLabel r.addr else if st = 2 then regLabel r.addr else blkLabel r.addr
      let c := farCause 8 (2 * st) r.access 0 st label r.addr
      match r.who with
      | .fetch b i =>
        if ok then .next ((s.dropReq who).modWeft b i Weft.wakeCode) else
        match s.weft? b i with
        | none => .next (s.dropReq who)
        | some w =>
          let ls := s.codeWaiters r.ctx w r.addr
          let pc := (w.lane (ls.headD 0)).pc
          .next ((s.dropReq who).trapWeft b i (ls.map (fun l => (l, c))) pc pc false)
      | _ => if ok then .next (s.setReq who { r with stage := .segment }) else .next (s.failReq who r c)
    | _ => no

end Sys2Proof.Machine
end

