-- ==== Sys2Proof/Machine/EngineEvents.lean ====
section
/-! DEFINITION. The events of engine commands and channel items (R205, R215, R217, R218, R333, R334), of pending PHASEs and
FENCE.Xs (R199, R204, R293), of near, far-side replies (R65), register blocks (R176) and issue points (R60, R63). -/
namespace Sys2Proof.Machine

/-- Whether a weft has stopped for a save (R298, R299): under a full save a weft that has nothing to issue, or waits for the
block it held, stands still. -/
def Weft.stoppedFor (w : Weft) (full : Bool) : Bool :=
  w.retired || (match w.stop with
    | some .block => full
    | some _ => true
    | none => full && (w.frozen || ((w.bundle == 0 || w.reform) && w.nextRun.isNone)))

/-- Whether every weft of a band has stopped for a save that is pending: its engines go no further than the points at which a
save may cut them (R215, R235, R298, R300). -/
def Band.settled (bd : Band) : Bool :=
  bd.save.any (fun v => !v.flush && bd.wefts.all (fun w => w.stoppedFor v.full))

/-- Whether a save is pending for a band (R295); a flush is none. -/
def Band.savePending (bd : Band) : Bool := bd.save.any (fun v => !v.flush)

/-- Whether a matrix command stands at a point at which a pending save stops it (R235, R303): unstarted; an MLOOP after a step; an
MEPI after a multiple of 16 rows. Any other command goes to its end. -/
def MCmd.atStop (m : MCmd) : Bool :=
  !m.started || (match m.kind with
    | .mloop _ _ _ _ _ _ _ _ _ => m.progress != 0
    | .mepi _ _ _ _ _ _ _ _ => m.progress % 16 == 0
    | _ => false)

/-- Whether a band's copy and chain engines stand still for a save: its wefts have stopped, and no matrix command has to go on,
which may wait for the lines of a copy. -/
def Band.halted (bd : Band) : Bool := bd.settled && bd.mq.all MCmd.atStop

/-- Whether an engine may take a step of a command (R215, R333): a channel's items are no part of a save, and a sector that has been
cut is finished before one. -/
def Cmd.works (c : Cmd) (bd : Band) : Bool := c.started && (c.kind.isItem || (bd.enginesRun && (!bd.halted || c.cut)))

/-- ENGINE_COMMAND_START (R215). -/
def execEngineCommandStart (cmd : Nat) (s : State) : Out :=
  let no : Out := .refused (.notPending "ENGINE_COMMAND_START")
  match SMap.find? s.cmds cmd with
  | none => no
  | some c =>
    match s.band? c.band with
    | none => no
    | some bd =>
      if c.started || c.kind.isItem || !bd.enginesRun || bd.halted || s.fenceHolds c.band c.weft c.path c.stamp || s.heldBehind c then no
      else .next { s with cmds := SMap.insert s.cmds cmd { c with started := true, whole := s.selfMeets c } }

/-- The answer to a command's far request lands (R205, R218, R305): a sector that it reads, or bytes that it writes, which are
published and counted. The writes of a pinned channel's item land in their order (R333). -/
def State.engineAnswer (s : State) (id : Nat) (c : Cmd) (bd : Band) (req : Nat) (ans : FarAnswer) : Option State :=
  (s.req? req).bind (fun r =>
    if r.who ≠ .engine id then none else
    match s.ended r ans, r.op with
    | some (.ok bs), .load =>
      some { s.endReq req r ans with cmds := SMap.insert s.cmds id { c with
        loads := c.loads.filter (fun l => l.1 != req)
        got := SMap.insert c.got (secKey 0 r.addr.toNat) ((bs ++ List.replicate 32 0).take 32) } }
    | some (.ok _), .store =>
      if c.kind.isItem && s.onePath c bd && (c.flight.head?.map (fun f => f.1)) != some req then none else
      let n := ((c.flight.find? (fun f => f.1 == req)).map (fun f => f.2)).getD 0
      let s := (s.storeLands r).endReq req r ans
      let s := { s with cmds := SMap.modify s.cmds id (fun c => { c with flight := c.flight.filter (fun f => f.1 != req) }) }
      some ((s.countBits id n).workOver id bd)
    | _, _ => none)

/-- ENGINE_BYTES_LAND (R205, R218): the command's engine takes a step with a work of those left, or an answer lands. -/
def execEngineBytesLand (cmd : Nat) (what : Landing) (s : State) : Out :=
  let no : Out := .refused (.notPending "ENGINE_BYTES_LAND")
  match SMap.find? s.cmds cmd with
  | none => no
  | some c =>
    match s.band? c.band, what with
    | some bd, .answer req a =>
      match s.engineAnswer cmd c bd req a with
      | some t => .next t
      | none => no
    | some bd, .work n =>
      if !c.works bd then no else
      match s.engineStep cmd c bd n with
      | .ok t => .next t
      | .error _ => no
    | none, _ => no

/-- ENGINE_COMMAND_COMPLETE (R217). -/
def execEngineCommandComplete (cmd : Nat) (s : State) : Out :=
  match SMap.find? s.cmds cmd with
  | none => .refused (.notPending "ENGINE_COMMAND_COMPLETE")
  | some c =>
    if c.kind.isItem || !c.started || !c.delivered || !c.lines.isEmpty then .refused (.notPending "ENGINE_COMMAND_COMPLETE")
    else .next (s.doneCmd cmd c)

/-- The error that a request has come to. -/
def State.reqError (s : State) (req : Nat) : Option Cause :=
  (s.req? req).bind (fun r => match r.stage with
    | .failed c => some c
    | _ => none)

/-- The error that a command meets at its next step: by itself, or by a far request that has ended in error (R217). -/
def State.haltOf (s : State) (id : Nat) (c : Cmd) (bd : Band) : Option Cause :=
  let works := if s.onePath c bd then 1 else c.todo.length
  (c.flight.findSome? (fun f => s.reqError f.1)).or
    ((List.range works).findSome? (fun n => match s.engineStep id c bd n with
      | .error (.fail x) => some x
      | .error (.lost req) => s.reqError req
      | _ => none))

/-- How a command ends in error (R217): by itself, by a peer's answer to one of its requests, or by an uncorrected error. -/
def State.endCause (s : State) (id : Nat) (c : Cmd) (bd : Band) (err : EngineErr) : Option (Cause × State) :=
  match err with
  | .own => (s.haltOf id c bd).map (fun x => (x, s))
  | .answer req ans =>
    (s.req? req).bind (fun r => match s.ended r ans with
      | some (.error x) => if r.who = .engine id then some (x, s.endReq req r ans) else none
      | _ => none)
  | .uncorrected unit x => some (s.uncorrected unit x bd.part bd.ctx 2 (Rec.addr c.dst c.undone).1)
  | .peerTimeout _ | .portDown _ | .completer _ | .poisoned _ => none

/-- ENGINE_COMMAND_ERROR (R217). -/
def execEngineCommandError (cmd : Nat) (err : EngineErr) (s : State) : Out :=
  let no : Out := .refused (.notPending "ENGINE_COMMAND_ERROR")
  match SMap.find? s.cmds cmd with
  | none => no
  | some c =>
    match s.band? c.band with
    | none => no
    | some bd =>
      if c.kind.isItem || !c.works bd then no else
      match s.endCause cmd c bd err with
      | some (x, s) => .next (s.failCmd cmd c x)
      | none => no

/-- CHANNEL_ITEM_ERROR (R334). -/
def execChannelItemError (ch : Nat) (err : EngineErr) (s : State) : Out :=
  let no : Out := .refused (.notPending "CHANNEL_ITEM_ERROR")
  match err, s.itemCause ch (s.chan ch) with
  | .own, some (id, m, x) => .next (s.failItem ch id m x)
  | _, _ =>
    let going := (s.chan ch).items.findSome? (fun x => (SMap.find? s.cmds x.1).bind (fun m =>
      (s.band? m.band).bind (fun bd => if m.works bd then (s.endCause x.1 m bd err).map (fun y => (x.1, m, y)) else none)))
    match going with
    | some (id, m, x, s) => .next (s.failItem ch id m x)
    | none => no

/-- Whether a scope waits for writes to far storage of a kind (R195). -/
def scopeCovers (sc : Scope) (kind : Nat) : Bool :=
  match sc with
  | .gang | .die => false
  | .dev => kind == 0
  | .pod => kind == 0 || kind == 2
  | .sys => true

/-- Whether a record's walk reaches storage that a scope lists (R195). -/
def State.walkCovered (s : State) (part : Nat) (sc : Scope) (r : Rec) : Bool :=
  match Rec.space r with
  | 0 => (List.range (Rec.len r)).any (fun k => scopeCovers sc (s.farKind part (Rec.addr r k).1))
  | 1 => false
  | _ => true

/-- Whether a witness lies in storage that a scope lists. -/
def State.witCovered (s : State) (part : Nat) (sc : Scope) (k : CmdKind) : Bool :=
  match k with
  | .wred _ _ _ (some (0, a, _)) => scopeCovers sc (s.farKind part a)
  | .wred _ _ _ (some (sp, _, _)) => sp == 2
  | _ => false

/-- The transfers of a weft's collectives that have not ended, issued before a stamp (R343). -/
def State.collBefore (s : State) (b i before : Nat) : List CollRun :=
  ((s.band? b).bind (fun bd => s.ctx? bd.ctx)).toList.flatMap (fun c =>
    c.tickets.filterMap (fun t =>
      if t.2.fin.isSome then none else
      t.2.run.bind (fun r => if r.band == b && r.weft == i && decide (r.stamp < before) then some r else none)))

/-- Whether a weft's earlier writes to the storage of a scope have not all landed (R195, R199). -/
def State.phaseBusy (s : State) (b i : Nat) (bd : Band) (ph : PhaseSt) : Bool :=
  s.cmds.any (fun e => e.2.band == b && e.2.weft == i && decide (e.2.stamp < ph.before)
      && (s.walkCovered bd.part ph.scope e.2.dst || s.witCovered bd.part ph.scope e.2.kind))
    || s.reqs.any (fun e => (match e.2.who with
      | .lane x y _ => x == b && y == i
      | _ => false) && e.2.op.writes && decide (e.2.stamp < ph.before) && scopeCovers ph.scope (s.farKind bd.part e.2.addr))
    || (s.collBefore b i ph.before).any (fun r => s.walkCovered bd.part ph.scope r.dst.2)

/-- PHASE_COMPLETE (R199, R293, R306). -/
def execPhaseComplete (band weft : Nat) (s : State) : Out :=
  let no : Out := .refused (.notPending "PHASE_COMPLETE")
  match s.band? band, s.weft? band weft with
  | some bd, some w =>
    match w.phase with
    | none => no
    | some ph =>
      if s.phaseBusy band weft bd ph then no else
      let s := s.publish band weft ph.scope
      let s := if ph.refresh then s.refresh band weft else s
      let s := if ph.ends then s.modBand band (fun x => { x with restartable := false }) else s
      let s := s.modWeft band weft (fun w => { w with phase := none })
      .next (match ph.launch with
        | some (dst, bs) => s.launchNow band weft dst bs
        | none => s)
  | _, _ => no

/-- Whether accesses of a weft on a path, issued before a stamp, have not all been performed (R204). -/
def State.pathBusy (s : State) (b i : Nat) (bd : Band) (w : Weft) (before : Nat) (p : Path) : Bool :=
  match p with
  | .lane => !w.replies.isEmpty
  | .matrix => bd.mq.any (fun m => m.weft == i && decide (m.id < before))
  | .coll => !(s.collBefore b i before).isEmpty
  | p =>
    s.cmds.any (fun e => e.2.band == b && e.2.weft == i && e.2.path == p && decide (e.2.stamp < before))
      || (p == .copy && s.reqs.any (fun e => (match e.2.who with
        | .lane x y _ => x == b && y == i
        | _ => false) && decide (e.2.stamp < before)))

/-- What a completed FENCE.X orders. -/
def Fenced.done (id now : Nat) (f : Fenced) : Fenced := if f.fence = some id then { f with time := now, fence := none } else f

/-- A FENCE.X has completed, for every weft that it or a signal after it reached, and in every signal under way (R203). -/
def State.fenceDone (s : State) (id : Nat) : State :=
  let done := fun (fs : List Fenced) => fs.map (Fenced.done id s.clock)
  let bars := fun (m : SMap Barrier) => m.map (fun x => (x.1, { x.2 with
    carried := done x.2.carried, done := x.2.done.map (fun y => (y.1, done y.2)) }))
  { s with
    bands := s.bands.map (fun e => (e.1, { e.2 with
      wefts := e.2.wefts.map (fun w => { w with fenced := done w.fenced })
      signals := e.2.signals.map (fun x => (x.1, done x.2)), bar := bars e.2.bar }))
    gangs := s.gangs.map (fun e => (e.1, { e.2 with bar := bars e.2.bar }))
    ctxs := s.ctxs.map (fun e => (e.1, { e.2 with signals := e.2.signals.map (fun x => (x.1, done x.2)) })) }

/-- FENCE_COMPLETE (R203, R204). -/
def execFenceComplete (band weft : Nat) (s : State) : Out :=
  let no : Out := .refused (.notPending "FENCE_COMPLETE")
  match s.band? band, s.weft? band weft with
  | some bd, some w =>
    match w.fences.find? (fun f => !s.pathBusy band weft bd w f.before f.p && !s.pathBusy band weft bd w f.before f.q) with
    | none => no
    | some f => .next ((s.modWeft band weft (fun w => { w with fences := w.fences.filter (fun x => x.id != f.id) })).fenceDone f.id).instant
  | _, _ => no

/-- The registers that a near reply gives one value in every launched lane: they are held in uniform form (R72, R187). -/
def Weft.uniformReply (w : Weft) (got : List (Nat × W32)) : List Nat :=
  let regs := (got.map (fun x => x.1 / 64)).eraseDups
  regs.filter (fun n =>
    let mine := got.filter (fun x => x.1 / 64 == n)
    w.launched.all (fun l => mine.any (fun x => x.1 % 64 == l)) && mine.all (fun x => some x.2 == mine.head?.map (fun y => y.2)))

/-- A near reply lands (R65): the registers that still await it. -/
def Weft.landNear (w : Weft) (r : NearReply) : Weft :=
  let waits := fun key lane => w.await.any (fun a => a.key == key && a.lane == lane && a.req == r.id)
  let got := r.v.filter (fun x => waits (x.1 / 64) (x.1 % 64))
  let w' := got.foldl (fun (u : Weft) x =>
    { u with v := SMap.set u.v 0 x.1 x.2, failed := SMap.erase u.failed x.1, uni := u.uni.filter (fun n => n != x.1 / 64) }) w
  let w' := { w' with uni := w'.uni ++ w.uniformReply got }
  let w' := match r.s with
    | some (n, x) => if waits (256 + n) 0 then { w'.sset n x with failed := SMap.erase w'.failed ((256 + n) * 64) } else w'
    | none => w'
  { w' with
    await := w'.await.filter (fun a => a.req != r.id)
    replies := w'.replies.filter (fun x => x.id != r.id)
    latches := w'.latches.map (fun e => if e.reply = some r.id then { e with reply := none } else e) }

/-- NEAR_FAR_SIDE_REPLY_LAND (R65). -/
def execNearFarSideReplyLand (band weft reply : Nat) (s : State) : Out :=
  match (s.weft? band weft).bind (fun w => w.replies.find? (fun r => r.id == reply)) with
  | none => .refused (.notPending "NEAR_FAR_SIDE_REPLY_LAND")
  | some r => .next (s.modWeft band weft (fun w => w.landNear r))

/-- REGISTER_BLOCK_GRANT (R176): the request at the head of a core's grant queue fits. -/
def execRegisterBlockGrant (core : Nat) (s : State) : Out :=
  let no : Out := .refused (.notPending "REGISTER_BLOCK_GRANT")
  match (s.core core).grants with
  | [] => no
  | (b, i, _) :: _ =>
    match s.band? b, s.weft? b i with
    | some bd, some w => if w.ext || decide (bd.extCost w ≤ s.pool core) then .next (s.grantFrom core 1) else no
    | _, _ => .next (s.grantFrom core 1)

/-- INTERVAL_POINT (R60, R61): the weft that issues has issued four cycles of its bundle, and nothing defers the point. -/
def execIntervalPoint (s : State) : Out :=
  match s.current with
  | none => .refused (.notPending "INTERVAL_POINT")
  | some (b, i, bd, w) =>
    if w.seq = 0 ∨ w.issued < 4 ∨ s.deferring bd w then .refused (.notPending "INTERVAL_POINT")
    else .next (s.reformWeft b i)

/-- Whether a weft of a slot could issue: it is resident, goes on, and has an eligible lane (R63). -/
def State.readyWeft (s : State) (x : Nat × Nat) : Bool :=
  match s.band? x.1, (s.wake x.1 x.2).weft? x.1 x.2 with
  | some bd, some w => bd.state == .resident && !bd.stopped && !w.retired && !w.frozen && w.stop.isNone && w.nextRun.isSome
  | _, _ => false

/-- WEFT_TIMESLICE_SWITCH (R63): `slot` is four times the core and the slot on it. The slot's next turn goes to the ready weft of
the highest priority, round-robin among equals, if one can issue. -/
def execWeftTimesliceSwitch (slot : Nat) (s : State) : Out :=
  let no : Out := .refused (.notPending "WEFT_TIMESLICE_SWITCH")
  match s.servingOn (slot / 4) (slot % 4) with
  | none => no
  | some (b, i) =>
    match s.band? b, s.weft? b i with
    | some bd, some w =>
      let others := (s.slotWefts (slot / 4) (slot % 4)).filter (fun x => x != (b, i) && s.readyWeft x)
      if w.slotCycles < 256 ∨ w.spent ∨ s.deferring bd w ∨ others.isEmpty then no
      else .next (s.modWeft b i (fun v => { v with spent := true }))
    | _, _ => no

/-- Whether a partition holds a token bucket on a port (R330): one that lets it send. -/
def State.holdsBucket (s : State) (part port : Nat) : Bool := s.kget (.bucket part port) &&& (maskBits 51 32 ||| maskBits 19 0) != 0

/-- Whether a communication raise is in force for a partition (R289): the egress queue of a port of its buckets is empty, or has
been non-empty for less than 1 µs. -/
def State.raised (s : State) (part : Nat) : Bool :=
  (List.range Config.ports).any (fun p =>
    let x := SMap.get s.ports Port.idle p
    s.holdsBucket part p && (x.egress.isEmpty || !x.filledAt.any (fun t => decide (t + 1000 ≤ s.now))))

/-- The effective priority of a resident band (R289). -/
def State.prioOf (s : State) (x : Nat × Nat) : Nat :=
  match s.band? x.1 with
  | none => 0
  | some b => b.prio + (if b.comm && s.raised b.part then 1 else 0)

end Sys2Proof.Machine
end

