-- ==== Sys2Proof/Machine/Coll.lean ====
section
/-! DEFINITION. Collectives at this device's ranks: COLL, TCOPYC, COLLW and COLLC (R342 to R346, R353 to R355), the start of a
number (R337) and the bank adders (R344). -/
namespace Sys2Proof.Machine

/-- Whether a call index is stale against a watermark (R336). -/
def staleCall (watermark call : W32) : Bool :=
  decide (1 ≤ (watermark - call).toNat) && decide ((watermark - call).toNat ≤ 2 ^ 31 - 1)

/-- The rank of a partition of this device in a communicator. -/
def State.rankOf (s : State) (c : Comm) (part : Nat) : Option Nat :=
  c.members.findIdx? (fun m => m == ⟨s.accel, part⟩)

/-- The lowest free ticket slot of a context (R353). -/
def Context.freeSlot (c : Context) : Option Nat := (List.range 256).find? (fun k => (SMap.find? c.tickets k).isNone)

/-- Why a key is refused at issue (R342, R346). -/
def State.keyBad (s : State) (bd : Band) (comm : Nat) (call : W32) : Option Nat :=
  if s.beaconLost then some 10 else
  match SMap.find? s.comms comm with
  | none => some 1
  | some c =>
    if (s.rankOf c bd.part).isNone then some 1
    else if staleCall c.watermark call then some 2
    else if ((s.ctx? bd.ctx).map (fun x => x.tickets.any (fun t => t.2.comm == comm && t.2.call == call))).getD false then some 3
    else none

/-- COLL (R342, R353, R306). Bits [47:32] of the key are not looked at (log 30). -/
def execColl (dst key : Fin 64) (g : Guard) (s : State) : Out :=
  let needs := feNeeds [] [key.val]
  runOnceEnding g needs [] (fun s b i bd w _ chk =>
    let k := w.sget key.val
    let comm := fld k 63 48
    let call := k.setWidth 32
    chk ((s.keyBad bd comm call).map (fun r => collCause r comm call (s.numberOf comm call))) <| fun _ =>
      match (s.ctx? bd.ctx).bind Context.freeSlot with
      | none => .next s.hold
      | some slot =>
        let s' := s.finish b i bd w needs.latch {}
        let id := s'.stamp
        let t : Ticket := ⟨b, i, dst.val, id, comm, call, none, none, none, false, s.now⟩
        let s' := s'.nextStamp.modCtx bd.ctx (fun c => { c with tickets := SMap.insert c.tickets slot t })
        .next ((s'.modBand b (fun x => { x with restartable := false })).modWeft b i (fun v =>
          { v with await := v.await ++ [⟨256 + dst.val, 0, id⟩] }))) s

/-- The slot of a ticket register that is live (R342, R345): its slot number, its number, and its entry or the cause of reason
4. -/
def State.liveTicket (s : State) (bd : Band) (v : W64) : Except Cause (Nat × BitVec 48 × Ticket) :=
  let slot := fld v 55 48
  let n : BitVec 48 := v.setWidth 48
  match s.ticket? bd.ctx slot with
  | none => .error (collCause 4 0 0 n)
  | some t => if t.number = some n ∧ fld v 63 56 = 0 then .ok (slot, n, t) else .error (collCause 4 t.comm t.call n)

/-- A grid descriptor's fields (R343). -/
structure Grid where
  x : Nat
  y : Nat
  z : Nat
  pattern : Nat
  root : Nat
  zero : Nat
  rmask : Nat

/-- Read a grid descriptor. -/
def Grid.of (d : W64) : Grid :=
  ⟨fld d 43 34 + 1, fld d 53 44 + 1, fld d 63 54 + 1, fld d 33 32, fld d 31 22, fld d 21 3, fld d 2 0⟩

/-- The group of a rank, in ascending order (R343). -/
def Grid.group (g : Grid) (size rank : Nat) : List Nat :=
  let at_ := fun r => [r % g.x, r / g.x % g.y, r / (g.x * g.y)]
  (List.range size).filter (fun r => ((at_ r).zip (at_ rank)).zipIdx.all (fun e =>
    e.1.1 == e.1.2 || g.rmask / 2 ^ e.2 % 2 == 1))

/-- Whether an operation takes the formats of its source and destination (R343). -/
def collFmtOk (op : Nat) (src dst : Fmt) : Bool :=
  match op with
  | 0 => src == dst
  | 1 | 5 | 6 => src == .f32 && dst == .f32
  | 2 => src == .bf16 && dst == .f32
  | _ => src == .s32 && dst == .s32

/-- The source walk that a pattern asks for (R343). -/
def collSrcLen (pattern g n : Nat) : Option Nat :=
  match pattern with
  | 1 => some (g * n)
  | 2 => if n % g = 0 then some (n / g) else none
  | _ => some n

/-- Whether a TCOPYC keeps the rule of its descriptor (R343): reason 5 where it does not. -/
def collOk (g : Grid) (size gsize op : Nat) (rd rs : Rec) (wit : Option W64) : Bool :=
  g.zero == 0 && g.x * g.y * g.z == size && Rec.space rd == 1
    && (if g.pattern < 2 then op != 0 else op == 0) && (g.pattern != 3 || decide (g.root < gsize))
    && collFmtOk op (Rec.fmt rs) (Rec.fmt rd) && collSrcLen g.pattern gsize (Rec.len rd) == some (Rec.len rs)
    && (wit.map (fun a => a.toNat % 16 == 0)).getD true

/-- TCOPYC (R343, R353, R354, R306). -/
def execTcopyc (f : FTcopyc) (s : State) : Out :=
  let k := 2 * f.desc.val
  let needs := feNeeds [] ([k, k + 1] ++ f.wit.toList.map Fin.val)
  runOnceEnding f.guard needs [] (fun s b i bd w _ chk =>
    let rd := bd.rec_ f.dst.val
    let rs := bd.rec_ f.src.val
    let recs := checkRecs 0x134 [(f.dst.val, rd, true), (f.src.val, rs, false)] false false none
    match s.liveTicket bd (w.sget (k + 1)) with
    | .error c => chk (recs.or (some c)) (fun _ => .next s.stall)
    | .ok (slot, n, t) =>
      let members := ((SMap.find? s.comms t.comm).map (fun c => c.members)).getD []
      let grid := Grid.of (w.sget k)
      let rank := ((SMap.find? s.comms t.comm).bind (fun c => s.rankOf c bd.part)).getD 0
      let grp := grid.group members.length rank
      let wit := f.wit.map (fun r => w.sget r.val)
      let own := if !collOk grid members.length grp.length f.op.val rd rs wit then some (collCause 5 t.comm t.call n)
        else if t.run.isSome then some (collCause 6 t.comm t.call n) else none
      chk (recs.or own) <| fun _ =>
      if w.phase.isSome && Rec.space rs != 1 then .next s.stall
      else
        let s' := s.finish b i bd w needs.latch {}
        let ser := s'.takeSerial b i bd
        let s' := if wit.isSome then ser.2 else s'
        let run : CollRun := {
          band := b, weft := i, ctr := f.ctr.val, op := f.op.val, dst := (f.dst.val, rd), src := (f.src.val, rs)
          q := grp.findIdx (· == rank), g := grp.length, pattern := grid.pattern, root := grid.root
          wit := wit.map (fun a => (a, ser.1)), stamp := s'.stamp, snap := w.snap, started := false, taken := false, since := 0, loads := [], have_ := []
          got := List.replicate (Rec.len rd) [], win := List.replicate (Rec.len rd) 0, flags := 0 }
        .next ((s'.nextStamp.modTicket bd.ctx slot (fun t => { t with run := some run })).modBand b (fun x =>
          { x with restartable := false }))) s

/-- What COLLW writes (R345). -/
def CollEnd.result (e : CollEnd) : W64 :=
  match e with
  | .complete => 0
  | .aborted r => BitVec.ofNat 64 (1 + 256 * (r % 256))
  | .cancelled => 2

/-- COLLW (R345, R95): the flags go to the weft that issued the TCOPYC. -/
def execCollw (dst tk : Fin 64) (g : Guard) (s : State) : Out :=
  let needs := feNeeds [] [tk.val]
  runOnce g needs [] (fun s b i bd w _ chk =>
    match s.liveTicket bd (w.sget tk.val) with
    | .error c => chk (some c) (fun _ => .next s.stall)
    | .ok (slot, n, t) =>
      chk none <| fun _ =>
      match t.fin with
      | none => .next (s.parkWord b i bd w needs.latch (.coll slot n))
      | some e =>
        let s' := s.finish b i bd w needs.latch { s := [(dst.val, e.result, [])] }
        let s' := match t.run with
          | none => s'
          | some r => s'.modWeft r.band r.weft (fun v => { v with flags := v.flags ||| r.flags })
        .next (s'.modCtx bd.ctx (fun c => { c with tickets := SMap.erase c.tickets slot }))) s

/-- COLLC (R345): its answer comes as a far reply does. -/
def execCollc (dst tk : Fin 64) (g : Guard) (s : State) : Out :=
  let needs := feNeeds [] [tk.val]
  runOnce g needs [] (fun s b i bd w _ chk =>
    match s.liveTicket bd (w.sget tk.val) with
    | .error c => chk (some c) (fun _ => .next s.stall)
    | .ok (_, n, _) =>
      chk none <| fun _ =>
      let s' := s.finish b i bd w needs.latch {}
      let id := s'.stamp
      let s' := { s'.nextStamp with cancels := SMap.insert s'.cancels id ⟨b, i, dst.val, n, false, s.now⟩ }
      .next (s'.modWeft b i (fun v => { v with await := v.await ++ [⟨256 + dst.val, 0, id⟩] }))) s

/-- Whether number a precedes number b (R337). -/
def numBefore (a b : BitVec 48) : Bool := decide (1 ≤ (b - a).toNat) && decide ((b - a).toNat ≤ 2 ^ 47 - 1)

/-- Whether every preceding number known to a pair has ended or been skipped there (R337). -/
def State.myTurn (s : State) (part : Nat) (n : BitVec 48) : Bool :=
  s.numbers.all (fun e =>
    let m := BitVec.ofNat 48 e.1
    let member := ((SMap.find? s.comms e.2.comm).bind (fun c => s.rankOf c part)).isSome
    !member || !numBefore m n || (SMap.find? e.2.mine part).isSome)

/-- The elements of a destination walk. -/
def CollRun.len (r : CollRun) : Nat := Rec.len r.dst.2

/-- The group ranks whose contributions make destination element k (R343). -/
def CollRun.need (r : CollRun) (k : Nat) : List Nat :=
  match r.pattern with
  | 2 => [k / max (r.len / r.g) 1]
  | 3 => [r.root]
  | _ => List.range r.g

/-- The element of this rank's own source that goes into destination element k (R343). -/
def CollRun.ownElem (r : CollRun) (k : Nat) : Nat :=
  match r.pattern with
  | 1 => r.q * r.len + k
  | 2 => k % max (r.len / r.g) 1
  | _ => k

/-- Whether element k holds its final value (R355). -/
def CollRun.final (r : CollRun) (k : Nat) : Bool := (r.need k).all (fun x => (r.got.getD k []).contains x)

/-- The format and kind of a maximum or minimum. -/
def collMinMax (op : Nat) : Fmt × Bool := (if op ≤ 6 then .f32 else .s32, op == 6 || op == 8)

/-- A contribution as a destination element that holds nothing else takes it (R344): its bits and exceptions. -/
def collFirst (op c : Nat) : Nat × Exc :=
  match op with
  | 2 =>
    let x := convert .f32 .bf16 .rne 0 false c
    (x.bits, x.exc)
  | 5 | 6 | 7 | 8 =>
    let x := wredMax (collMinMax op).1 (collMinMax op).2 false [c]
    (x.bits, x.exc)
  | _ => (c, 0)

/-- A bank adder (R344): element d whose winner so far is group rank win takes contribution c of a rank. -/
def collCombine (op d win c rank : Nat) : Nat × Nat × Exc :=
  let add := fun (c : Nat) =>
    let y := FInfo.f32.fadd .rne d c
    (y.bits, win, y.exc)
  match op with
  | 0 => (c, rank, 0)
  | 1 => add c
  | 2 => add (c * 2 ^ 16)
  | 3 => ((d + c) % 2 ^ 32, win, 0)
  | 4 =>
    let x := clampInt (-2 ^ 31) (2 ^ 31 - 1) (Fmt.toInt .s32 d + Fmt.toInt .s32 c)
    (Fmt.ofInt .s32 x.1, win, x.2)
  | _ =>
    let low := decide (win ≤ rank)
    let x := wredMax (collMinMax op).1 (collMinMax op).2 false (if low then [d, c] else [c, d])
    (x.bits, if (x.wit == some 0) == low then win else rank, x.exc)

/-- The sector of destination element k. -/
def State.collSector (s : State) (b : Nat) (bd : Band) (r : CollRun) (k : Nat) : Option Nat :=
  match s.nearOf b bd (Rec.need r.dst.2 k) true with
  | .ok (_, off) => some (off / 32)
  | .error _ => none

/-- The elements from k on that lie in one sector and take the same contributors (R205). -/
def State.collChunk (s : State) (b : Nat) (bd : Band) (r : CollRun) (k : Nat) : List Nat :=
  ((List.range (r.len - k)).map (fun j => k + j)).takeWhile (fun e =>
    s.collSector b bd r e == s.collSector b bd r k && r.need e == r.need k)

/-- Whether an element begins such a group. -/
def State.collStarts (s : State) (b : Nat) (bd : Band) (r : CollRun) (k : Nat) : Bool :=
  k == 0 || s.collSector b bd r (k - 1) != s.collSector b bd r k || r.need (k - 1) != r.need k

/-- The sectors of some near bytes as they stand at home, or a wait for a line (R203). -/
def State.homeSectors (s : State) (b : Nat) (bd : Band) (xs : List Want) : Except Halt (SMap (List Byte)) :=
  xs.foldl (fun (a : Except Halt (SMap (List Byte))) x =>
    match a, s.nearOf b bd x true with
    | .error h, _ => .error h
    | _, .error c => .error (.fail c)
    | .ok got, .ok (p, off) =>
      if (linesOf p off x.n).any (s.lineWaits (fun _ _ => false)) then .error .wait else
      .ok ((sectorsOf x.addr.toNat x.n).foldl (fun g y =>
        SMap.insert g (secKey x.space y) (s.homeRead p (off / 32 * 32 + (y - x.addr.toNat / 32 * 32)) 32)) got)) (.ok [])

/-- Write what a chunk holds for band scratchpad, sector by sector (R205). -/
def State.landChunk (s : State) (b i : Nat) (bd : Band) (path : Path) (x : Chunk) : State :=
  x.sectors.foldl (fun (s : State) y =>
    let lo := (y.2.1.head?.map (fun c => c.1)).getD 0
    match s.nearOf b bd ⟨1, BitVec.ofNat 64 (y.1 + lo), 1, 0, false, false⟩ true with
    | .error _ => s
    | .ok (p, off) => s.instant.publishCells p (y.2.1.map (fun c => (off + c.1 - lo, c.2))) (some (b, i, path)) false) s

/-- Contributions of one rank to elements of one sector: the bank reads, combines and writes them as one (R205, R344). -/
def State.collApply (s : State) (b : Nat) (bd : Band) (r : CollRun) (rank : Nat) (vals : List (Nat × Nat)) :
    Except Halt (CollRun × State) :=
  match s.homeSectors b bd (vals.map (fun x => Rec.need r.dst.2 x.1)) with
  | .error h => .error h
  | .ok got =>
    let step := fun (a : CollRun × Chunk) (x : Nat × Nat) =>
      let had := a.1.got.getD x.1 []
      let v : Nat × Nat × Exc := if had.isEmpty then ((collFirst a.1.op x.2).1, rank, (collFirst a.1.op x.2).2)
        else collCombine a.1.op (Rec.elem r.dst.2 a.2.got x.1) (a.1.win.getD x.1 0) x.2 rank
      ({ a.1 with
        got := a.1.got.set x.1 (had ++ [rank]), win := a.1.win.set x.1 v.2.1, flags := a.1.flags ||| v.2.2.setWidth 64 },
        Rec.put r.dst.2 x.1 v.1 a.2)
    let z := vals.foldl step (r, Chunk.start got)
    .ok (z.1, s.landChunk b r.weft bd .coll z.2)

/-- Write bytes of a rank witness. -/
def State.collWit (s : State) (b : Nat) (bd : Band) (r : CollRun) (a : W64) (bs : List Byte) : State :=
  match s.nearOf b bd ⟨1, a, bs.length, Nat.log2 bs.length, false, false⟩ true with
  | .error _ => s
  | .ok (p, off) => s.land p off bs (some (b, r.weft, .coll)) false

/-- What follows the arrival of contributions (R344, R355, R251): the bytes of the elements that became final count, their
witness entries are written and count, and the last of them ends the collective COMPLETE. -/
def State.collSettle (s : State) (ctx slot b : Nat) (bd : Band) (old r : CollRun) : State :=
  let all := List.range r.len
  let fresh := all.filter (fun k => r.final k && !old.final k)
  let bits := Fmt.memBits (Rec.fmt r.dst.2)
  let n := fun (x : CollRun) => all.countP x.final * bits / 8
  let s := s.modTicket ctx slot (fun t => { t with run := some r })
  let s := s.addCount b r.ctr (n r - n old)
  let s := match r.wit with
    | none => s
    | some (a, _) => fresh.foldl (fun (s : State) k =>
        (s.collWit b bd r (a + BitVec.ofNat 64 (16 + 2 * k)) (leBytes 2 (r.win.getD k 0))).addCount b r.ctr 2) s
  if !all.all r.final then s else
  let s := match r.wit with
    | none => s
    | some (a, ser) =>
      let h := witHead r.len r.g false 2 (if (collMinMax r.op).2 then 6 else 5)
      (s.collWit b bd r a (leBytes 8 h.toNat ++ leBytes 8 ser.toNat)).addCount b r.ctr 16
  s.endTicket ctx slot .complete

/-- See to the whole source walk (R343): what has been read, and what stops the rest. -/
def State.collGather (s : State) (b : Nat) (bd : Band) (r : CollRun) : Cache × Option Halt :=
  (⟨s, r.have_, r.loads, []⟩ : Cache).gather b bd ⟨b, r.weft, .coll, r.snap, bd.gang, r.stamp⟩ (fun _ _ => false)
    ((List.range (Rec.len r.src.2)).map (fun k => Rec.need r.src.2 k))

/-- Whether the bytes that a collective writes at this rank lie in the band's scratchpad. -/
def State.collRoom (s : State) (b : Nat) (bd : Band) (r : CollRun) : Option Cause :=
  let bad := fun (x : Want) => match s.nearOf b bd x true with
    | .error c => some c
    | .ok _ => none
  let wit := match r.wit with
    | none => []
    | some (a, _) => [(⟨1, a, 16, 4, false, false⟩ : Want), ⟨1, a + BitVec.ofNat 64 (16 + 2 * (r.len - 1)), 2, 1, false, false⟩]
  ((List.range r.len).map (fun k => Rec.need r.dst.2 k) ++ wit).findSome? bad

/-- A rank starts its number (R337): the marker of its witness is written (R251). -/
def State.collBegin (s : State) (b : Nat) (bd : Band) (r : CollRun) : CollRun × State :=
  if r.started then (r, s) else
  ({ r with started := true, since := s.now }, match r.wit with
    | none => s
    | some (a, ser) => s.collWit b bd r a (leBytes 8 witMarker.toNat ++ leBytes 8 ser.toNat))

/-- A number starts at a rank (R337, R343, R344): the source is read and the destination takes its contribution. Where far sectors
of the source are missing, they are asked for first, in service class 2 (R371), and the rank goes on when they have come. -/
def State.collStart (s : State) (ctx slot b : Nat) (bd : Band) (r : CollRun) : Except Halt (CollRun × State) :=
  match s.collRoom b bd r with
  | some c => .error (.fail c)
  | none =>
    let x := s.collGather b bd r
    if !x.1.ask.isEmpty then
      let z := x.1.s.collBegin b bd r
      let y := x.1.ask.foldl (fun (z : State × List (Nat × Nat)) a =>
        let q := FarReq.make (.coll ctx slot) .load bd (BitVec.ofNat 64 a.1) 32 .segment
        (z.1.sendReq { q with cls := 2, snap := r.snap }, z.2 ++ [(z.1.stamp, secKey 0 a.1)])) (z.2, r.loads)
      .ok ({ z.1 with loads := y.2, have_ := x.1.got }, y.1)
    else
    match x.2 with
    | some h => .error h
    | none =>
      let src := (List.range (Rec.len r.src.2)).map (fun k => Rec.elem r.src.2 x.1.got k)
      let z := x.1.s.collBegin b bd r
      let heads := (List.range r.len).filter (fun k => z.2.collStarts b bd r k && (r.need k).contains r.q)
      heads.foldl (fun (a : Except Halt (CollRun × State)) k =>
        match a with
        | .error h => .error h
        | .ok (r, s) =>
          s.collApply b bd r r.q ((s.collChunk b bd r k).map (fun e => (e, src.getD (r.ownElem e) 0)))) (.ok ({ z.1 with
            taken := true, have_ := [] }, z.2))

/-- A transfer that may start at its rank now, or go on with its source (R337, R354): the ticket, its number, its transfer and its
band. -/
def State.collReady (s : State) (ctx slot : Nat) : Option (Ticket × BitVec 48 × CollRun × Band) :=
  match s.ticket? ctx slot with
  | none => none
  | some t =>
    match t.number, t.run, t.run.bind (fun r => s.band? r.band) with
    | some n, some r, some bd =>
      let live := match s.number? n with
        | some x => x.state == .assigned || x.state == .running
        | none => true
      if t.fin.isSome || r.taken || !bd.enginesRun then none
      else if r.started then some (t, n, r, bd)
      else if !live || !s.myTurn bd.part n || s.fenceHolds r.band r.weft .coll r.stamp then none
      else some (t, n, r, bd)
    | _, _, _ => none

/-- COLLECTIVE_RANK_START (R337), once more where the rank goes on with a source that it has asked for. -/
def execCollectiveRankStart (ctx slot : Nat) (number : BitVec 48) (s : State) : Out :=
  let no : Out := .refused (.notPending "COLLECTIVE_RANK_START")
  match s.collReady ctx slot with
  | none => no
  | some (_, n, r, bd) =>
    if n ≠ number then no else
    match s.collStart ctx slot r.band bd r with
    | .ok (r', s) => .next (s.collSettle ctx slot r.band bd r r')
    | .error _ => no

/-- BANK_ADDER_COMBINE (R344): a whole sector of one rank's contributions, as the source's bits. -/
def execBankAdderCombine (ctx slot rank elem : Nat) (vals : List W32) (s : State) : Out :=
  let no : Out := .refused (.notPending "BANK_ADDER_COMBINE")
  match s.ticket? ctx slot with
  | none => no
  | some t =>
    match t.run, t.run.bind (fun r => s.band? r.band) with
    | some r, some bd =>
      let ks := s.collChunk r.band bd r elem
      if t.fin.isSome || !r.taken || !bd.enginesRun || !s.collStarts r.band bd r elem || rank == r.q
          || !(r.need elem).contains rank || ks.any (fun k => (r.got.getD k []).contains rank) || vals.length != ks.length
          || ks.isEmpty then no else
      match s.collApply r.band bd r rank (ks.zip (vals.map BitVec.toNat)) with
      | .ok (r', s) => .next ((s.collSettle ctx slot r.band bd r r').arrives 3 (4 * vals.length))
      | .error _ => no
    | _, _ => no

/-- Whether this device holds the beacon's table: as the primary, as its standby, whose commits it takes, or after a takeover
(R339, R340). -/
def State.beaconTable (s : State) : Bool := fld (s.kget .pbeacon) 33 32 == 1 || fld (s.kget .pbeacon) 33 32 == 2 || s.promoted

/-- Whether the lantern has a port to send and receive by (R339). -/
def State.linked (s : State) : Bool := (List.range Config.ports).any (fun p => !s.portDown p)

/-- The lanes that a port carries traffic on (R370): none where its adapter has stopped (R362). -/
def State.lanesUp (s : State) (port : Nat) : Nat :=
  if s.dead.contains (0x0B, port) then 0 else fld (s.kget (.plink port)) 15 8

/-- A message of some payload leaves on a virtual channel where its credits and the charge to a partition's bucket allow it (R327,
R331). -/
def State.leaves (s : State) (port vc payload : Nat) (charge : Option (Nat × Nat)) : Option State :=
  let have_ := SMap.get (s.uport port).credits 0 vc
  let cost := creditsFor payload
  if s.up = false ∨ s.lanesUp port = 0 ∨ have_ < cost then none else
  let t := s.instant.modUport port (fun p => { p with credits := SMap.set p.credits 0 vc (have_ - cost) })
  match charge with
  | none => some t
  | some (part, n) =>
    let tokens := fld (s.kget (.tokens part port)) 20 0
    if tokens < n then none else some (t.kset (.tokens part port) (BitVec.ofNat 64 (tokens - n)))

/-- Whether this device's lantern runs the beacon (R340): the primary, or the standby after a takeover. -/
def State.beaconRuns (s : State) : Bool := fld (s.kget .pbeacon) 33 32 == 1 || s.promoted

/-- The lantern sends a message of the beacon on virtual channel 2 (R327): by the lowest port that can send it (log 59). -/
def State.tell (s : State) : Option State :=
  (List.range Config.ports).findSome? (fun p => if s.portDown p then none else s.leaves p 2 0 none)

/-- A decision of the beacon, with the messages that it takes of this device: a primary commits it to its standby, which must answer,
before it acts on it (R339; a device that is its own standby needs none, nor one that has taken over); on another device, a request
or a report of its own goes to the beacon, and what the beacon tells it comes by a port. -/
def State.decides (s : State) (mine : Bool) : Option State :=
  if s.up = false then none
  else if s.beaconRuns then
    (if s.promoted || fld (s.kget .pbeacon) 43 34 == s.accel then some s else if s.standbyUp then s.tell else none)
  else if s.linked = false then none
  else if mine then s.tell else some (s.arrives 2 0)

/-- COLL_TICKET_LAND (R342): the number of the ticket's key, which the beacon gives to the requester and to every member. -/
def execCollTicketLand (ctx slot : Nat) (number : BitVec 48) (s : State) : Out :=
  let no : Out := .refused (.notPending "COLL_TICKET_LAND")
  match s.ticket? ctx slot with
  | none => no
  | some t =>
    if t.number.isSome || s.up = false || s.beaconLost || !(s.beaconTable || s.linked)
        || !s.numbers.any (fun e => e.1 == number.toNat && e.2.comm == t.comm && e.2.call == t.call) then no else
    let part := ((s.ctx? ctx).map (fun c => c.part)).getD 0
    let fin := (s.number? number).bind (fun x => SMap.find? x.mine part)
    let v := BitVec.ofNat 64 (slot * 2 ^ 48 + number.toNat)
    let s := s.modTicket ctx slot (fun t => { t with number := some number, fin := fin })
    .next (s.modWeft t.band t.weft (fun w =>
      { w.sset t.dst v with await := w.await.filter (fun a => a.req != t.req), failed := SMap.erase w.failed ((256 + t.dst) * 64) }))

end Sys2Proof.Machine
end

