-- ==== Sys2Proof/Machine/Beacon.lean ====
section
/-! DEFINITION. The beacon (R336 to R341): communicators, numbers and their states, failover and loss. On the standby an event
of the beacon is the primary's synchronous commit of it (R339; log 31). -/
namespace Sys2Proof.Machine

/-- COMMUNICATOR_REGISTER (R336). -/
def execCommunicatorRegister (num : Nat) (members : List Member) (watermark : W32) (s : State) : Out :=
  if 2 ^ 16 ≤ num ∨ members.isEmpty ∨ 1024 < members.length ∨ (SMap.find? s.comms num).isSome then
    .refused (.notPending "COMMUNICATOR_REGISTER")
  else .next { s with comms := SMap.insert s.comms num ⟨members, watermark⟩ }

/-- COMMUNICATOR_REMOVE (R336): its numbers go with it (log 49). -/
def execCommunicatorRemove (num : Nat) (s : State) : Out :=
  if (SMap.find? s.comms num).isNone then .refused (.notPending "COMMUNICATOR_REMOVE")
  else .next { s with comms := SMap.erase s.comms num, numbers := s.numbers.filter (fun e => e.2.comm != num) }

/-- Whether the beacon may assign a number (R337): it is less than 2^47 past the oldest number that is not done. -/
def State.mayAssign (s : State) (n : BitVec 48) : Bool :=
  s.numbers.all (fun e => e.2.state == .done || decide ((n - BitVec.ofNat 48 e.1).toNat < 2 ^ 47))

/-- A number is assigned to a key (R337, R338). -/
def State.assign (s : State) (n : BitVec 48) (comm : Nat) (call : W32) (size : Nat) : State :=
  { s with
    lastNumber := n
    numbers := SMap.insert s.numbers n.toNat ⟨comm, call, .assigned, List.replicate size .idle, s.now, 0, []⟩ }

/-- BEACON_KEY_REQUEST (R337): a member's first request of a key is answered with the next number, later ones with the same. A
request of this device is one of its tickets that has no number. On a device without the beacon's table it is the answer as the
beacon sends it to every member, with the number that it tells; the numbers come in the order in which they were given (log 49). -/
def execBeaconKeyRequest (comm : Nat) (call : W32) (acc : Nat) (ask : KeyAsk) (s : State) : Out :=
  let no : Out := .refused (.notPending "BEACON_KEY_REQUEST")
  match SMap.find? s.comms comm with
  | none => no
  | some c =>
    let own := acc != s.accel || s.ctxs.any (fun e => e.2.part == ask.part && e.2.tickets.any (fun t =>
      t.2.comm == comm && t.2.call == call && t.2.number.isNone))
    if s.beaconLost || s.beaconTable != ask.told.isNone || !c.members.contains ⟨acc, ask.part⟩ || !own then no else
    match s.keyNumber comm call, s.decides (acc == s.accel) with
    | _, none => no
    | some (m, _), some t => if ask.told.all (fun n => n.toNat == m) then .next t.instant else no
    | none, some t =>
      let n := ask.told.getD (s.lastNumber + 1)
      if staleCall c.watermark call || (SMap.find? s.numbers n.toNat).isSome then no
      else if ask.told.isSome && (!numBefore s.lastNumber n || !c.members.any (fun m => m.acc == s.accel)) then no
      else if ask.told.isNone && !s.mayAssign n then no
      else .next (t.instant.assign n comm call c.members.length)

/-- Move a communicator's watermark past the call indices that are done (R336). -/
def State.retireCalls (s : State) (comm : Nat) : Nat → State
  | 0 => s
  | n + 1 =>
    match SMap.find? s.comms comm with
    | none => s
    | some c =>
      match s.keyNumber comm c.watermark with
      | some (_, x) =>
        if x.state = .done then
          State.retireCalls { s with comms := SMap.insert s.comms comm { c with watermark := c.watermark + 1 } } comm n
        else s
      | none => s

/-- Whether every rank is in the state that ends a number (R338). -/
def BNum.over (x : BNum) : Bool :=
  match x.state with
  | .assigned | .done => false
  | .running => x.ranks.all (fun r => r == .complete)
  | .aborting => x.ranks.all (fun r => r == .complete || r == .aborted)
  | .cancelled => x.ranks.all (fun r => r == .skipped)

/-- The state of a number after its ranks' states (R338). -/
def BNum.settle (x : BNum) : BNum :=
  let x := if x.state == .assigned && x.ranks.any (fun r => r == .started || r == .complete) then { x with state := .running } else x
  if x.over then { x with state := .done } else x

/-- A number's entry changes, and what follows from it: the call indices that it retires (R336, R338). -/
def State.settleNumber (s : State) (n : BitVec 48) (f : BNum → BNum) : State :=
  match s.number? n with
  | none => s
  | some x => (s.modNumber n (fun x => (f x).settle)).retireCalls x.comm s.numbers.length

/-- The partitions of this device that are members of a communicator. -/
def State.myParts (s : State) (comm : Nat) : List Nat :=
  (((SMap.find? s.comms comm).map (fun c => c.members)).getD []).filterMap (fun m => if m.acc = s.accel then some m.part else none)

/-- What a rank reports (R338): 1 started, 2 complete, 3 aborted, 4 skip acknowledged. -/
def RankState.ofCode (n : Nat) : Option RankState :=
  match n with
  | 1 => some .started
  | 2 => some .complete
  | 3 => some .aborted
  | 4 => some .skipped
  | _ => none

/-- Whether a rank of this device is in the state that it would report. -/
def State.rankIs (s : State) (n : BitVec 48) (x : BNum) (part : Nat) (r : RankState) : Bool :=
  let started := (s.ticketsOf part n).any (fun y => ((s.ticket? y.1 y.2).bind (fun t => t.run)).any (fun u => u.started))
  match r, SMap.find? x.mine part with
  | .started, some .complete => true
  | .started, some (.aborted _) => started
  | .started, none => started
  | .complete, some .complete => true
  | .aborted, some (.aborted _) => true
  | .skipped, some .cancelled => true
  | _, _ => false

/-- The rank states that may follow a recorded one: a rank that has ended stays so. -/
def RankState.mayBecome (a b : RankState) : Bool :=
  match a with
  | .idle => b != .idle
  | .started => b == .complete || b == .aborted
  | _ => false

/-- RANK_STATE_REPORT (R338). On a device without the beacon's table, state 5 is the beacon's notice that a number is DONE, from
which the device knows which call indices are retired (R336, R346; log 49). -/
def execRankStateReport (number : BitVec 48) (rank state : Nat) (s : State) : Out :=
  let no : Out := .refused (.notPending "RANK_STATE_REPORT")
  match s.number? number, RankState.ofCode state with
  | some x, none =>
    if state != 5 || s.up = false || s.beaconTable || s.beaconLost || !s.linked || x.state == .done
        || (s.myParts x.comm).any (fun p => (SMap.find? x.mine p).isNone) then no
    else .next (s.instant.settleNumber number (fun x => { x with state := .done }))
  | some x, some r =>
    match (SMap.find? s.comms x.comm).bind (fun c => c.members[rank]?), x.ranks[rank]? with
    | some m, some old =>
      if !s.beaconTable || s.beaconLost || !old.mayBecome r || (m.acc == s.accel && !s.rankIs number x m.part r) then no
      else match s.decides (m.acc == s.accel) with
        | none => no
        | some t => .next (t.instant.settleNumber number (fun x => { x with ranks := x.ranks.set rank r }))
    | _, _ => no
  | _, _ => no

/-- A number is cancelled (R338): every ticket of this device for it ends CANCELLED. -/
def State.cancelNumber (s : State) (n : BitVec 48) : State :=
  match s.number? n with
  | none => s
  | some x =>
    let s := s.modNumber n (fun x => { x with state := .cancelled })
    (s.myParts x.comm).foldl (fun (s : State) p => s.endRank p n .cancelled) s

/-- The abort of a number begins (R338). -/
def State.abortNumber (s : State) (n : BitVec 48) (reason : Nat) : State :=
  s.settleNumber n (fun x => { x with state := .aborting, reason := reason })

/-- The beacon's answer to a COLLC lands (R345). -/
def State.answerCancel (s : State) (id : Nat) (answer : Nat) : State :=
  match SMap.find? s.cancels id with
  | none => s
  | some c =>
    let s := { s with cancels := SMap.erase s.cancels id }
    s.modWeft c.band c.weft (fun w =>
      { w.sset c.dst (BitVec.ofNat 64 answer) with await := w.await.filter (fun a => a.req != id) })

/-- BEACON_CANCEL (R338, R345): a COLLC of this device, whose number `by_` gives, or of another. A beacon on another device
answers from outside; its cancellation of a number that has not started here is answer 0, whoever asked for it. -/
def execBeaconCancel (number : BitVec 48) (by_ : Option Nat) (answer : Nat) (s : State) : Out :=
  let no : Out := .refused (.notPending "BEACON_CANCEL")
  let mine := (by_.map (fun id => ((SMap.find? s.cancels id).map (fun c => c.number == number)).getD false)).getD true
  match s.number? number with
  | none => no
  | some x =>
    if !mine || s.beaconLost then no else
    match s.decides by_.isSome with
    | none => no
    | some s =>
    let done := fun (s : State) (a : Nat) => Host.Outcome.next ((by_.map (fun id => s.answerCancel id a)).getD s.instant)
    if s.beaconTable then
      match x.state with
      | .assigned => done (s.cancelNumber number) 0
      | .running => done (s.abortNumber number 1) 1
      | _ => done s 2
    else
      let started := (s.myParts x.comm).any (fun p => s.rankIs number x p .started)
      match answer, by_.isSome with
      | 0, _ => if started || !x.mine.isEmpty || x.state != .assigned then no else done (s.cancelNumber number) 0
      | 1, true =>
        if x.state != .assigned || x.mine.any (fun e => e.2 != .complete) then no
        else done (s.abortNumber number 1) 1
      | 2, true => done s 2
      | _, _ => no

/-- COLLECTIVE_TIMEOUT (R338, R340). -/
def execCollectiveTimeout (number : BitVec 48) (s : State) : Out :=
  let no : Out := .refused (.notPending "COLLECTIVE_TIMEOUT")
  match s.number? number with
  | none => no
  | some x =>
    let late := !s.beaconRuns || decide (x.at_ + 1000 * fld (s.kget .pbeacon) 23 0 ≤ s.now)
    if s.up = false || !s.beaconTable || s.beaconLost || !late || (x.state != .assigned && x.state != .running) then no
    else .next (s.abortNumber number 2)

/-- MEMBER_LOSS_ABORT (R338). -/
def execMemberLossAbort (number : BitVec 48) (s : State) : Out :=
  let no : Out := .refused (.notPending "MEMBER_LOSS_ABORT")
  match s.number? number with
  | none => no
  | some x => if s.up = false || !s.beaconTable || s.beaconLost || x.state != .running then no else .next (s.abortNumber number 3)

/-- The cause of an error that ends a rank's transfer (R343): its own read or write, or one from outside. -/
def State.collCauseOf (s : State) (ctx slot : Nat) (err : EngineErr) : Option (Cause × State) :=
  match s.ticket? ctx slot with
  | none => none
  | some t =>
    match t.run, t.run.bind (fun r => s.band? r.band) with
    | some r, some bd =>
      if t.fin.isSome then none else
      let a := r.src.2.base
      match err with
      | .own =>
        if (s.collReady ctx slot).isNone then none else
        (match s.collStart ctx slot r.band bd r with
        | .error (.fail c) => some (c, s)
        | .error (.lost req) => (s.reqError req).map (fun c => (c, s))
        | _ => none)
      | .answer req ans =>
        (s.req? req).bind (fun q => match s.ended q ans with
          | some (.error c) =>
            if q.who = .coll ctx slot ∨ t.number.any (fun n => q.who == .collMsg bd.part n) then some (c, s.endReq req q ans) else none
          | _ => none)
      | .peerTimeout _ | .portDown _ => none
      | .completer p => if r.started then some (fabricCause 3 p none a, s) else none
      | .poisoned p => if r.started then some (fabricCause 4 p none a, s) else none
      | .uncorrected unit x => if r.started || (s.collReady ctx slot).isSome then some (s.uncorrected unit x bd.part bd.ctx 2 a) else none
    | _, _ => none

/-- TRANSFER_ERROR_ABORT (R338, R343): a rank of this device ends by an error of its own, which is reported; or the beacon takes
the report of a rank. -/
def execTransferErrorAbort (number : BitVec 48) (own : Option (Nat × Nat × EngineErr)) (s : State) : Out :=
  let no : Out := .refused (.notPending "TRANSFER_ERROR_ABORT")
  match own with
  | some (ctx, slot, err) =>
    if ((s.ticket? ctx slot).bind (fun t => t.number)) ≠ some number then no else
    match s.collCauseOf ctx slot err with
    | some (c, s) => .next (s.failRun ctx slot c)
    | none => no
  | none =>
    match s.number? number with
    | none => no
    | some x =>
      let told := x.mine.any (fun e => e.2 == .aborted 5)
      if s.up = false || !s.beaconTable || s.beaconLost || !(x.state == .running || (x.state == .assigned && told)) then no
      else .next (s.abortNumber number 5)

/-- COLLECTIVE_ABORT_RECEIVED (R338): the rank of a partition of this device ends ABORTED unless it has ended COMPLETE. -/
def execCollectiveAbortReceived (number : BitVec 48) (part reason : Nat) (s : State) : Out :=
  let no : Out := .refused (.notPending "COLLECTIVE_ABORT_RECEIVED")
  match s.number? number with
  | none => no
  | some x =>
    let told := if s.beaconTable || x.state == .aborting then x.state == .aborting && x.reason == reason
      else reason == 1 || reason == 2 || reason == 3 || reason == 5
    if s.up = false || !told || s.beaconLost || (SMap.find? x.mine part).isSome || !(s.myParts x.comm).contains part then no
    else .next (s.endRank part number (.aborted reason)).instant

/-- BEACON_HEARTBEAT (R339): sent by the beacon every 10 µs, to a standby on another device, or received by the standby. -/
def execBeaconHeartbeat (s : State) : Out :=
  let no : Out := .refused (.notPending "BEACON_HEARTBEAT")
  let sent : Option State :=
    if s.beaconRuns then
      (if s.now < s.heartbeatAt + 10000 then none
       else if s.promoted || fld (s.kget .pbeacon) 43 34 == s.accel then some s else s.tell)
    else if fld (s.kget .pbeacon) 33 32 = 2 ∧ s.linked then some (s.arrives 2 0) else none
  match sent with
  | some t => if s.up then .next { t with heartbeatAt := s.now } else no
  | none => no

/-- STANDBY_TAKEOVER (R339): after 200 µs without a heartbeat. -/
def execStandbyTakeover (s : State) : Out :=
  if s.up ∧ fld (s.kget .pbeacon) 33 32 = 2 ∧ s.promoted = false ∧ s.heartbeatAt + 200000 ≤ s.now then .next { s with promoted := true }
  else .refused (.notPending "STANDBY_TAKEOVER")

/-- BEACON_PROMOTE_COMMAND (R339). -/
def execBeaconPromoteCommand (s : State) : Out :=
  if s.up ∧ s.keeperUp ∧ fld (s.kget .pbeacon) 33 32 = 2 ∧ s.promoted = false then .next { s with promoted := true }
  else .refused (.notPending "BEACON_PROMOTE_COMMAND")

/-- The shortest peer timeout: a lantern's request goes by a port that the manual does not name (log 32). -/
def State.lanternTmo (s : State) : Nat := (List.range Config.ports).foldl (fun a p => min a (s.portTmo p)) (s.portTmo 0)

/-- LANTERN_REQUEST_RETRY (R339): a COLL's request or a COLLC's. -/
def execLanternRequestRetry (req : LanternReq) (id : Nat) (s : State) : Out :=
  let no : Out := .refused (.notPending "LANTERN_REQUEST_RETRY")
  if s.up = false then no else
  match req with
  | .coll ctx =>
    match s.ticket? ctx id with
    | none => no
    | some t =>
      if t.number.isSome ∨ t.retry ∨ s.now < t.sentAt + s.lanternTmo then no
      else .next (s.modTicket ctx id (fun t => { t with retry := true, sentAt := s.now }))
  | .collc =>
    match SMap.find? s.cancels id with
    | none => no
    | some c =>
      if c.retry ∨ s.now < c.sentAt + s.lanternTmo then no
      else .next { s with cancels := SMap.insert s.cancels id { c with retry := true, sentAt := s.now } }

/-- A COLL that was waiting for its number when the beacon was lost (R339): its ticket register is marked failed. -/
def State.failTicket (s : State) (t : Ticket) : State :=
  s.modWeft t.band t.weft (fun w => { w with
    failed := SMap.insert w.failed ((256 + t.dst) * 64) (collCause 10 t.comm t.call 0)
    await := w.await.filter (fun a => a.req != t.req) })

/-- BEACON_LOSS (R339): the keeper tells it, or a retry goes unanswered. Every number not yet done ends ABORTED with reason 4,
and an outstanding COLLC finds its number ended. -/
def execBeaconLoss (s : State) : Out :=
  if s.beaconLost ∨ s.up = false then .refused (.notPending "BEACON_LOSS") else
  let open_ := s.numbers.filter (fun e => e.2.state != .done)
  let s := open_.foldl (fun (s : State) e =>
    let n := BitVec.ofNat 48 e.1
    let s := (s.myParts e.2.comm).foldl (fun (s : State) p =>
      if (SMap.find? e.2.mine p).isSome then s else s.endRank p n (.aborted 4)) s
    s.settleNumber n (fun x => { x with state := .done, reason := 4 })) s
  let waiting := s.ctxs.flatMap (fun c => (c.2.tickets.filter (fun t => t.2.number.isNone)).map (fun t => t.2))
  let s : State := waiting.foldl State.failTicket s
  let keep := fun (c : Context) => { c with tickets := c.tickets.filter (fun t => t.2.number.isSome) }
  let s : State := { s with ctxs := s.ctxs.map (fun e => (e.1, keep e.2)) }
  let s := (s.cancels.map (fun e => e.1)).foldl (fun (s : State) id => s.answerCancel id 2) s
  .next { s.instant with beaconLost := true }

end Sys2Proof.Machine
end

