-- ==== Sys2Proof/Machine/Fabric.lean ====
section
/-! DEFINITION. UALink ports (R327 to R331): requests from peers (R397), timeouts, credits, token buckets, egress, and the
communication raise of lantern egress queues (R289). -/
namespace Sys2Proof.Machine

/-- The lanes of a mask, counted. -/
def laneCount (m : Nat) : Nat := (List.range 4).countP (fun l => m / 2 ^ l % 2 == 1)

/-- The time of 1024 link cycles in ns at a width in lanes (R329): a cycle carries 64 bytes, in 0.64 ns at x4. -/
def windowNs (lanes : Nat) : Nat := 1024 * 64 * 4 / (100 * lanes)

/-- CREDIT_REAPPORTION (R329), once 1024 link cycles have passed since the last: `used` gives the highest occupancy of each channel in the window. -/
def execCreditReapportion (port : Nat) (used : List Nat) (s : State) : Out :=
  let u := fun v => used.getD v 0
  let sum := (List.range 4).foldl (fun a v => a + u v + 1) 0
  let lanes := laneCount (s.lanesUp port)
  if Config.ports ≤ port ∨ used.length ≠ 4 ∨ lanes = 0 ∨ s.now < (s.uport port).windowAt + windowNs lanes ∨ (List.range 4).any (fun v => decide ((s.uport port).holds v < u v)) then
    .refused (.notPending "CREDIT_REAPPORTION")
  else
    let share := fun v => 256 + 3072 * (u v + 1) / sum
    let left := 4096 - (List.range 4).foldl (fun a v => a + share v) 0
    .next (s.instant.modUport port (fun p => Port.release { p with
      windowAt := s.now
      limits := (List.range 4).foldl (fun m v => SMap.set m 1024 v (share v + (if v = 0 then left else 0))) [] }))

/-- CREDIT_RETURN (R327): the partner gives credits for sending. -/
def execCreditReturn (port vc n : Nat) (s : State) : Out :=
  if Config.ports ≤ port ∨ 4 ≤ vc ∨ n = 0 then .refused (.notPending "CREDIT_RETURN")
  else .next (s.instant.modUport port (fun p => { p with credits := SMap.set p.credits 0 vc (SMap.get p.credits 0 vc + n) }))

/-- The data bytes that a request is charged for (R331). -/
def FarReq.chargeBytes (r : FarReq) : Nat :=
  match r.op with
  | .load => r.len
  | .store => r.len
  | .atom op w64 _ => (if w64 then 8 else 4) * (if op == .cas then 2 else 1)
  | .probe _ => 0

/-- The bytes that a request carries. -/
def FarReq.payload (r : FarReq) : Nat :=
  match r.op with
  | .load => 0
  | .probe _ => 0
  | _ => r.chargeBytes

/-- A request or a response leaves (R331): the first request of its partition in the queue, on channel 3 if it is of a collective, or a
peer's response. -/
def State.reqLeaves (s : State) (port req : Nat) (r : FarReq) : Option State :=
  match r.who, r.stage with
  | .peer _ _ q, .respond ans =>
    if q ≠ port then none else (s.leaves port 1 (respBytes ans) none).map (fun t => t.dropReq req)
  | _, _ =>
    let first := ((s.uport port).egress.find? (fun x => ((s.req? x).map (fun y => y.part == r.part)).getD false)) == some req
    if r.stage ≠ .egress port ∨ first = false then none else
    let vc := match r.who with
      | .collMsg _ _ => 3
      | _ => 0
    (s.leaves port vc r.payload (some (r.part, 32 + r.chargeBytes))).map (fun t =>
      (t.setReq req { r with stage := .sent port }).leaveEgress port req)

/-- A message of a collective, which a rank of this device has started, enters a port's egress queue (R328, R331). -/
def State.queueColl (s : State) (port : Nat) (n : BitVec 48) (part bytes : Nat) : State :=
  let id := s.stamp
  let q : FarReq := {
    who := .collMsg part n, op := .store, ctx := 255, part := part, core := 0, addr := 0, len := bytes, data := [], dst := 0, ctr := none
    stamp := id, cls := 2, stage := .egress port, home := 0, owner := 0, rights := 0, heldOnce := false, passed := [], region := none
    blockAt := none, snap := 0, at_ := s.now, stampD := 0, mask := [], fresh := false, via := none, by_ := 320 + port
    wire := 0, held := 0, retry := 0, room := 0, peer := 0 }
  s.nextStamp.toEgress id q port

/-- A request at a port that is down ends at once (R328). -/
def State.failMsg (s : State) (port id : Nat) : State :=
  match s.req? id with
  | some r => (s.leaveEgress port id).failReq id r (s.fabricFail r 2 port)
  | none => s

/-- REQUEST_EGRESS (R327, R328, R331): a request or a response leaves; a message of a collective that a rank of this device has
started joins the queue, to leave on virtual channel 3 and charged, or ends at once where the port is down; or a message of the
beacon leaves on channel 2, never charged. Which messages the lantern's schedule sends, and by which ports, comes with the event
(log 59). -/
def execRequestEgress (port : Nat) (msg : Egress) (s : State) : Out :=
  let sent : Option State := match msg with
    | .req id => (s.req? id).bind (fun r => s.reqLeaves port id r)
    | .coll n part bytes =>
      let live := (s.number? n).any (fun x => x.state != .done && x.state != .cancelled && s.rankIs n x part .started)
      if s.up = false || Config.ports ≤ port || !live || bytes = 0 || 256 < bytes then none else
      let t := s.queueColl port n part bytes
      some (if s.portDown port then t.failMsg port s.stamp
        else t)
    | .beacon bytes => if bytes = 0 ∨ 256 < bytes then none else s.leaves port 2 bytes none
  match sent with
  | some t => .next t
  | none => .refused (.notPending "REQUEST_EGRESS")

/-- PEER_TIMEOUT (R328). -/
def execPeerTimeout (req : Nat) (s : State) : Out :=
  let no : Out := .refused (.notPending "PEER_TIMEOUT")
  match s.req? req with
  | none => no
  | some r =>
    match r.portOf with
    | none => no
    | some p =>
      if s.now < r.at_ + s.portTmo p then no else
      .next ((s.leaveEgress p req).failReq req r (s.fabricFail r 1 p))

/-- A port goes down (R328, R369): its requests complete at once with group 20, reason 2, and responses that wait there are
lost. -/
def State.downPort (s : State) (port : Nat) : State :=
  let s := s.kset (.ptmo port) (setFld (s.kget (.ptmo port)) 20 20 1)
  let v := s.kget (.plink port)
  let s := s.kset (.plink port) (setFld (setFld v 15 8 0) 1 0 3)
  let mine := s.reqs.filter (fun e => e.2.portOf == some port)
  let s := mine.foldl (fun (s : State) e => s.failMsg port e.1) s
  let s := { s with reqs := s.reqs.filter (fun e => match e.2.who, e.2.stage with
    | .peer _ _ p, .respond _ => p != port
    | _, _ => true) }
  let s := s.modUport port (fun p => { p with want := none, halted := 0, good := 0 })
  s.logEvent { kind := 5, unit := 0x0B, sev := 2, die := port / 4, inst := port }

/-- A token bucket of a port (R330): its partition, rate, depth, weight and tokens. -/
structure Bucket where
  part : Nat
  rate : Nat
  depth : Nat
  weight : Nat
  tokens : Nat

/-- The bucket of a partition on a port. -/
def State.bucketOf (s : State) (port part : Nat) : Bucket :=
  let v := s.kget (.bucket part port)
  let d := fld v 51 32
  ⟨part, fld v 19 0, if d = 0 then 0 else max d 4096, fld v 63 56, fld (s.kget (.tokens part port)) 20 0⟩

/-- The refill of a bucket: what it then holds, and what spills (R331). -/
def Bucket.fill (b : Bucket) : Bucket × Int :=
  let room : Int := b.depth - b.tokens
  if (b.rate : Int) ≤ room then ({ b with tokens := b.tokens + b.rate }, 0) else ({ b with tokens := b.depth }, b.rate - room)

/-- The pooling of R331 over the buckets of a port; `waits` says which partitions have a request waiting. -/
def poolBuckets (waits : Nat → Bool) (bs : List Bucket) : List Bucket :=
  let filled := bs.map Bucket.fill
  let pool := (filled.foldl (fun a x => a + x.2) (0 : Int)).toNat
  let sum := filled.foldl (fun a x => if waits x.1.part then a + x.1.weight else a) 0
  filled.map (fun x =>
    let b := x.1
    if waits b.part ∧ 0 < b.weight then { b with tokens := min b.depth (b.tokens + pool * b.weight / sum) } else b)

/-- TOKEN_BUCKET_TICK (R331): every microsecond. A bucket is backlogged while a request of its partition waits in the port's
egress queue. -/
def execTokenBucketTick (port : Nat) (s : State) : Out :=
  let p := s.uport port
  if Config.ports ≤ port ∨ s.now < p.tickAt + 1000 then .refused (.notPending "TOKEN_BUCKET_TICK") else
  let waits := fun part => p.egress.any (fun x => ((s.req? x).map (fun r => r.part == part)).getD false)
  let bs := poolBuckets waits ((List.range 20).map (s.bucketOf port))
  let s := bs.foldl (fun (s : State) b => s.kset (.tokens b.part port) (BitVec.ofNat 64 b.tokens)) s
  .next (s.instant.modUport port (fun p => { p with tickAt := p.tickAt + 1000 }))

/-- COMM_RAISE_START (R289): the port's lantern egress queue is empty again. -/
def execCommRaiseStart (port : Nat) (s : State) : Out :=
  if s.raiseOff.contains port ∧ (s.uport port).egress = [] then .next { s.instant with raiseOff := s.raiseOff.filter (fun p => p != port) }
  else .refused (.notPending "COMM_RAISE_START")

/-- COMM_RAISE_END (R289): the queue has held a request for 1 µs. -/
def execCommRaiseEnd (port : Nat) (s : State) : Out :=
  let late := match (s.uport port).filledAt with
    | some t => decide (t + 1000 ≤ s.now)
    | none => false
  if Config.ports ≤ port ∨ s.raiseOff.contains port ∨ late = false then .refused (.notPending "COMM_RAISE_END")
  else .next { s.instant with raiseOff := port :: s.raiseOff }

/-- The byte of the export table for a label (R397); none where it lies in no HBM. -/
def State.exportByte (s : State) (label : Nat) : Nat :=
  let a := fld (s.kget .pexport) 55 16 * 2 ^ 16 + label
  if a < Config.hbmStacks * 2 ^ 36 then (Mem.get s.hbm a).toNat else (Config.freeTable a).toNat % 256

/-- The partition that an exported label resolves to (R397); none where the request is refused. -/
def State.exported (s : State) (label : Nat) : Option Nat :=
  let b := s.exportByte label
  if fld (s.kget .pexport) 0 0 = 0 ∨ b < 128 ∨ b / 32 % 4 ≠ 0 ∨ 19 < b % 32 then none else some (b % 32)

/-- Whether a request is one that the ports serve (R327): reads and writes of 1 to 256 bytes within 256, and atomics; what is not
served is answered as unsupported. Kinds: 0 read, 1 write, 2 atomic of 32 bits, 3 of 64 bits, 4 to 7 a PROBE (R326). -/
def Inbound.served (r : Inbound) : Bool :=
  let a := r.addr.toNat
  match r.kind with
  | 0 => decide (1 ≤ r.len) && decide (r.len ≤ 256) && decide (a % 256 + r.len ≤ 256)
  | 1 => decide (1 ≤ r.data.length) && decide (r.data.length ≤ 256) && decide (a % 256 + r.data.length ≤ 256)
  | 2 => a % 4 == 0 && r.data.length == (if r.op == .cas then 8 else 4)
  | 3 => a % 8 == 0 && r.op != .inc && r.op != .fadd && r.data.length == (if r.op == .cas then 16 else 8)
  | k => decide (4 ≤ k) && decide (k ≤ 7)

/-- The operation of a peer's request. -/
def Inbound.farOp (r : Inbound) : FarOp :=
  match r.kind with
  | 0 => .load
  | 1 => .store
  | 2 => .atom r.op false false
  | 3 => .atom r.op true false
  | k => .probe (k - 4)

/-- The bytes that a peer's request accesses. -/
def Inbound.size (r : Inbound) : Nat :=
  match r.kind with
  | 0 => r.len
  | 1 => r.data.length
  | 2 => 4
  | 3 => 8
  | _ => 1

/-- UALINK_INBOUND_REQUEST (R397, R327, R371): a request that is refused or not served is answered at once. -/
def execUalinkInboundRequest (r : Inbound) (s : State) : Out :=
  if Config.ports ≤ r.port ∨ s.up = false ∨ s.lanesUp r.port = 0 ∨ 2 ^ 16 ≤ r.label then
    .refused (.notPending "UALINK_INBOUND_REQUEST")
  else
    let s := s.instant
    let part := s.exported r.label
    let q : FarReq := {
      who := .peer r.src r.label r.port, op := Inbound.farOp r, ctx := 255, part := part.getD 0, core := 0
      addr := BitVec.ofNat 64 (r.label * 2 ^ 48 + r.addr.toNat % 2 ^ 48), len := Inbound.size r, data := r.data, dst := 0, ctr := none
      stamp := 0, cls := if r.urgent then 0 else if r.kind < 2 then 2 else 1
      stage := .segment, home := 0, owner := 0, rights := 0, heldOnce := false, passed := [], region := none
      blockAt := none, snap := 0, at_ := 0, stampD := 0, mask := [], fresh := false, via := none, by_ := 320 + r.port
      wire := 0, held := 0, retry := 0, room := creditsFor r.data.length, peer := 0 }
    let t := s.sendReq q
    if Inbound.served r = false then .next (t.respond s.stamp q .unsupported)
    else if part.isNone then .next (t.respond s.stamp q (errorAnswer r.src (farCause 9 5 q.access 0 1 r.label q.addr) 0))
    else .next t

/-- LINK_LAYER_REPLAY (R327, R361, R362): the replay corrects the error, and only the port's counter shows it. -/
def execLinkLayerReplay (port : Nat) (s : State) : Out :=
  if Config.ports ≤ port ∨ s.lanesUp port = 0 then .refused (.notPending "LINK_LAYER_REPLAY")
  else .next (s.instant.corrected 0x0B port 0)

end Sys2Proof.Machine
end

