-- ==== Sys2Proof/Machine/Ras.lean ====
section
/-! DEFINITION. Soft errors and links: patrol scrub (R362, R365), lane error windows and width changes (R366 to R370), and the
retraining of HBM interfaces (R380). -/
namespace Sys2Proof.Machine

/-- PATROL_SCRUB (R362, R364, R365): a codeword of a stack (unit 0x09) or a die scratchpad (unit 0x03) with a number of bad
symbols or bits. An access of HBM is a request of class 3, whose channel performs it. Which context's slice holds an address of a
die's scratchpad the device knows: a free choice (log 43). -/
def execPatrolScrub (unit index : Nat) (addr : W64) (badSymbols : Nat) (s : State) : Out :=
  let no : Out := .refused (.notPending "PATROL_SCRUB")
  let hbm := unit == 9 && decide (index < Config.hbmStacks) && addr.toNat / 2 ^ 36 == index
  let die := unit == 3 && decide (index < 4)
  let on := fld (s.kget (.pscrub (if hbm then index else 12 + index))) 63 63 == 1
  if !(hbm || die) || !on then no else
  let s := s.instant
  if hbm then .next (s.sendDev (.scrub addr.toNat badSymbols) 0 3 (344 + index) (FarStage.onHbm addr.toNat)) else
  match badSymbols with
  | 0 => .next s
  | 1 => .next (s.corrected unit index addr)
  | _ =>
    let here := (s.ctxs.filter (fun e => e.2.dies.contains index && e.2.sliceBytes != 0))
    match here[Config.freeNat s.freeCtr % (here.length + 1)]? with
    | none => .next (s.tick.uncorrected unit index 255 255 2 addr).2
    | some (k, x) =>
      let y := s.tick.uncorrected unit index x.part k 2 addr
      .next (y.2.setFlaw (.die k index) (addr.toNat % x.sliceBytes) y.1)

/-- The lanes of a mask. -/
def lanesOf (m : Nat) : List Nat := (List.range 4).filter (fun l => m / 2 ^ l % 2 == 1)

/-- The mask of some lanes. -/
def laneBits (ls : List Nat) : Nat := ls.foldl (fun a l => a + 2 ^ l) 0

/-- The width code of a set of lanes (R370). -/
def widthCode (m : Nat) : Nat :=
  match (lanesOf m).length with
  | 4 => 0
  | 2 => 1
  | 0 => 3
  | _ => 2

/-- The widest set of lanes that a port can use within a mask: x4, a pair, or the lowest lane. -/
def widest (m : Nat) : Nat :=
  if m % 16 = 15 then 15 else if m % 4 = 3 then 3 else if m / 4 % 4 = 3 then 12 else
  match lanesOf m with
  | [] => 0
  | l :: _ => 2 ^ l

/-- The lanes that retrain, and those that are disabled (R370). -/
def State.retraining (s : State) (port : Nat) : Nat := fld (s.kget (.plink port)) 19 16
/-- The disabled lanes of a port. -/
def State.disabled (s : State) (port : Nat) : Nat := fld (s.kget (.plink port)) 23 20

/-- A width event of a port (R369, R383). -/
def State.linkEvent (s : State) (port lane : Nat) : State :=
  s.logEvent { kind := 5, unit := 0x0B, sev := 1, die := port / 4, inst := port, chan := lane }

/-- The lanes that a port narrows to, when some of its lanes are bad (R368, R369): the pair without one, or the lowest lane whose
window count lies below warn; none when there is no such lane. -/
def narrowTo (up : Nat) (bad : List Nat) (counts : List Nat) (warn : Nat) : Option Nat :=
  let in0 := bad.any (fun l => decide (l < 2))
  let in1 := bad.any (fun l => decide (2 ≤ l))
  if up = 15 ∧ in0 = false then some 3 else if up = 15 ∧ in1 = false then some 12 else
  ((lanesOf up).find? (fun l => decide (counts.getD l 0 < warn))).map (fun l => 2 ^ l)

/-- BER_WINDOW_END (R366 to R369): the counts of the four lanes. -/
def execBerWindowEnd (port : Nat) (counts : List Nat) (s : State) : Out :=
  let up := s.lanesUp port
  if Config.ports ≤ port ∨ counts.length ≠ 4 ∨ up = 0 then .refused (.notPending "BER_WINDOW_END") else
  let r := s.kget (.pberr port)
  let warn := fld r 43 24
  let act := fld r 63 44
  let s := s.instant.kset (.pberr port) (setFld r 19 0 (min (counts.foldl max 0) (2 ^ 20 - 1)))
  let s := s.modUport port (fun p => { p with counts := counts })
  let soft := (lanesOf up).filter (fun l => decide (warn < counts.getD l 0) && decide (counts.getD l 0 ≤ act))
  let bad := (lanesOf up).filter (fun l => decide (act < counts.getD l 0))
  let s := soft.foldl (fun (s : State) l =>
    let s := s.corrected 0x0B port 0
    s.logEvent { kind := 4, unit := 0x0B, sev := 1, die := port / 4, inst := port, chan := l, count := s.corrCount 0x0B port }) s
  if bad.isEmpty then .next s else
  match narrowTo up bad counts warn with
  | some m => .next (s.modUport port (fun p => { p with want := some m }))
  | none => .next (s.downPort port)

/-- LINK_WIDTH_SWITCH (R368 to R370): the partner has acknowledged; unacknowledged flits are replayed in order at the new width,
which changes nothing that a program sees. Lanes left out retrain. -/
def execLinkWidthSwitch (port : Nat) (s : State) : Out :=
  match (if s.lanesUp port = 0 then none else (s.uport port).want) with
  | none => .refused (.notPending "LINK_WIDTH_SWITCH")
  | some m =>
    let v := s.kget (.plink port)
    let up := fld v 15 8
    let narrow := decide ((lanesOf m).length < (lanesOf up).length)
    let left := (lanesOf up).filter (fun l => m / 2 ^ l % 2 == 0 && s.disabled port / 2 ^ l % 2 == 0)
    let v := setFld v 19 16 (fld v 19 16 ||| (if narrow then laneBits left else 0))
    let v := setFld (setFld v 15 8 m) 1 0 (widthCode m)
    let v := if narrow then setFld v 47 32 (min (fld v 47 32 + 1) 0xFFFF) else v
    .next (((s.instant.kset (.plink port) v).modUport port (fun p => { p with want := none })).linkEvent port 0)

/-- PARTNER_WIDTH_REQUEST (R368): the partner names the lanes to use. Once a lane is disabled the port stays at its width (R369). -/
def execPartnerWidthRequest (port lanes : Nat) (s : State) : Out :=
  let wider := decide ((lanesOf (s.lanesUp port)).length < (lanesOf lanes).length)
  let usable := decide (lanes ∈ [15, 3, 12, 1, 2, 4, 8]) && lanes &&& (s.retraining port ||| s.disabled port) == 0
    && (!wider || s.disabled port == 0)
  if Config.ports ≤ port ∨ s.lanesUp port = 0 ∨ usable = false then .refused (.notPending "PARTNER_WIDTH_REQUEST")
  else .next (s.instant.modUport port (fun p => { p with want := some lanes }))

/-- PARTNER_WIDTH_REFUSAL (R369): the port stops traffic and retrains at its width. -/
def execPartnerWidthRefusal (port : Nat) (s : State) : Out :=
  match (s.uport port).want with
  | none => .refused (.notPending "PARTNER_WIDTH_REFUSAL")
  | some _ =>
    let v := s.kget (.plink port)
    let up := fld v 15 8
    let v := setFld (setFld v 19 16 (fld v 19 16 ||| up)) 15 8 0
    .next ((s.instant.kset (.plink port) v).modUport port (fun p => { p with want := none, halted := p.halted ||| up, good := 0 }))

/-- A port whose own retraining is over carries traffic again, on the widest lanes it has (R369); with none it is down. -/
def State.linkSettle (s : State) (port ok : Nat) : State :=
  let m := widest ok
  if m = 0 then s.downPort port else
  let v := s.kget (.plink port)
  let same := fld v 1 0 == widthCode m
  let v := if fld v 1 0 < widthCode m then setFld v 47 32 (min (fld v 47 32 + 1) 0xFFFF) else v
  let s := s.kset (.plink port) (setFld (setFld v 15 8 m) 1 0 (widthCode m))
  if same then s else s.linkEvent port 0

/-- A port that carries traffic on fewer lanes than it has good ones asks its partner to widen, unless a lane is disabled (R368,
R369). -/
def State.askWider (s : State) (port : Nat) : State :=
  let m := widest (15 - (15 &&& (s.retraining port ||| s.disabled port)))
  let up := s.lanesUp port
  if s.portDown port || s.disabled port != 0 || up == 0 || decide ((lanesOf m).length ≤ (lanesOf up).length) then s
  else s.modUport port (fun p => { p with want := some m })

/-- LANE_RETRAIN_DONE (R368): the lane is good again. A port that had stopped carries traffic once the last of its lanes has
retrained; one that had narrowed asks its partner to widen, unless a lane is disabled (R369). A port that is down stays so. -/
def execLaneRetrainDone (port lane : Nat) (s : State) : Out :=
  let v := s.kget (.plink port)
  if 4 ≤ lane ∨ s.retraining port / 2 ^ lane % 2 = 0 then .refused (.notPending "LANE_RETRAIN_DONE") else
  let s := s.instant.kset (.plink port) (setFld v (16 + lane) (16 + lane) 0)
  let p := s.uport port
  if p.halted / 2 ^ lane % 2 = 1 then
    let left := p.halted - 2 ^ lane
    let up := p.good ||| 2 ^ lane
    let s := s.modUport port (fun p => { p with halted := left, good := up })
    if left = 0 then .next ((s.linkSettle port up).askWider port) else .next s
  else .next (s.askWider port)

/-- LANE_RETRAIN_FAIL (R369): the lane retrains again, or after three failures is disabled until package reset: the port then
stays at the width it has reached, and asks for no wider one. -/
def execLaneRetrainFail (port lane : Nat) (s : State) : Out :=
  if 4 ≤ lane ∨ s.retraining port / 2 ^ lane % 2 = 0 then .refused (.notPending "LANE_RETRAIN_FAIL") else
  let n := SMap.get (s.uport port).fails 0 lane + 1
  let s := s.instant.modUport port (fun p => { p with fails := SMap.set p.fails 0 lane n })
  if n < 3 then .next s else
  let v := setFld (setFld (s.kget (.plink port)) (16 + lane) (16 + lane) 0) (20 + lane) (20 + lane) 1
  let s := (s.kset (.plink port) v).linkEvent port lane
  let s := s.modUport port (fun p => { p with
    want := p.want.filter (fun m => decide ((lanesOf m).length ≤ (lanesOf (s.lanesUp port)).length)) })
  let h := (s.uport port).halted
  if h / 2 ^ lane % 2 = 0 then .next s else
  let s := s.modUport port (fun p => { p with halted := h - 2 ^ lane })
  .next (if h = 2 ^ lane then s.linkSettle port (s.uport port).good else s)

/-- An HBM interface. -/
def State.hbmAt (s : State) (stack : Nat) : HbmIf := SMap.get s.hbmIf HbmIf.idle stack

/-- Set an HBM interface. -/
def State.setHbmIf (s : State) (stack : Nat) (x : HbmIf) : State := { s with hbmIf := SMap.set s.hbmIf HbmIf.idle stack x }

/-- Whether a band's save is pending or streams to a stack (R380): saves go to the stacks of the band's die (log 33). -/
def Band.savesTo (b : Band) (stack : Nat) : Bool := dieOf b.core == stack / 3 && (b.state == .saving || b.save.isSome)

/-- Whether a save streams to a stack. -/
def State.saveStreams (s : State) (stack : Nat) : Bool := s.bands.any (fun e => e.2.savesTo stack)

/-- HBM_CRC_WINDOW (R380). -/
def execHbmCrcWindow (stack count : Nat) (s : State) : Out :=
  if Config.hbmStacks ≤ stack ∨ (s.hbmAt stack).running then .refused (.notPending "HBM_CRC_WINDOW")
  else if count ≤ fld (s.kget (.hbmret stack)) 63 48 then .next s.instant
  else
    .next ((s.instant.setHbmIf stack ⟨none, true⟩).logEvent {
      kind := 4, unit := 0x0A, sev := 1, die := stack / 3, inst := stack, count := s.corrCount 0x0A stack })

/-- HBM_RETRAIN_REQUEST (R380): while a save streams the request waits. -/
def execHbmRetrainRequest (stack : Nat) (s : State) : Out :=
  let x := s.hbmAt stack
  let wait := s.saveStreams stack
  if Config.hbmStacks ≤ stack ∨ s.keeperUp = false ∨ x.running ∨ (wait ∧ x.requested.isSome) then .refused (.notPending "HBM_RETRAIN_REQUEST")
  else if wait then .next (s.instant.setHbmIf stack ⟨some s.now, false⟩)
  else .next (s.instant.setHbmIf stack ⟨none, true⟩)

/-- HBM_RETRAIN_DEADLINE (R380). -/
def execHbmRetrainDeadline (stack : Nat) (s : State) : Out :=
  let x := s.hbmAt stack
  let due := match x.requested with
    | some t => decide (t + 1000000 * fld (s.kget (.hbmret stack)) 47 32 ≤ s.now)
    | none => false
  if x.running ∨ due = false then .refused (.notPending "HBM_RETRAIN_DEADLINE")
  else .next (s.instant.setHbmIf stack ⟨none, true⟩)

/-- HBM_RETRAIN_DONE (R380): the deadlines of the saves that it held up move by its duration. -/
def execHbmRetrainDone (stack micros : Nat) (s : State) : Out :=
  if (s.hbmAt stack).running = false ∨ 50 < micros then .refused (.notPending "HBM_RETRAIN_DONE") else
  let during := s.saveStreams stack
  let later := fun (b : Band) => if b.savesTo stack then
    { b with save := b.save.map (fun v => { v with at_ := v.at_ + 1000 * micros }) } else b
  let bands : SMap Band := s.bands.map (fun (e : Nat × Band) => (e.1, later e.2))
  let s := { s.instant.setHbmIf stack HbmIf.idle with bands := bands }
  let s := s.kset (.hbmret stack) (setFld (s.kget (.hbmret stack)) 31 16 micros)
  .next (s.logEvent {
    kind := if during then 7 else 4, unit := 0x0A, sev := 1, die := stack / 3, inst := stack, count := micros })

end Sys2Proof.Machine
end

