-- ==== Sys2Proof/Machine/Bands.lean ====
section
/-! DEFINITION. How wefts, bands and launches end (R120, R181, R291, R292), contexts (R294, R308) and partitions (R3, R280,
R393). -/
namespace Sys2Proof.Machine

/-- Take a band's wefts out of the grant queue and the slots of every core. -/
def State.leaveCores (s : State) (b : Nat) : State :=
  { s with cores := s.cores.map (fun e => (e.1, { e.2 with
      grants := e.2.grants.filter (fun x => x.1 != b)
      serving := e.2.serving.filter (fun x => x.2.1 != b) })) }

/-- Serve the grant queues of every core, after register entries have been freed (R176). -/
def State.grantAll (s : State) : State := s.cores.foldl (fun (s : State) e => s.grant e.1) s

/-- A weft as it retires: it holds no block and issues no more (R120, R176). -/
def Weft.retire (w : Weft) : Weft :=
  { w with retired := true, ext := false, bundle := 0, reform := false, latches := [], chain := none, stop := none, frozen := false }

/-- Whether every launched lane of a weft has exited and every register write addressed to it has landed (R120). -/
def Weft.isOver (w : Weft) : Bool :=
  !w.retired && w.launched.all (fun l => (w.lane l).state == .exited) && w.await.isEmpty && w.replies.isEmpty

/-- WEFT_RETIRE (R120). -/
def execWeftRetire (band weft : Nat) (s : State) : Out :=
  match s.band? band, s.weft? band weft with
  | some bd, some w =>
    if bd.state ≠ .resident ∨ w.isOver = false then .refused (.notPending "WEFT_RETIRE")
    else .next ((s.modWeft band weft Weft.retire).grant bd.core)
  | _, _ => .refused (.notPending "WEFT_RETIRE")

/-- A band leaves its tiles and latch untagged and frees its accumulator image (R304). -/
def State.untag (s : State) (b : Nat) : State :=
  { s with
    cores := s.cores.map (fun e => (e.1, if e.2.owner = some b then { e.2 with owner := none } else e.2))
    accImages := SMap.erase s.accImages b }

/-- A band's ticket slots are freed (R353). -/
def State.freeTickets (s : State) (b : Nat) : State :=
  { s with
    ctxs := s.ctxs.map (fun e => (e.1, { e.2 with tickets := e.2.tickets.filter (fun t => t.2.band != b) }))
    cancels := s.cancels.filter (fun e => e.2.band != b) }

/-- A gang of two or more keeps a retired member's scratchpad until its last band retires (R181); a band alone goes. -/
def State.freeBand (s : State) (b : Nat) : State :=
  match s.band? b with
  | none => s
  | some bd =>
    let s := ((((s.leaveCores b).untag b).freeTickets b).cleanBand b false (fun _ => false)).modBand b (fun x =>
      { x with
        state := .retired, image := 0, save := none, stopped := false
        wefts := x.wefts.map (fun w => { w.retire with spill := [], uspill := [], wbuf := [] }) })
    let live := s.bands.any (fun e => e.2.gang == bd.gang && e.2.state != .retired)
    let s := if live then s else
      { s with bands := s.bands.filter (fun e => e.2.gang != bd.gang), gangs := SMap.erase s.gangs bd.gang }
    s.grantAll

/-- End a launch whose bands are all done (R291, R292). -/
def State.endIfDone (s : State) (id : Nat) : State :=
  match SMap.find? s.launches id with
  | none => s
  | some l =>
    let left := s.bands.any (fun e => e.2.launch == id && e.2.state != .retired)
    if !left && (l.failed || decide (LRec.bands l.doubles ≤ l.retired)) then s.endLaunch id else s

/-- What a band's engines, requests and fences still have under way (R291). -/
def State.bandBusy (s : State) (b : Nat) (bd : Band) : Bool :=
  s.cmds.any (fun e => e.2.band == b)
    || s.reqs.any (fun e => match e.2.weft with
      | some (x, _) => x == b
      | none => false)
    || !bd.mq.isEmpty || bd.wefts.any (fun w => !w.fences.isEmpty)
    || ((s.ctx? bd.ctx).toList.any (fun c => c.tickets.any (fun t =>
      t.2.fin.isNone && t.2.run.any (fun r => t.2.band == b || r.band == b))))

/-- BAND_RETIRE (R291): the publish and wait of PHASE.dev for every weft, and the resources freed. A saved band retires so
where its launch has failed (R292). -/
def execBandRetire (band : Nat) (s : State) : Out :=
  let no : Out := .refused (.notPending "BAND_RETIRE")
  match s.band? band with
  | none => no
  | some bd =>
    if bd.enginesRun = false ∨ !(bd.wefts.all (fun w => w.retired)) ∨ s.bandBusy band bd then no else
    let s := (List.range bd.wefts.length).foldl (fun (s : State) i => s.publish band i .dev) s
    let s := { s with launches := SMap.modify s.launches bd.launch (fun l => { l with retired := l.retired + 1 }) }
    .next ((s.freeBand band).endIfDone bd.launch)

/-- Drop the commands and requests of a band that is no longer anywhere. -/
def State.dropWork (s : State) (b : Nat) : State :=
  let mine := (s.cmds.filter (fun e => e.2.band == b)).map (fun e => e.1)
  let s := mine.foldl (fun (s : State) id => s.dropCmd id) s
  let gone := s.reqs.filter (fun e => match e.2.who with
    | .engine id => mine.contains id
    | _ => (e.2.weft.map (fun w => w.1 == b)).getD false)
  let s := gone.foldl (fun (s : State) e => e.2.portOf.elim s (fun p => s.leaveEgress p e.1)) s
  { s with
    reqs := s.reqs.filter (fun e => !gone.any (fun x => x.1 == e.1))
    chans := s.chans.map (fun e => (e.1, { e.2 with items := e.2.items.filter (fun x => !mine.contains x.1) })) }

/-- Fail a launch (R292): no band of it runs further. A band with engine commands that it has issued retires once they are
complete, on its core or saved; any other goes at once where it is saved. -/
def State.failLaunch (s : State) (id : Nat) : State :=
  let s := s.dequeue id
  let s := { s with launches := SMap.modify s.launches id (fun l => { l with failed := true }) }
  let mine := (s.bands.filter (fun e => e.2.launch == id && e.2.state != .retired)).map (fun e => e.1)
  let s := mine.foldl (fun (s : State) b =>
    match s.band? b with
    | none => s
    | some bd =>
      if bd.state = .saved && !s.bandBusy b bd then s.freeBand b else
      (s.leaveCores b).modBand b (fun x =>
        { x with
          state := if x.state = .saved then .saved else .resident, save := none
          image := if x.state = .saved then x.image else 0, stopped := false, wefts := x.wefts.map Weft.retire })) s
  (s.endIfDone id).grantAll

/-- LAUNCH_ABORT (R292). -/
def execLaunchAbort (launch : Nat) (s : State) : Out :=
  match SMap.find? s.launches launch with
  | none => .refused (.notPending "LAUNCH_ABORT")
  | some l => if l.failed then .refused (.notPending "LAUNCH_ABORT") else .next (s.failLaunch launch)

/-- The bytes of an accumulator image (R301). -/
def accImageBytes : Nat := 705 * 1024

/-- The bytes of a partition's save pool in use (R301). -/
def State.poolUsed (s : State) (part : Nat) : Nat :=
  s.bands.foldl (fun a e => if e.2.part = part then
    a + e.2.image + (if (SMap.find? s.accImages e.1).isSome then accImageBytes else 0) else a) 0

/-- Whether a partition's save pool has room (R295, R301). -/
def State.poolRoom (s : State) (part n : Nat) : Bool :=
  decide (s.poolUsed part + n ≤ fld (s.kget (.psave part)) 63 40 * 65536)

/-- Whether the five masks of a bank hash key are linearly independent (R182). -/
def bkeyOk (k : W64) : Bool :=
  let mask := fun j => fld k (12 * j + 12) (12 * j)
  (List.range 31).all (fun n =>
    (List.range 5).foldl (fun a j => if (n + 1) / 2 ^ j % 2 = 1 then a ^^^ mask j else a) 0 != 0)

/-- Bytes of die scratchpad on a die (R184). -/
def dieBytes : Nat := 96 * 2 ^ 20

/-- CONTEXT_CREATE (R294, R182, R184, R250, R159): the slices are zeroed and hold the program's initial data. -/
def execContextCreate (c : CtxSpec) (s : State) : Out :=
  let live := s.ctxs.countP (fun e => e.2.part == c.part)
  let need := c.sliceBytes + c.spillReserve
  let used := fun die => s.ctxs.foldl (fun a e => if e.2.dies.contains die then a + e.2.sliceBytes + e.2.spillReserve else a) 0
  if 256 ≤ c.ctx ∨ s.keeperUp = false ∨ s.up = false ∨ (s.ctx? c.ctx).isSome ∨ (s.part? c.part).isNone ∨ 16 ≤ live ∨ 2 ^ 16 ≤ c.cseg ∨ c.sliceBytes < c.roLen
      ∨ c.sliceBytes < c.image.length ∨ !bkeyOk c.bkey ∨ c.dies.any (fun d => decide (4 ≤ d) || decide (dieBytes < used d + need)) then
    .refused (.notPending "CONTEXT_CREATE")
  else
    let slice := Mem.write [] 0 c.image
    let x : Context := {
      part := c.part, cseg := c.cseg, textLen := c.textLen, roLen := c.roLen, dies := c.dies, sliceBytes := c.sliceBytes
      spillReserve := c.spillReserve, bkey := c.bkey, serial := c.serial
      signals := [], slices := c.dies.foldl (fun m d => SMap.set m [] d slice) [], absent := [], tickets := [] }
    .next { s with ctxs := SMap.insert s.ctxs c.ctx x, hist := s.hist.filter (fun p => match p.place with
      | .die k _ => k != c.ctx
      | _ => true) }

/-- A band disappears with all it has under way. -/
def State.removeBand (s : State) (b : Nat) : State :=
  let s := ((((s.dropWork b).leaveCores b).untag b).freeTickets b).cleanBand b false (fun _ => false)
  match s.band? b with
  | none => s
  | some bd =>
    let s := { s with bands := SMap.erase s.bands b }
    if s.bands.any (fun e => e.2.gang == bd.gang) then s else { s with gangs := SMap.erase s.gangs bd.gang }

/-- A context ceases to exist (R8, R294, R308): its launches fail, its bands go, its storage is zeroed, and its channels are free. -/
def State.dropContext (s : State) (ctx : Nat) : State :=
  let ls := (s.launches.filter (fun e => e.2.doubles.length != 0 && LRec.ctx e.2.doubles == ctx)).map (fun e => e.1)
  let s := ((s.bands.filter (fun e => e.2.ctx == ctx)).map (fun e => e.1)).foldl State.removeBand s
  let s := ls.foldl (fun (s : State) id =>
    let s := { s with launches := SMap.modify s.launches id (fun l => { l with failed := true }) }
    s.endLaunch id) s
  { s.grantAll with
    ctxs := SMap.erase s.ctxs ctx
    chans := s.chans.filter (fun e => fld e.2.d0 61 54 != ctx)
    flaws := s.flaws.filter (fun f => match f.1 with
      | .die k _ => k != ctx
      | _ => true)
    hist := s.hist.filter (fun p => match p.place with
      | .die k _ => k != ctx
      | _ => true) }

/-- CONTEXT_DESTROY (R294, R308). -/
def execContextDestroy (ctx : Nat) (s : State) : Out :=
  if (s.ctx? ctx).isNone ∨ s.keeperUp = false then .refused (.notPending "CONTEXT_DESTROY") else .next (s.dropContext ctx)

/-- Zero a range of launch completion counters (R308). -/
def State.zeroCounters (s : State) (lo n : Nat) : State :=
  { s with lcc := SMap.keep s.lcc (fun c => decide (c < lo) || decide (lo + n ≤ c)) }

/-- PARTITION_FORM (R3, R280, R283): granules that no other partition holds; re-forming asks that nothing of the old one is
left, boot comes first (R388), its channels are free, and a partition that is formed again has no tables: pseg is at its reset
value (R8; log 68). -/
def execPartitionForm (p : PartSpec) (s : State) : Out :=
  let taken := s.parts.any (fun e => e.1 != p.part && p.granules.any (fun g => e.2.granules.contains g))
  let live := s.ctxs.any (fun e => e.2.part == p.part) || s.launches.any (fun e => e.2.part == p.part)
  if 20 ≤ p.part ∨ s.keeperUp = false ∨ s.up = false ∨ p.granules.isEmpty ∨ p.granules.any (fun g => decide (Config.granules ≤ g)) ∨ taken ∨ live then
    .refused (.notPending "PARTITION_FORM")
  else
    let r := s.kget (.psched p.part)
    let s := if (s.part? p.part).isSome then s.kset (.pseg p.part) (KReg.pseg p.part).reset else s
    .next { s.zeroCounters (fld r 27 16) (fld r 40 28) with
      parts := SMap.insert s.parts p.part ⟨p.granules, p.debug, [], [], 63, false⟩
      chans := s.chans.filter (fun e => fld e.2.d0 53 49 != p.part) }

/-- Whether a band of a partition has not retired. -/
def State.bandsLeft (s : State) (part : Nat) : Bool := s.bands.any (fun e => e.2.part == part && e.2.state != .retired)

/-- A partition's launches are aborted, and its contexts destroyed once no band of it is left (R393). -/
def State.resetPart (s : State) (part : Nat) : State :=
  let ls := (s.launches.filter (fun e => e.2.part == part)).map (fun e => e.1)
  let s := ls.foldl State.failLaunch s
  let left := s.bandsLeft part
  let cs := if left then [] else (s.ctxs.filter (fun e => e.2.part == part)).map (fun e => e.1)
  (cs.foldl State.dropContext s).modPart part (fun p => { p with resetting := left })

/-- PARTITION_RESET (R393, R292): where a band of an aborted launch has engine commands that it has issued, they complete first, and
the reset ends with a second event. -/
def execPartitionReset (part : Nat) (s : State) : Out :=
  match s.part? part with
  | none => .refused (.notPending "PARTITION_RESET")
  | some p =>
    if s.keeperUp = false ∨ (p.resetting ∧ s.bandsLeft part) then .refused (.notPending "PARTITION_RESET")
    else .next (s.resetPart part)

/-- CXL_HOST_WRITE (R280): device memory at its HBM address; a commit that comes later finds it. Before boot is done only the
management window is there (R388, R390). -/
def execCxlHostWrite (addr : Nat) (data : List Byte) (s : State) : Out :=
  if fld (s.kget .bootst) 63 63 = 0 then .refused (.notPending "CXL_HOST_WRITE")
  else if Config.hbmStacks * 2 ^ 36 < addr + data.length then .fault (.noStorage addr)
  else .next (s.land .hbm addr data none false)

end Sys2Proof.Machine
end

