-- ==== Sys2Proof/Machine/Matrix.lean ====
section
/-! DEFINITION. The matrix engine: tile arithmetic (R97 to R99, R232), claims (R228, R304), the matrix queue (R233 to R235) and
its six commands (R238 to R244). -/
namespace Sys2Proof.Machine

/-- Group 11 (R234, R259). -/
def matCause (opc reason tile step : Nat) (where_ : W64) : Cause :=
  ⟨11, reason, BitVec.ofNat 96 (where_.toNat * 2 ^ 32 + step * 2 ^ 12 + tile * 2 ^ 9 + opc), false⟩

/-- An empty tile in a mode. -/
def Tile.zero (int : Bool) : Tile := ⟨int, []⟩

/-- A tile of a core. -/
def MatSt.tile (m : MatSt) (t : Nat) : Tile := SMap.get m.tiles (Tile.zero false) t

/-- Replace a tile. -/
def MatSt.setTile (m : MatSt) (t : Nat) (x : Tile) : MatSt := { m with tiles := SMap.set m.tiles (Tile.zero false) t x }

/-- An entry of a tile. -/
def Tile.entry (t : Tile) (row col : Nat) : W80 := SMap.get t.data 0 (row * 128 + col)

/-- The integer of an entry in INT mode (R83). -/
def entryInt (e : W80) : Int := e.toInt

/-- Add a value into an entry in FP mode (R83). -/
def accAdd (e : W80) (v : Val) : W80 × Exc :=
  let x := Val.add .rne (FInfo.acc.unpack e.toNat) v
  let r := FInfo.acc.deliver .rne 0 false x.2 x.1
  (BitVec.ofNat 80 r.bits, r.exc)

/-- The exact sum of a block's products (R99), a zero sum being +0, and IV. -/
def dotBlock (xs : List (Val × Val)) : Val × Exc :=
  let r := xs.foldl (fun (a : Bool × Bool × Bool × Bool × Ex) p =>
    let x := Val.mul p.1 p.2
    match x.1 with
    | .nan _ => (true, a.2.1, a.2.2.1, a.2.2.2.1 || x.2, a.2.2.2.2)
    | .inf n => (a.1, a.2.1 || !n, a.2.2.1 || n, a.2.2.2.1, a.2.2.2.2)
    | .fin y => (a.1, a.2.1, a.2.2.1, a.2.2.2.1, if y.m = 0 then a.2.2.2.2 else Ex.add .rne a.2.2.2.2 y))
    (false, false, false, false, Ex.zero false)
  let both := r.2.1 && r.2.2.1
  let exc := Exc.on (r.2.2.2.1 || both) Exc.iv
  if r.1 || both then (.nan false, exc)
  else if r.2.1 then (.inf false, exc)
  else if r.2.2.1 then (.inf true, exc)
  else (.fin (if r.2.2.2.2.m = 0 then Ex.zero false else r.2.2.2.2), exc)

/-- Two to a power times a value. -/
def scaleVal (v : Val) (e : Int) : Val :=
  match v with
  | .fin x => .fin { x with e := if x.m = 0 then x.e else x.e + e }
  | v => v

/-- Element p of packed elements of m bits (R82). -/
def packedAt (bs : Array Byte) (m p : Nat) : Nat :=
  let o := p * m / 8
  let n := (List.range 4).foldl (fun a i => a + ((bs.getD (o + i) 0).toNat * 2 ^ (8 * i))) 0
  n / 2 ^ (p * m % 8) % 2 ^ m

/-- A byte of a list. -/
def byteIn (bs : Array Byte) (o : Nat) : Nat := (bs.getD o 0).toNat

/-- A 32-bit value of a list. -/
def wordIn (bs : Array Byte) (o : Nat) : Nat :=
  byteIn bs o + 256 * byteIn bs (o + 1) + 65536 * byteIn bs (o + 2) + 16777216 * byteIn bs (o + 3)

/-- One row and column of a step: the row's elements, the column of the latch, and the row's scales (R97, R98, R232). -/
structure StepIn where
  afmt : Fmt
  wfmt : Fmt
  sm : ScaleMode
  act : Array Nat
  weight : Nat → Nat
  ascale : Array Byte
  wscale : Array Byte

/-- The products of K positions lo to hi - 1 that lie in the row's extent. -/
def StepIn.products (x : StepIn) (lo hi : Nat) : List (Val × Val) :=
  ((List.range (min hi x.act.size - lo)).map (fun k => lo + k)).map (fun k =>
    (x.afmt.value (x.act.getD k 0), x.wfmt.value (x.weight k)))

/-- Block b under FP32 scales (R97, R99). -/
def StepIn.blockF32 (x : StepIn) (b : Nat) (e : W80) : W80 × Exc :=
  let sa := wordIn x.ascale (4 * b)
  let sw := wordIn x.wscale (4 * b)
  let bad := (FInfo.f32.unpack sa).isNan || (FInfo.f32.unpack sw).isNan
  let g := FInfo.f32.fmul .rne sa sw
  let d := dotBlock (x.products (128 * b) (128 * b + 128))
  let sum := if bad then (Val.nan false, d.2 ||| Exc.iv) else d
  let p := Val.mul sum.1 (FInfo.f32.unpack g.bits)
  let r := FInfo.f32.deliver .rne 0 false p.2 p.1
  let a := accAdd e (FInfo.f32.unpack r.bits)
  (a.1, g.exc ||| sum.2 ||| r.exc ||| a.2)

/-- Block b under MX scales (R98, R99). -/
def StepIn.blockMx (x : StepIn) (col b : Nat) (e : W80) : W80 × Exc :=
  let ea := byteIn x.ascale b
  let ew := byteIn x.wscale (8 * col + b)
  let d := dotBlock (x.products (32 * b) (32 * b + 32))
  let sum := if ea = 255 ∨ ew = 255 then (Val.nan false, d.2 ||| Exc.iv) else (scaleVal d.1 ((ea : Int) + ew - 254), d.2)
  let a := accAdd e sum.1
  (a.1, sum.2 ||| a.2)

/-- What a step adds to an entry (R232). -/
def StepIn.add (x : StepIn) (int : Bool) (col : Nat) (e : W80) : W80 × Exc :=
  if int then
    let s := (List.range x.act.size).foldl (fun (a : Int) k => a + x.afmt.toInt (x.act.getD k 0) * x.wfmt.toInt (x.weight k)) 0
    (e + BitVec.ofInt 80 s, 0)
  else
    let sumOver := fun (n : Nat) (f : Nat → W80 → W80 × Exc) => (List.range n).foldl (fun (a : W80 × Exc) b =>
      let r := f b a.1
      (r.1, a.2 ||| r.2)) (e, 0)
    match x.sm with
    | .none => sumOver 2 (fun b e =>
        let d := dotBlock (x.products (128 * b) (128 * b + 128))
        let a := accAdd e d.1
        (a.1, d.2 ||| a.2))
    | .fs => sumOver 2 (fun b e => x.blockF32 b e)
    | .mx => sumOver 8 (fun b e => x.blockMx col b e)

/-- Whether a weight format, scale mode and activation format form a combination of R230. INT weights under a scale mode form
none, although R99 speaks of INT8 work in either mode (DEDUCED; log 67). -/
def combo (w : Fmt) (sm : ScaleMode) (a : Fmt) : Bool :=
  let fp8 := fun (f : Fmt) => f == .e4m3 || f == .e5m2
  let fp6 := fun (f : Fmt) => f == .e3m2 || f == .e2m3
  match sm with
  | .fs => fp8 w && fp8 a
  | .mx => (fp8 w || fp6 w || w == .e2m1) && (fp8 a || fp6 a || a == .e2m1)
  | .none =>
    ((w == .f16 || w == .bf16) && (a == .f16 || a == .bf16)) || (fp8 w && fp8 a) || (w == .e2m1 && a == .e2m1)
      || (fp6 w && (fp8 a || fp6 a || a == .e2m1)) || ((w == .s8 || w == .s4) && (a == .s8 || a == .s4))

/-- Whether weights of a format ask for an INT tile (R230). -/
def Fmt.intTile (f : Fmt) : Bool := f == .s8 || f == .s4

/-- The bytes of a weight tile image without its scales, and of its scale area (R229). -/
def imageElems (f : Fmt) : Nat := 32768 * Fmt.memBits f / 8
/-- The scale area. -/
def imageScales (sm : ScaleMode) : Nat :=
  match sm with
  | .none => 0
  | .fs => 8
  | .mx => 1024

/-- The number of a band that a claim concerns, and whether its contents lie on a core under its tag. -/
def State.taggedOn (s : State) (b : Nat) : Option Nat := (List.find? (fun (e : Nat × Core) => e.2.owner == some b) s.cores).map (fun e => e.1)

/-- Whether a former owner still holds a core's queue (R228). -/
def State.ownerBusy (s : State) (o : Nat) : Bool :=
  ((s.band? o).map (fun x => x.enginesRun && !x.mq.isEmpty)).getD false

/-- Spill a core's matrix state to its owner's accumulator image, which the save engine writes (R304, R371); none where the owner's pool has no room (R301). -/
def State.spillTiles (s : State) (core : Nat) : Option State :=
  let c := s.core core
  match c.owner with
  | none => some s
  | some o =>
    let part := ((s.band? o).map (fun x => x.part)).getD 0
    if !s.poolRoom part accImageBytes then none else
    let s' := { s.modCore core (fun c => { c with owner := none, mat := MatSt.zero }) with accImages := SMap.insert s.accImages o c.mat }
    some (s'.sendImage (.tiles o) (dieOf core))

/-- A claim of a core's tiles and latch for a band (R228, R304); none while it must wait. -/
def State.claim (s : State) (b : Nat) (bd : Band) : Option State :=
  let c := s.core bd.core
  if c.owner = some b then some s
  else if (c.owner.map s.ownerBusy).getD false then none else
  let own := fun (s : State) => match s.taggedOn b with
    | some k => s.spillTiles k
    | none => some s
  let take := fun (s : State) =>
    let mat := SMap.get s.accImages MatSt.zero b
    let s := s.modCore bd.core (fun c => { c with owner := some b, mat := mat, claims := c.claims + 1 })
    let s' := { s with accImages := SMap.erase s.accImages b }
    if (SMap.find? s.accImages b).isSome then s'.sendImage (.tiles b) (dieOf bd.core) else s'
  ((s.spillTiles bd.core).bind own).map take

/-- The matrix commands of a core that are not complete (R227). -/
def State.matrixLoad (s : State) (core : Nat) : Nat :=
  s.bands.foldl (fun a e => if e.2.onCore core then a + e.2.mq.length else a) 0

/-- Issue a matrix command that has passed its checks (R228, R233, R234). `mark` is what happens to a command that is
discarded because the fault record is set; `go` makes the command's kind, and may change the state (a serial). -/
def State.queueMatrix (s : State) (b i : Nat) (bd : Band) (w : Weft) (latch : List (Nat × Nat)) (bad : List LaneEff)
    (mark : State → Cause → State) (go : State → MKind × State) : Out :=
  match bd.mfault with
  | some c => .next (mark (s.finish b i bd w latch { lanes := bad }) c)
  | none =>
    if 8 ≤ s.matrixLoad bd.core then .next s.stall else
    match s.claim b bd with
    | none => .next s.stall
    | some s =>
      let r := go (s.finish b i bd w latch { lanes := bad })
      let m : MCmd := ⟨r.2.stamp, i, r.1, false, 0, [], []⟩
      .next (r.2.nextStamp.modBand b (fun x => { x with mq := x.mq ++ [m] }))

/-- MLDW (R239). -/
def execMldw (a : Operand) (fmt : Fmt) (sm : ScaleMode) (mc : Fin 16) (g : Guard) (s : State) : Out :=
  let fd := feField true a
  let needs := feNeeds [(1, fd)] []
  runOnce g needs [fd] (fun s b i bd w lanes chk =>
    let addr := fd.value w (lanes.headD 0)
    chk (if addr.toNat % 128 ≠ 0 then some (matCause 0x12B 5 0 0 addr) else none) <| fun _ =>
      s.queueMatrix b i bd w needs.latch [] (fun s _ => s) (fun s => (.mldw addr fmt sm mc.val, s))) s

/-- Reason 3 of R234 for an activation record (R231). -/
def Rec.badAct (r : Rec) : Bool :=
  let d0 := Rec.dim r 0
  let d1 := Rec.dim r 1
  let f := Rec.fmt r
  Rec.nd r != 2 || Rec.space r != 1 || decide (256 < d0.extent.toNat) || Rec.bcast r 0
    || d0.stride != (if Fmt.isDense f then 0 else BitVec.ofNat 64 (Fmt.unitBytes f)) || decide (128 < d1.extent.toNat)
    || r.base.toNat % 32 != 0 || d1.stride.toNat % 32 != 0 || (Rec.used r).any (fun d => d.index != 0)

/-- MLOOP (R240): `ctl` is half the number of sK. -/
def execMloop (act : Fin 16) (ctl : Fin 32) (scale : Option (Fin 64)) (tile : Fin 4) (mc : Fin 16) (row0 : Fin 128) (g : Guard)
    (s : State) : Out :=
  let k := 2 * ctl.val
  let needs := feNeeds [] ([k, k + 1] ++ scale.toList.map Fin.val)
  runOnce g needs [] (fun s b i bd w _ chk =>
    let r := bd.rec_ act.val
    let k0 := w.sget k
    let k1 := w.sget (k + 1)
    let sa := scale.map (fun n => w.sget n.val)
    let n := fld k0 15 0
    let sx := fun (x : Nat) => (BitVec.ofNat 32 x).toInt
    let incA := sx (fld k0 63 32)
    let incS := sx (fld k1 63 32)
    let incW := sx (fld k1 31 0)
    let c := fun reason (a : W64) => some (matCause 0x12C reason tile.val 0 a)
    let rows := (Rec.dim r 1).extent.toNat
    let bad :=
      if Rec.broken r then some (engineCause 1 0x12C (some act.val))
      else if Rec.badAct r then c 3 0
      else if 128 < row0.val + rows then c 4 0
      else if (sa.map (fun x => x.toNat % 8 != 0)).getD false then c 5 (sa.getD 0)
      else if incW % 128 ≠ 0 ∨ incS % 8 ≠ 0 then c 5 0
      else if n = 0 ∨ 4096 < n ∨ fld k0 31 16 ≠ 0 then c 7 0
      else none
    chk bad <| fun _ => s.queueMatrix b i bd w needs.latch [] (fun s _ => s) (fun s =>
        (.mloop r n incA incS incW sa tile.val mc.val row0.val, s))) s

/-- MWAIT (R241). -/
def execMwait (tile : Option (Fin 4)) (g : Guard) (s : State) : Out :=
  runOnce g Needs.none [] (fun s b i bd w lanes _ =>
    let t := tile.map Fin.val
    if bd.matrixBusy t s.stamp then .next (s.parkWord b i bd w [] (.matrix t s.stamp)) else
    match bd.mfault with
    | none => .next (s.finish b i bd w [] {})
    | some c => .next ((s.finish b i bd w [] { lanes := sameCause lanes c }).modBand b (fun x => { x with mfault := none }))) s

/-- MZERO (R242). -/
def execMzero (tile : Fin 4) (int : Bool) (g : Guard) (s : State) : Out :=
  runOnce g Needs.none [] (fun s b i bd w _ chk =>
    chk none (fun _ => s.queueMatrix b i bd w [] [] (fun s _ => s) (fun s => (.mzero tile.val int, s)))) s

/-- Reason 3 of R234 for an output record (R243). -/
def Rec.badOut (r : Rec) : Bool :=
  let d0 := Rec.dim r 0
  let f := Rec.fmt r
  Rec.nd r != 2 || !(Rec.space r == 1 || Rec.space r == 2) || Rec.broadcasts r || decide (128 < d0.extent.toNat)
    || d0.stride != (if Fmt.isDense f then 0 else BitVec.ofNat 64 (Fmt.unitBytes f)) || (Rec.used r).any (fun d => d.index != 0)

/-- MEPI (R243, R250). -/
def execMepi (f : FMepi) (s : State) : Out :=
  let regs := f.wit.toList.map Fin.val ++ f.bias.toList.map Fin.val ++ f.clamp.toList.map Fin.val
  let needs := feNeeds [] regs
  runOnce f.guard needs [] (fun s b i bd w _ chk =>
    let r := bd.rec_ f.out.val
    let row0 := 16 * f.row0.val
    let bias := f.bias.map (fun n => w.sget n.val)
    let wit := f.wit.map (fun n => w.sget n.val)
    let c := fun reason (a : W64) => some (matCause 0x12E reason f.tile.val 0 a)
    let off := fun (n : Nat) (x : Option W64) => (x.map (fun y => y.toNat % n != 0)).getD false
    let bad :=
      if Rec.broken r then some (engineCause 1 0x12E (some f.out.val))
      else if Rec.badOut r then c 3 0
      else if 128 < row0 + (Rec.dim r 1).extent.toNat then c 4 0
      else if off 4 bias then c 5 (bias.getD 0)
      else if off 16 wit then c 5 (wit.getD 0)
      else none
    chk bad <| fun _ =>
      if w.phase.isSome && Rec.space r == 2 then .next s.stall else
      s.queueMatrix b i bd w needs.latch [] (fun s _ => s) (fun s =>
        let k := fun (x : Option (W64 × W64)) => MKind.mepi (f.out.val, r) bias (f.clamp.map (fun n => w.sget n.val)) x f.tile.val f.rnd.val f.sat row0
        match wit with
        | none => (k none, s)
        | some a =>
          let t := s.takeSerial b i bd
          (k (some (a, t.1)), t.2))) s

/-- The registers of an MRD. -/
def mrdRegs (f : FMrd) : List Nat := (List.range (if f.raw then 4 else 1)).map (fun k => f.dst.val + k)

/-- What MRD needs. -/
def mrdNeeds (f : FMrd) : Needs :=
  let x := feNeeds [(1, feField false f.a), (2, feField false f.b)] []
  { x with regs := x.regs ++ mrdRegs f }

/-- MRD (R244): per lane, helper lanes included. -/
def execMrd (f : FMrd) (s : State) : Out :=
  let fa := feField false f.a
  let fb := feField false f.b
  let n := if f.raw then 4 else 1
  let regs := mrdRegs f
  let needs := mrdNeeds f
  s.issue needs (fun b i bd w =>
    let lanes := laneList w.width (w.act f.guard)
    if (w.nonHelpers (w.act f.guard)).isEmpty then .next (s.finish b i bd w needs.latch {}) else
    let at_ := fun l => ((fa.value w l).toNat % 2 ^ 32, (fb.value w l).toNat % 2 ^ 32)
    let cause := fun l =>
      let a := at_ l
      pickCause ((fa.marks w l ++ fb.marks w l).foldl (fun c x => pickCause c (some x)) none)
        (if 127 < a.1 ∨ 127 < a.2 then
          some (matCause 0x130 9 f.tile.val 0 (BitVec.ofNat 64 (a.1 % 128 + a.2 % 128 * 256)))
        else none)
    let bad := lanes.filterMap (fun l => (cause l).map (fun c => ({ lane := l, cause := some c } : LaneEff)))
    let ok := lanes.filter (fun l => (cause l).isNone)
    if ok.isEmpty || (!bad.isEmpty && (w.chainFor (needs.latch.map (fun r => r.2))).isSome) then
      .next (s.finish b i bd w needs.latch { lanes := bad })
    else
      let id := s.stamp
      let mark := fun (s : State) (c : Cause) => s.modWeft b i (fun w => ok.foldl (fun w l => w.markFailed f.dst.val (List.range n) l id c) w)
      s.queueMatrix b i bd w needs.latch bad mark (fun s =>
        (.mrd (ok.map (fun l => (l, at_ l))) f.dst.val f.raw f.tile.val f.rnd.val f.sat,
          s.modWeft b i (fun w =>
            { w with await := w.await ++ ok.flatMap (fun l => regs.map (fun r => (⟨r, l, s.stamp⟩ : Await))) }))))

/-- Why a matrix command cannot go on: it waits for lines, or it ends in an execution error, with the weight image that the step
has loaded before it (R240). -/
inductive MHalt where
  | wait
  | fail (c : Cause) (latch : Option WeightLatch := none)
deriving DecidableEq, Repr

/-- Bytes that the matrix path reads in band scratchpad: their address, how many, in units of how many, and the multicast group of
the fetch (R236). -/
structure MFetch where
  addr : W64
  n : Nat
  unit : Nat
  group : Nat

/-- Where a fetch reads (R180, R188), or the first unit of it that cannot be read; a dense FP6 unit of three bytes has no alignment
of its own. -/
def State.matAddr (s : State) (b : Nat) (bd : Band) (x : MFetch) : Except Cause (Place × Nat) :=
  let look := fun (a : W64) (k : Nat) =>
    if x.unit % 2 = 0 ∧ a.toNat % x.unit ≠ 0 then Except.error 1 else s.nearAddr b bd false (dieOf bd.core) a.toNat k false
  match look x.addr x.n with
  | .ok y => .ok y
  | .error r =>
    let at_ := fun k => x.addr + BitVec.ofNat 64 (x.unit * k)
    let first := ((List.range (x.n / x.unit)).map (fun k => (at_ k, look (at_ k) x.unit))).findSome? (fun y => match y.2 with
      | .error r => some (y.1, r)
      | .ok _ => none)
    let y := first.getD (x.addr, r)
    .error (nearCause false (Nat.log2 x.unit) .band y.2 y.1)

/-- The time of 64 cycles of the arithmetic clock, in ns (R236, R394). -/
def State.mcastNs (s : State) : Nat := 64000 / max 1 (fld (s.kget .pwrstat) 31 16) + 1

/-- Whether a fetch joins an earlier one (R236): of one gang, group, place and length, and within a time of it. -/
def Mcast.serves (e : Mcast) (gang group : Nat) (p : Place) (off n now ns : Nat) : Bool :=
  e.gang == gang && e.group == group && e.place == p && e.off == off && e.bytes.length == n && decide (now < e.at_ + ns)

/-- Perform a fetch (R203, R236); whether it comes in time to join an earlier one the device chooses (log 57). -/
def State.matFetch (s : State) (b : Nat) (m : MCmd) (bd : Band) (x : MFetch) (p : Place) (off : Nat) : List Byte × State :=
  let read := match p with
    | .band id => s.bandRead id off x.n ⟨b, m.weft, .matrix, 0, bd.gang, m.id⟩
    | p => (s.homeRead p off x.n, s)
  if x.group = 0 then read else
  match s.mcast.find? (fun e => e.serves bd.gang x.group p off x.n s.now s.mcastNs) with
  | some e => if Config.freeNat s.freeCtr % 2 = 0 then (e.bytes, s.tick) else
      let r := read
      (r.1, r.2.tick)
  | none =>
    let old := s.mcast.filter (fun e => decide (s.now < e.at_ + s.mcastNs))
    (read.1, { read.2 with mcast := ⟨bd.gang, x.group, p, off, read.1, s.now⟩ :: old })

/-- The copies whose lines a matrix command does not wait for: those that wait for it (R203; log 38). -/
def State.matSkips (s : State) (b : Nat) (m : MCmd) (_ : Nat) (o : Cmd) : Bool := s.waitsFor b m.weft m.id .matrix (fun _ => false) o

/-- The fetches of a step: every address is checked, then every line must be present, then they are performed (R203, R234). -/
def State.matReads (s : State) (b : Nat) (bd : Band) (m : MCmd) (xs : List MFetch) : Except MHalt (List (List Byte) × State) :=
  match xs.findSome? (fun x => match s.matAddr b bd x with
    | .error c => some c
    | .ok _ => none) with
  | some c => .error (.fail c)
  | none =>
    let at_ := xs.filterMap (fun x => match s.matAddr b bd x with
      | .ok y => some (x, y)
      | .error _ => none)
    if at_.any (fun y => (linesOf y.2.1 y.2.2 y.1.n).any (s.lineWaits (s.matSkips b m))) then .error .wait else
    match at_.findSome? (fun y => s.flawAt y.2.1 y.2.2 y.1.n) with
    | some c => .error (.fail c)
    | none =>
    .ok (at_.foldl (fun (a : List (List Byte) × State) y =>
      let r := a.2.matFetch b m bd y.1 y.2.1 y.2.2
      (a.1 ++ [r.1], r.2)) ([], s))

/-- Read a weight tile image (R229) in a multicast group (R236, R347). -/
def State.readImage (s : State) (b : Nat) (bd : Band) (m : MCmd) (a : W64) (fmt : Fmt) (sm : ScaleMode) (g : Nat) :
    Except MHalt (WeightLatch × State) :=
  match s.matReads b bd m [⟨a, imageElems fmt + imageScales sm, 1, g⟩] with
  | .error h => .error h
  | .ok (bs, s) =>
    let x := bs.headD []
    .ok (⟨fmt, sm, a, x.take (imageElems fmt), x.drop (imageElems fmt)⟩, s)

/-- A command's step: the state after it, the progress, whether it is complete, its flags, and what an MEPI has made so far. -/
structure MStep where
  s : State
  progress : Nat
  done : Bool
  exc : Exc
  cells : List (Nat × Nat × Nat) := []
  wits : List (Nat × Nat) := []

/-- An increment times a step, as an address increment. -/
def stepOff (inc : Int) (j : Nat) : W64 := BitVec.ofInt 64 (inc * j)

/-- Add a step to the rows of a tile (R232): the new tile and the flags. -/
def Tile.addRows (t : Tile) (l : WeightLatch) (afmt : Fmt) (row0 : Nat) (rows : List (Array Nat × Array Byte)) : Tile × Exc :=
  let image := l.image.toArray
  let ws := l.scales.toArray
  let m := Fmt.memBits l.fmt
  let out := rows.zipIdx.flatMap (fun (r, i) => (List.range 128).map (fun c =>
    let x : StepIn := {
      afmt := afmt, wfmt := l.fmt, sm := l.sm, act := r.1, weight := fun k => packedAt image m (k * 128 + c)
      ascale := r.2, wscale := ws }
    let e := x.add t.int c (t.entry (row0 + i) c)
    ((row0 + i) * 128 + c, e.1, e.2)))
  let fresh := (out.filter (fun e => e.2.1 != 0)).map (fun e => (e.1, e.2.1))
  let below := SMap.keep t.data (fun k => decide (k < row0 * 128))
  let above := SMap.keep t.data (fun k => decide ((row0 + rows.length) * 128 ≤ k))
  ({ t with data := below ++ fresh ++ above }, Exc.all (out.map (fun e => e.2.2)))

/-- The fetches of an MLOOP step's rows (R234, R236): each row's activations, and its scales where the weights are scaled. -/
def rowFetches (r : Rec) (incA incS : Int) (sa : Option W64) (scaled : Bool) (g j : Nat) : List (List MFetch) :=
  let af := Rec.fmt r
  let bytes := (Rec.dim r 0).extent.toNat * Fmt.memBits af / 8
  let d1 := if Rec.bcast r 1 then 0 else (Rec.dim r 1).stride
  (List.range (Rec.dim r 1).extent.toNat).map (fun i =>
    ⟨r.base + stepOff incA j + BitVec.ofNat 64 i * d1, bytes, Fmt.unitBytes af, g⟩ ::
      (match scaled, sa with
        | true, some a => [⟨a + stepOff incS j + BitVec.ofNat 64 (8 * i), 8, 4, 0⟩]
        | _, _ => []))

/-- A step of MLOOP (R230 to R235, R240). -/
def State.mloopStep (s : State) (b : Nat) (bd : Band) (m : MCmd) (r : Rec) (n : Nat) (incA incS incW : Int) (sa : Option W64)
    (tile g row0 : Nat) : Except MHalt MStep :=
  let j := m.progress
  let mat := (s.core bd.core).mat
  let fail := fun reason (a : W64) => MHalt.fail (matCause 0x12C reason tile j a)
  match mat.latch with
  | none => .error (fail 6 0)
  | some l =>
    let af := Rec.fmt r
    if !combo l.fmt l.sm af then .error (fail 1 0)
    else if (mat.tile tile).int != Fmt.intTile l.fmt then .error (fail 2 0)
    else if l.sm ≠ .none ∧ sa.isNone then .error (fail 10 0)
    else
      let wa := l.wcur + stepOff incW j
      let latch : Except MHalt (WeightLatch × State) :=
        if j = 0 ∨ incW = 0 then .ok (l, s)
        else if wa.toNat % 128 ≠ 0 then .error (fail 5 wa)
        else (s.readImage b bd m wa l.fmt l.sm mat.mc).map (fun x => ({ x.1 with wcur := l.wcur }, x.2))
      match latch with
      | .error h => .error h
      | .ok (l, s) =>
        let mb := Fmt.memBits af
        let fetches := rowFetches r incA incS sa (l.sm != .none) g j
        match s.matReads b bd m fetches.flatten with
        | .error (.fail c _) => .error (.fail c (some l))
        | .error .wait => .error .wait
        | .ok (bs, s) =>
          let per := (fetches.head?.map List.length).getD 1
          let rows := (List.range fetches.length).map (fun i =>
            ((Array.range (Rec.dim r 0).extent.toNat).map (packedAt (bs.getD (per * i) []).toArray mb),
              if per = 2 then (bs.getD (per * i + 1) []).toArray else #[]))
          let t := (mat.tile tile).addRows l af row0 rows
          let done := decide (n ≤ j + 1)
          let l := if done then { l with wcur := l.wcur + stepOff incW (n - 1) } else l
          .ok ⟨s.modCore bd.core (fun c => { c with mat := { c.mat.setTile tile t.1 with latch := some l } }), j + 1, done, t.2, [], []⟩

/-- One element of MEPI from its entry (R243): its bits, its witness and the flags. `bias` is the column's. -/
def mepiElem (int : Bool) (of : Fmt) (rnd : Nat) (sat : Bool) (bias : Option Nat) (clamp : Option W64) (e : W80) :
    Nat × Nat × Exc :=
  let lo := (clamp.getD 0).setWidth 32
  let hi := ((clamp.getD 0) >>> 32).setWidth 32
  if int then
    let x := entryInt (match bias with
      | some n => e + ((BitVec.ofNat 32 n).signExtend 80)
      | none => e)
    let y := if clamp.isNone then (x, 0) else if x < lo.toInt then (lo.toInt, 1) else if hi.toInt < x then (hi.toInt, 2) else (x, 0)
    let c := clampInt of.range.1 of.range.2 y.1
    (of.ofInt c.1, y.2, c.2)
  else
    let a := match bias with
      | some n =>
        let v := FInfo.f32.unpack n
        let r := accAdd e v
        (r.1, r.2 ||| Exc.on v.isSig Exc.iv)
      | none => (e, 0)
    let x := FInfo.acc.unpack a.1.toNat
    let l := FInfo.f32.unpack lo.toNat
    let h := FInfo.f32.unpack hi.toNat
    let y := if clamp.isNone then (x, 0) else if x.isNan then (x, 3) else if x.lt l then (l, 1) else if h.lt x then (h, 2) else (x, 0)
    let r := of.finfo.deliver (Rnd.ofCode rnd) 0 sat false y.1
    (r.bits, y.2, a.2 ||| r.exc)

/-- What an MEPI has made: the state, the bytes that its completion writes and its witness rows (R198), and the flags. -/
structure MRows where
  s : State
  cells : List (Nat × Nat × Nat)
  wits : List (Nat × Nat)
  exc : Exc

/-- A row of MEPI, or why it halts. -/
def State.mepiRow (x : MRows) (b : Nat) (bd : Band) (m : MCmd) (r : Rec) (bias clamp : Option W64) (wit : Option (W64 × W64))
    (tile rnd : Nat) (sat : Bool) (row0 i : Nat) : Except MHalt MRows :=
  let t := (x.s.core bd.core).mat.tile tile
  let of := Rec.fmt r
  let e0 := (Rec.dim r 0).extent.toNat
  let space := Rec.space r
  let want := bias.toList.map (fun a => (⟨a, 4 * e0, 4, 0⟩ : MFetch))
  match x.s.matReads b bd m want with
  | .error h => .error h
  | .ok (bs, s) =>
    let biases := (bs.headD []).toArray
    let els := (List.range e0).map (fun c =>
      mepiElem t.int of rnd sat (if bias.isSome then some (wordIn biases (4 * c)) else none) clamp (t.entry (row0 + i) c))
    let bad := fun (y : Want) => match s.nearOf b bd y true with
      | .error c => some c
      | .ok _ => none
    let witWant := match wit with
      | none => []
      | some (a, _) => [(⟨space, a, 16, 4, false, false⟩ : Want), ⟨space, a + BitVec.ofNat 64 (16 + 32 * i), 32, 4, false, false⟩]
    match ((List.range e0).map (fun c => Rec.need r (i * e0 + c)) ++ witWant).findSome? bad with
    | some c => .error (.fail c)
    | none =>
      let row := els.zipIdx.foldl (fun y e => Rec.put r (i * e0 + e.2) e.1.1 y) (Chunk.start [])
      .ok ⟨s, row.cells.reverse ++ x.cells,
        if wit.isSome then x.wits ++ [(i, els.zipIdx.foldl (fun n e => n + e.1.2.1 * 2 ^ (2 * e.2)) 0)] else x.wits,
        x.exc ||| Exc.all (els.map (fun e => e.2.2))⟩

/-- The rows of MEPI up to the next multiple of 16 (R235): all of them wait where one must wait, and those before a row that
fails stand; the failure counts at the first. -/
def State.mepiRows (b : Nat) (bd : Band) (m : MCmd) (r : Rec) (bias clamp : Option W64) (wit : Option (W64 × W64))
    (tile rnd : Nat) (sat : Bool) (row0 : Nat) : Nat → Nat → MRows → Except MHalt (MRows × Nat)
  | 0, i, x => .ok (x, i)
  | fuel + 1, i, x =>
    if (Rec.dim r 1).extent.toNat ≤ i then .ok (x, i) else
    match State.mepiRow x b bd m r bias clamp wit tile rnd sat row0 i with
    | .error .wait => .error .wait
    | .error h => if i = m.progress then .error h else .ok (x, i)
    | .ok y => State.mepiRows b bd m r bias clamp wit tile rnd sat row0 fuel (i + 1) y

/-- Write bytes of a witness of the matrix path (R249, R251). -/
def State.mepiWit (s : State) (b : Nat) (bd : Band) (m : MCmd) (space : Nat) (a : W64) (bs : List Byte) : State :=
  match s.nearOf b bd ⟨space, a, bs.length, 4, false, false⟩ true with
  | .error _ => s
  | .ok (p, off) => s.land p off bs (some (b, m.weft, .matrix)) false

/-- Write a rowed witness header (R243, R249, R251). -/
def State.mepiHeader (s : State) (b : Nat) (bd : Band) (m : MCmd) (r : Rec) (wit : Option (W64 × W64)) (marker : Bool) : State :=
  match wit with
  | none => s
  | some (a, ser) =>
    let h := if marker then witMarker.toNat else
      (Rec.dim r 0).extent.toNat * 2 ^ 48 + (Rec.dim r 1).extent.toNat * 2 ^ 32 + 2 ^ 16 + 64 + 2
    s.mepiWit b bd m (Rec.space r) a (leBytes 8 h ++ leBytes 8 ser.toNat)

/-- Group bytes to write, in their order, into sectors (R205): those of one sector that follow one another. -/
def sectorRuns : List (Nat × Nat × Nat) → List (Nat × List (Nat × Nat × Nat))
  | [] => []
  | c :: cs =>
    match sectorRuns cs with
    | (k, xs) :: rs => if k = c.1 / 32 then (k, c :: xs) :: rs else (c.1 / 32, [c]) :: (k, xs) :: rs
    | [] => [(c.1 / 32, [c])]

/-- What an MEPI has made is published (R198): its engine reports its completion, or its end in error. -/
def State.mepiLand (s : State) (b : Nat) (bd : Band) (m : MCmd) (r : Rec) (wit : Option (W64 × W64)) (cells : List (Nat × Nat × Nat))
    (wits : List (Nat × Nat)) : State :=
  let s := (sectorRuns cells.reverse).foldl (fun (s : State) y =>
    let lo := (y.2.head?.map (fun c => c.1)).getD 0
    match s.nearOf b bd ⟨Rec.space r, BitVec.ofNat 64 lo, 1, 0, false, false⟩ true with
    | .error _ => s
    | .ok (p, off) => s.instant.publishCells p (y.2.map (fun c => (off + c.1 - lo, c.2))) (some (b, m.weft, .matrix)) false) s
  match wit with
  | none => s
  | some (a, _) => wits.foldl (fun (s : State) w =>
      s.mepiWit b bd m (Rec.space r) (a + BitVec.ofNat 64 (16 + 32 * w.1)) (leBytes 32 w.2)) s

/-- A step of MEPI. -/
def State.mepiStep (s : State) (b : Nat) (bd : Band) (m : MCmd) (r : Rec) (bias clamp : Option W64) (wit : Option (W64 × W64))
    (tile rnd : Nat) (sat : Bool) (row0 : Nat) : Except MHalt MStep :=
  let t := (s.core bd.core).mat.tile tile
  let of := Rec.fmt r
  let fmtOk := if t.int then of == .s32 || of == .s8 else
    (match of with
      | .s32 | .u32 | .s8 | .s4 | .e8m0 => false
      | _ => true)
  let lo := ((clamp.getD 0).setWidth 32 : W32)
  let hi := (((clamp.getD 0) >>> 32).setWidth 32 : W32)
  let boundsBad := clamp.isSome && (if t.int then decide (hi.toInt < lo.toInt) else
    (FInfo.f32.unpack lo.toNat).isNan || (FInfo.f32.unpack hi.toNat).isNan || (FInfo.f32.unpack hi.toNat).lt (FInfo.f32.unpack lo.toNat))
  if !fmtOk then .error (.fail (matCause 0x12E 2 tile 0 0))
  else if boundsBad then .error (.fail (matCause 0x12E 8 tile 0 0))
  else
    match State.mepiRows b bd m r bias clamp wit tile rnd sat row0 (16 - m.progress % 16) m.progress ⟨s, m.cells, m.wits, 0⟩ with
    | .error h => .error h
    | .ok (x, i) =>
      let done := decide ((Rec.dim r 1).extent.toNat ≤ i)
      let s := if done then (x.s.mepiLand b bd m r wit x.cells x.wits).mepiHeader b bd m r wit false else x.s
      .ok ⟨s, i, done, x.exc, x.cells, x.wits⟩

/-- An MRD's values for a lane, and its flags (R244). -/
def mrdVals (int : Bool) (raw : Bool) (rnd : Nat) (sat : Bool) (e : W80) : List W32 × Exc :=
  if raw then ([e.setWidth 32, (e >>> 32).setWidth 32, (e >>> 64).setWidth 32, 0], 0)
  else if int then
    let c := clampInt (-2 ^ 31) (2 ^ 31 - 1) (entryInt e)
    ([BitVec.ofInt 32 c.1], c.2)
  else
    let r := FInfo.f32.deliver (Rnd.ofCode rnd) 0 sat false (FInfo.acc.unpack e.toNat)
    ([BitVec.ofNat 32 r.bits], r.exc)

/-- A step of MRD, its only one: the registers are written. -/
def State.mrdStep (s : State) (b : Nat) (bd : Band) (m : MCmd) (lanes : List (Nat × Nat × Nat)) (dst : Nat) (raw : Bool)
    (tile rnd : Nat) (sat : Bool) : MStep :=
  let t := (s.core bd.core).mat.tile tile
  let vals := lanes.map (fun x => (x.1, mrdVals t.int raw rnd sat (t.entry x.2.1 x.2.2)))
  let s' := s.modWeft b m.weft (fun w => vals.foldl (fun w x =>
    w.landReply dst x.1 m.id (x.2.1.flatMap (fun v => leBytes 4 v.toNat))) w)
  let helper := fun l => ((s.weft? b m.weft).map (fun w => (w.lane l).helper)).getD false
  { s := s', progress := 1, done := true, exc := Exc.all ((vals.filter (fun x => !helper x.1)).map (fun x => x.2.2)) }

/-- The next step of a matrix command. -/
def State.matStep (s : State) (b : Nat) (bd : Band) (m : MCmd) : Except MHalt MStep :=
  match m.kind with
  | .mldw a fmt sm mc =>
    (s.readImage b bd m a fmt sm mc).map (fun l =>
      { s := l.2.modCore bd.core (fun c => { c with mat := { c.mat with latch := some l.1, mc := mc } }), progress := 1, done := true, exc := 0 })
  | .mloop r n incA incS incW sa tile g row0 => s.mloopStep b bd m r n incA incS incW sa tile g row0
  | .mepi (_, r) bias clamp wit tile rnd sat row0 => s.mepiStep b bd m r bias clamp wit tile rnd sat row0
  | .mzero tile int => .ok {
      s := s.modCore bd.core (fun c => { c with mat := c.mat.setTile tile (Tile.zero int) }), progress := 1, done := true, exc := 0 }
  | .mrd lanes dst raw tile rnd sat => .ok (s.mrdStep b bd m lanes dst raw tile rnd sat)

/-- A matrix command by its number, with its band. -/
def State.mcmd? (s : State) (id : Nat) : Option (Nat × Band × MCmd) :=
  s.bands.findSome? (fun e => (e.2.mq.find? (fun m => m.id == id)).map (fun m => (e.1, e.2, m)))

/-- The units of R233: the array, the epilogue unit, or none. -/
def MKind.unit : MKind → Nat
  | .mldw _ _ _ _ => 1
  | .mloop _ _ _ _ _ _ _ _ _ => 1
  | .mepi _ _ _ _ _ _ _ _ => 2
  | .mrd _ _ _ _ _ _ => 2
  | .mzero _ _ => 0

/-- Whether an earlier command of the queue holds a command back (R233). -/
def Band.matrixHeld (bd : Band) (m : MCmd) : Bool :=
  bd.mq.any (fun e => decide (e.id < m.id) && (tilesMeet e.kind.tile m.kind.tile || (m.kind.unit != 0 && e.kind.unit == m.kind.unit)))

/-- Whether a command may start (R233): nothing holds it back, and its tiles are its band's. -/
def State.mayStart (s : State) (b : Nat) (bd : Band) (m : MCmd) : Bool :=
  !m.started && bd.enginesRun && (s.core bd.core).owner == some b && !bd.matrixHeld m && !s.fenceHolds b m.weft .matrix m.id

/-- MATRIX_COMMAND_START (R233): a witness takes its marker here (R251). -/
def execMatrixCommandStart (cmd : Nat) (s : State) : Out :=
  let no : Out := .refused (.notPending "MATRIX_COMMAND_START")
  match s.mcmd? cmd with
  | none => no
  | some (b, bd, m) =>
    if !s.mayStart b bd m then no else
    let s := match m.kind with
      | .mepi (_, r) _ _ wit _ _ _ _ => s.mepiHeader b bd m r wit true
      | _ => s
    .next (s.modBand b (fun x => { x with mq := x.mq.map (fun e => if e.id = cmd then { e with started := true } else e) }))

/-- Whether a matrix command may make a step: it has started, its tiles are its band's, and no pending save stops it
at a point of R235 (R303, R349). -/
def State.mayStep (s : State) (b : Nat) (bd : Band) (m : MCmd) : Bool :=
  m.started && bd.enginesRun && (s.core bd.core).owner == some b && !(bd.savePending && m.atStop)

/-- MATRIX_COMMAND_COMPLETE (R235, R237): the command makes its next step; the last one completes it (log 20). -/
def execMatrixCommandComplete (cmd : Nat) (s : State) : Out :=
  let no : Out := .refused (.notPending "MATRIX_COMMAND_COMPLETE")
  match s.mcmd? cmd with
  | none => no
  | some (b, bd, m) =>
    if !s.mayStep b bd m then no else
    match s.matStep b bd m with
    | .error _ => no
    | .ok r =>
      .next ((r.s.raiseAt b m.weft r.exc).modBand b (fun x => { x with
        mq := if r.done then x.mq.filter (fun e => e.id != cmd)
          else x.mq.map (fun e => if e.id = cmd then { e with progress := r.progress, cells := r.cells, wits := r.wits } else e) }))

/-- Discard the commands of a queue from a number on: an MRD's registers are marked failed (R234). -/
def State.discardFrom (s : State) (b : Nat) (bd : Band) (from_ : Nat) (c : Cause) : State :=
  let s := (bd.mq.filter (fun e => decide (from_ ≤ e.id))).foldl (fun (s : State) e =>
    match e.kind with
    | .mrd lanes dst raw _ _ _ => s.modWeft b e.weft (fun w =>
        lanes.foldl (fun w x => w.markFailed dst (w.waiting dst (if raw then 4 else 1) x.1 e.id) x.1 e.id c) w)
    | _ => s) s
  s.modBand b (fun x => { x with mq := x.mq.filter (fun e => decide (e.id < from_)) })

/-- A matrix command ends in error (R234): it and those behind it are discarded, and the band's fault record takes the cause. -/
def State.matrixFail (s : State) (b : Nat) (bd : Band) (m : MCmd) (c : Cause) (latch : Option WeightLatch) : State :=
  let s := match m.kind with
    | .mldw _ _ _ _ => s.modCore bd.core (fun k => { k with mat := { k.mat with latch := none } })
    | .mepi (_, r) _ _ wit _ _ _ _ => s.mepiLand b bd m r wit m.cells m.wits
    | _ => match latch with
      | some l => s.modCore bd.core (fun k => { k with mat := { k.mat with latch := some l } })
      | none => s
  (s.discardFrom b bd m.id c).modBand b (fun x => { x with mfault := x.mfault.or (some c) })

/-- MATRIX_EXECUTION_ERROR (R234). -/
def execMatrixExecutionError (cmd : Nat) (s : State) : Out :=
  let no : Out := .refused (.notPending "MATRIX_EXECUTION_ERROR")
  match s.mcmd? cmd with
  | none => no
  | some (b, bd, m) =>
    if !s.mayStep b bd m then no else
    match s.matStep b bd m with
    | .error (.fail c latch) => .next (s.matrixFail b bd m c latch)
    | _ => no

/-- Whether an instruction is a matrix command that claims (R228). -/
def claims : Instr → Bool
  | .mldw _ _ _ _ _ => true
  | .mloop _ _ _ _ _ _ _ => true
  | .mepi _ => true
  | .mzero _ _ _ => true
  | .mrd _ => true
  | _ => false

/-- ACCUMULATOR_CLAIM (R228, R304): for a weft that stands before a matrix command on a core tagged to another band. -/
def execAccumulatorClaim (core band : Nat) (s : State) : Out :=
  let no : Out := .refused (.notPending "ACCUMULATOR_CLAIM")
  match s.band? band with
  | none => no
  | some bd =>
    let wants := bd.wefts.any (fun w => w.bundle != 0 && ((s.instrAt bd w w.pc).map claims).getD false)
    if bd.core ≠ core ∨ bd.state ≠ .resident ∨ (s.core core).owner = some band ∨ bd.mfault.isSome ∨ !wants then no else
    match s.claim band bd with
    | some s => .next s
    | none => no

/-- MATRIX_RESUME_CLAIM (R348): a restored band's commands claim before their next step. -/
def execMatrixResumeClaim (core band : Nat) (s : State) : Out :=
  let no : Out := .refused (.notPending "MATRIX_RESUME_CLAIM")
  match s.band? band with
  | none => no
  | some bd =>
    if bd.core ≠ core ∨ bd.enginesRun = false ∨ bd.mq.isEmpty ∨ (s.core core).owner = some band then no else
    match s.claim band bd with
    | some s => .next s
    | none => no

end Sys2Proof.Machine
end

