-- ==== Sys2Proof/Machine/Saves.lean ====
section
/-! DEFINITION. Pre-emption (R290), saves (R295 to R303) and flushes (R307). -/
namespace Sys2Proof.Machine

/-- A save becomes pending for a band (R295); a stopped band is saved in full (R268), and so is every band at a deadline
of 0 (R296). -/
def State.askSave (s : State) (b : Nat) (bd : Band) (who : SaveWho) : State :=
  let full := bd.stopped || fld (s.kget (.psave bd.part)) 15 0 == 0
  s.modBand b (fun x => { x with save := some ⟨s.now, full, false, 0, who⟩ })

/-- Whether a save may be asked for. -/
def Band.savable (bd : Band) : Bool := bd.state == .resident && bd.save.isNone

/-- SAVE_REQUEST (R295): of one band, or of every band of a context, by the host or, for stopped bands, by its debugger. -/
def execSaveRequest (byHost : Bool) (ctx : Nat) (band : Option Nat) (s : State) : Out :=
  let mine := s.bands.filter (fun e => e.2.ctx == ctx && e.2.savable && (byHost || e.2.stopped) && (match band with
    | none => true
    | some b => e.1 == b))
  if mine.isEmpty then .refused (.notPending "SAVE_REQUEST") else
  .next (mine.foldl (fun (s : State) e =>
    { s.askSave e.1 e.2 (if byHost then .host else .debugger) with hostStatus := SMap.erase s.hostStatus e.1 }) s)

/-- Whether a retraining runs that holds up a band's save: its deadline is extended by the retraining's duration (R380). -/
def State.retrainsFor (s : State) (bd : Band) : Bool :=
  (List.range Config.hbmStacks).any (fun k => bd.savesTo k && (s.hbmAt k).running)

/-- SAVE_DEADLINE_EXPIRY (R299). -/
def execSaveDeadlineExpiry (band : Nat) (s : State) : Out :=
  let no : Out := .refused (.notPending "SAVE_DEADLINE_EXPIRY")
  match s.band? band with
  | none => no
  | some bd =>
    match bd.save with
    | none => no
    | some v =>
      if v.full ∨ v.flush ∨ bd.state ≠ .resident ∨ s.retrainsFor bd ∨ s.now < v.at_ + 1000 * fld (s.kget (.psave bd.part)) 15 0 then no
      else .next (s.modBand band (fun x => { x with save := some { v with full := true } }))

/-- A weft that is saved by its PPOINT's record. -/
def Weft.point (w : Weft) : Option FPpoint :=
  match w.stop with
  | some (.ppoint f) => if w.frozen then none else some f
  | _ => none

/-- The groups of eight registers that a save of a weft writes (R300): all that it holds, or the live ones and those with a
register that awaits a reply or is marked failed. -/
def Weft.savedGroups (w : Weft) (bd : Band) : List Nat :=
  let held := (List.range 32).filter (fun g => decide (g < bd.base8) || ((w.ext || w.stop == some .block) && decide (g < bd.base8 + bd.ext8)))
  match w.point with
  | none => held
  | some f => held.filter (fun g => f.live.getLsbD g || w.keepsGroup bd g)

/-- The byte ranges of band scratchpad that a PPOINT names, clipped (R300). -/
def FPpoint.ranges (f : FPpoint) (bytes : Nat) : List (Nat × Nat) :=
  [(f.start0, f.len0), (f.start1, f.len1)].map (fun r =>
    (min (64 * r.1.toNat) bytes, min (64 * r.1.toNat + 64 * r.2.toNat) bytes))

/-- Whether the whole band scratchpad is saved (R299). -/
def Band.fullPad (bd : Band) : Bool := bd.wefts.any (fun w => !w.retired && w.point.isNone)

/-- The bytes of band scratchpad that a save keeps, as ranges. -/
def Band.savedRanges (bd : Band) : List (Nat × Nat) :=
  if bd.fullPad then [(0, bd.padBytes)] else bd.wefts.flatMap (fun w => match w.point with
    | some f => if w.retired then [] else FPpoint.ranges f bd.padBytes
    | none => [])

/-- Whether a byte lies in one of some ranges. -/
def inRanges (rs : List (Nat × Nat)) (a : Nat) : Bool := rs.any (fun r => decide (r.1 ≤ a) && decide (a < r.2))

/-- The saved scratchpad bytes: ranges that overlap count once. Ranges are multiples of 64. -/
def Band.savedPad (bd : Band) : Nat :=
  let rs := bd.savedRanges
  64 * ((List.range (bd.padBytes / 64)).countP (fun k => inRanges rs (64 * k)))

/-- The bytes of a band's image (R301). -/
def Band.imageBytes (bd : Band) : Nat :=
  16384 + bd.savedPad + (bd.wefts.filter (fun w => !w.retired)).foldl (fun a w =>
    a + 4096 + 32 * bd.width * (w.savedGroups bd).length) 0

/-- The scratchpad of retired members that a save of a gang's last band on its cores writes as well (R181). -/
def State.reservedPad (s : State) (b : Nat) (bd : Band) : List (Nat × Nat) :=
  let others := s.bands.filter (fun e => e.2.gang == bd.gang && e.1 != b)
  if others.any (fun e => e.2.state == .resident || e.2.state == .saving) then []
  else (others.filter (fun e => e.2.state == .retired && e.2.image == 0)).map (fun e => (e.1, e.2.padBytes))

/-- Whether a head may pre-empt a band (R290). -/
def State.mayPreempt (s : State) (eff : Nat) (bd : Band) : Bool :=
  match bd.pclass with
  | 1 => decide (bd.prio + 2 ≤ eff)
  | 2 => decide (bd.prio + 1 ≤ eff)
  | 3 => decide (bd.prio ≤ eff) && decide (bd.since + 1000000 ≤ s.now)
  | _ => false

/-- A band's flush begins (R307): unstarted commands are discarded and issue stops. -/
def State.beginFlush (s : State) (b who : Nat) : State :=
  let drop := (s.cmds.filter (fun e => e.2.band == b && !e.2.started)).map (fun e => e.1)
  let s := drop.foldl (fun (s : State) id => s.dropCmd id) s
  s.modBand b (fun x =>
    { x with save := some ⟨s.now, true, true, who, .host⟩, mq := x.mq.filter (fun m => m.started) })

/-- The launch at the head of a queue, if it has waited pwait µs without a band placed, with its dependence met (R290). -/
def State.waitingHead (s : State) (part queue : Nat) : Option (Nat × Launch) :=
  let pwait := fld (s.kget (.psched part)) 15 8
  let head := (s.part? part).bind (fun p => (SMap.get p.queues [] queue).head?)
  (head.bind (fun id => (SMap.find? s.launches id).map (fun l => (id, l)))).filter (fun h =>
    pwait != 0 && (h.2.headAt.map (fun t => decide (t + 1000 * pwait ≤ s.now))).getD false && (decide (0 < h.2.next) || (s.depMet h.2 && !s.depFailed h.2)))

/-- The bands that the scheduler may pre-empt for a head, but for those it has tried (R290). -/
def State.victims (s : State) (part : Nat) (l : Launch) (tried : List Nat) : List (Nat × Band) :=
  s.bands.filter (fun e => e.2.part == part && e.2.savable && !tried.contains e.1 && s.mayPreempt (s.effHead l) e.2)

/-- The scheduler seeks room for the head of a queue (R290, R295): of the bands that may be pre-empted for it and have not been
tried, one is flushed, where psave allows, its restartable bit is set and it is not stopped (R268), or is asked to be saved.
Which it takes, and how, the device chooses (log 5). None where no band is left. -/
def State.seekRoom (s : State) (part queue : Nat) (tried : List Nat) : Option State :=
  match s.waitingHead part queue with
  | none => none
  | some (_, l) =>
    let cands := s.victims part l tried
    let n := Config.freeNat s.freeCtr
    (cands[n / 2 % cands.length]?).map (fun e =>
      if fld (s.kget (.psave part)) 32 32 = 1 ∧ e.2.restartable ∧ ¬e.2.stopped ∧ n % 2 = 1 then s.tick.beginFlush e.1 0
      else s.tick.askSave e.1 e.2 (.scheduler part queue tried))

/-- PLACEMENT_WAIT_EXPIRY (R290): a head has waited. A head whose every candidate has been refused looks again later. -/
def execPlacementWaitExpiry (part queue : Nat) (s : State) : Out :=
  let no : Out := .refused (.notPending "PLACEMENT_WAIT_EXPIRY")
  match s.waitingHead part queue with
  | none => no
  | some (_, l) =>
    if !(l.sought.all (fun t => decide (t < s.now))) then no else
    match s.seekRoom part queue [] with
    | some t => .next t
    | none => no

/-- A save that finds no room (R295): the band goes on, a weft still waiting for the block it held; the scheduler moves on to
its next candidate, and the host finds the status "no room". -/
def State.noRoom (s : State) (b : Nat) (who : SaveWho) : State :=
  let s := s.modBand b (fun x => { x with
    save := none
    wefts := x.wefts.map (fun w => { w with stop := if w.stop = some .block then w.stop else none, reform := true }) })
  match who with
  | .scheduler part queue tried =>
    match s.seekRoom part queue (b :: tried) with
    | some t => t
    | none =>
      match s.waitingHead part queue with
      | none => s
      | some (id, l) => { s with launches := SMap.insert s.launches id { l with sought := some s.now } }
  | .host | .debugger => { s with hostStatus := SMap.insert s.hostStatus b .noRoom }

/-- A band's requests for register blocks leave the queue of its core (R177). -/
def State.dropGrants (s : State) (b core : Nat) : State :=
  (s.modCore core (fun c => { c with grants := c.grants.filter (fun x => x.1 != b) })).grant core

/-- Whether a matrix command stands where a save may stop it (R235): one that cannot start yet; one that waits for its tiles; an
MLOOP between steps, or one that waits for the operands of its first; an MEPI after a multiple of 16 rows. -/
def State.matrixStops (s : State) (b : Nat) (bd : Band) (m : MCmd) : Bool :=
  if m.started then
    (s.core bd.core).owner != some b || m.atStop || (match m.kind, s.matStep b bd m with
      | .mloop _ _ _ _ _ _ _ _ _, .error .wait => true
      | _, _ => false)
  else !s.mayStart b bd m

/-- SAVE_START (R298, R300): with every weft stopped, every near reply in its register and every engine at a point where a save
may stop it, the lane-path stores to die scratchpad are published and the save engine begins to write the image, or the pool
has no room. -/
def execSaveStart (band : Nat) (s : State) : Out :=
  let no : Out := .refused (.notPending "SAVE_START")
  match s.band? band with
  | none => no
  | some bd =>
    match bd.save with
    | none => no
    | some v =>
      if bd.state ≠ .resident ∨ !bd.settled ∨ !(bd.wefts.all (fun w => w.replies.isEmpty)) ∨ bd.wefts.all (fun w => w.retired)
          ∨ !(bd.mq.all (s.matrixStops band bd)) ∨ s.cmds.any (fun e => e.2.band == band && !e.2.kind.isItem && e.2.cut) then no else
      let halt := fun (w : Weft) => { w with stop := if w.retired then none else w.stop.or (some .full) }
      let bd' := { bd with wefts := bd.wefts.map halt }
      let rsv := s.reservedPad band bd
      if s.poolRoom bd.part (bd'.imageBytes + rsv.foldl (fun a e => a + e.2) 0) then
        let s := (List.range bd.wefts.length).foldl (fun (s : State) i => s.publish band i .die) s
        let s := s.modBand band (fun x => { x with wefts := x.wefts.map halt, state := .saving, image := bd'.imageBytes })
        let s := rsv.foldl (fun (s : State) e => s.modBand e.1 (fun x => { x with image := e.2 })) s
        .next ((s.dropGrants band bd.core).sendImage (.save band) (dieOf bd.core))
      else .next (s.noRoom band v.who)

/-- What a save keeps of a weft's v registers: the others will read zero (R302). -/
def Weft.keepGroups (w : Weft) (bd : Band) : Weft :=
  let gs := w.savedGroups bd
  { w with
    v := SMap.keep w.v (fun k => gs.contains (k / 64 / 8))
    uni := w.uni.filter (fun r => gs.contains (r / 8)) }

/-- SAVE_COMPLETE (R300), once the image is written: it holds what R300 lists. -/
def execSaveComplete (band : Nat) (s : State) : Out :=
  let no : Out := .refused (.notPending "SAVE_COMPLETE")
  match s.band? band with
  | none => no
  | some bd =>
    if bd.state ≠ .saving ∨ s.working (.save band) then no else
    let rs := bd.savedRanges
    let s := (s.cleanBand band true (inRanges rs)).modBand band (fun x =>
      { x with
        state := .saved, save := none
        pad := SMap.keep x.pad (inRanges rs), old := []
        absent := SMap.keep x.absent (fun l => inRanges rs (128 * l) || inRanges rs (128 * l + 64))
        wefts := x.wefts.map (fun w => if w.retired then w else w.keepGroups bd) })
    .next (((s.leaveCores band).requeue bd.launch).grantAll)

/-- Whether a flushed band still has an access in flight (R307). -/
def State.flushBusy (s : State) (b : Nat) (bd : Band) : Bool :=
  s.bandBusy b bd || bd.wefts.any (fun w => !w.replies.isEmpty)

/-- A band that starts anew leaves its gang's barriers (R307): a gang of one has no other, and its barriers start anew too. -/
def State.leaveBarriers (s : State) (b : Nat) (bd : Band) : State :=
  let left := fun (x : Barrier) => { x with arrived := x.arrived.filter (fun c => c / 4096 != b) }
  { s with gangs := SMap.modify s.gangs bd.gang (fun g =>
      { g with bar := if bd.gangSize = 1 then [] else g.bar.map (fun e => (e.1, left e.2)) }) }

/-- A flushed band, discarded: it will start again from its launch record (R307, R308). -/
def State.endFlush (s : State) (b : Nat) (bd : Band) : State :=
  let s := ((((s.leaveCores b).untag b).freeTickets b).cleanBand b false (fun _ => false)).leaveBarriers b bd
  let s := match SMap.find? s.launches bd.launch with
    | none => s
    | some l =>
      let r := l.doubles
      let fresh := mkBand r bd.launch bd.part bd.core bd.gang 0 bd.gangPos s.clock s.now []
      s.modBand b (fun x => { fresh with
        gangPos := x.gangPos, index := x.index, x := x.x, y := x.y, z := x.z, state := .saved })
  (s.requeue bd.launch).grantAll

/-- A queue whose head has waited and may pre-empt a band (R290). -/
def State.seeker (s : State) (bd : Band) : Option Nat :=
  (List.range Config.queues).find? (fun q =>
    (s.waitingHead bd.part q).any (fun h => s.mayPreempt (s.effHead h.2) bd))

/-- FLUSH_REQUEST (R307): `who` is 0 for the scheduler, which asks only for a head that has waited (R290), 1 for the host, 2 for
the keeper after group 19. A flush under way ends here when nothing of it is in flight. -/
def execFlushRequest (who band : Nat) (s : State) : Out :=
  let no : Out := .refused (.notPending "FLUSH_REQUEST")
  match s.band? band with
  | none => no
  | some bd =>
    if bd.state ≠ .resident then no else
    match bd.save with
    | some v =>
      if v.flush then (if v.flushWho ≠ who ∨ s.flushBusy band bd then no else .next (s.endFlush band bd)) else no
    | none =>
      match who with
      | 0 =>
        match s.seeker bd with
        | none => no
        | some q =>
          if bd.restartable ∧ ¬bd.stopped ∧ fld (s.kget (.psave bd.part)) 32 32 = 1 then .next (s.beginFlush band 0)
          else .next (s.askSave band bd (.scheduler bd.part q []))
      | 1 =>
        let s := { s.instant with hostStatus := SMap.erase s.hostStatus band }
        if bd.restartable then .next (s.beginFlush band 1)
        else .next { s with hostStatus := SMap.insert s.hostStatus band .notRestartable }
      | 2 =>
        if bd.restartable then .next (s.beginFlush band 2)
        else
          let s := s.logEvent {
            kind := 2, unit := 0x0E, sev := 2, part := bd.part, die := dieOf bd.core, inst := bd.core, ctx := bd.ctx }
          .next (s.failLaunch bd.launch)
      | _ => no

end Sys2Proof.Machine
end

