-- ==== Sys2Proof/Machine/XlCmd.lean ====
section
/-! DEFINITION. Changing a mapping (R318 to R325) and the row allocation table (R376 to R378). -/
namespace Sys2Proof.Machine

/-- Write a double of a table as the device does. -/
def State.putTable (s : State) (pa : Nat) (d : W64) : State := s.put .hbm pa (leBytes 8 d.toNat)

/-- The entry that a translation command names: its address, its state field, and what its table needs of it; or that a row of the
path refuses to be read (R379). -/
inductive Named where
  | entry (pa state : Nat)
  | tooLarge
  | pathFault
  | refused (pa : Nat)
deriving DecidableEq, Repr

/-- The segment entry on the path of a command (R318), or why the path ends there. -/
def State.pathSeg (s : State) (part : Nat) (a : W64) : Look SegEnt :=
  match s.segLook part a with
  | .entry pa e => if e.kind = 0 ∧ e.state ≤ 2 then .entry pa e else .fault 0 e.kind
  | x => x

/-- The region entry on the path of a command. -/
def State.pathReg (s : State) (part : Nat) (a : W64) : Look RegEnt :=
  match s.pathSeg part a with
  | .entry _ e => s.regLook part e.rtbase e.rlog2 a
  | .fault r o => .fault r o
  | .refused pa => .refused pa

/-- The stack and the channel group of the region on the path of a command. -/
def State.pathPlace (s : State) (part : Nat) (a : W64) : Option (Nat × Nat) :=
  match s.pathReg part a with
  | .entry _ r => some (r.stack, r.cgroup)
  | _ => none

/-- Find a command's entry (R318). -/
def State.named (s : State) (stage part : Nat) (a : W64) : Named :=
  let at_ := fun pa => if s.tableBad part pa then Named.refused pa else .entry pa (fld (s.table pa) 63 60)
  match stage with
  | 1 =>
    let p := s.kget (.pseg part)
    if 16 < fld p 4 0 ∨ 2 ^ fld p 4 0 ≤ segLabel a then .tooLarge else at_ (fld p 55 12 * 4096 + 16 * segLabel a)
  | 2 =>
    match s.pathSeg part a with
    | .fault _ _ => .pathFault
    | .refused pa => .refused pa
    | .entry _ e => if 2 ^ e.rlog2 ≤ regLabel a then .tooLarge else at_ (e.rtbase + 16 * regLabel a)
  | _ =>
    match s.pathReg part a with
    | .fault _ _ => .pathFault
    | .refused pa => .refused pa
    | .entry _ r => if 2 ^ r.blog2 ≤ blkLabel a then .tooLarge else at_ (r.stack * 2 ^ 36 + r.btbase + 8 * blkLabel a)

/-- Whether a new entry is well-formed and VALID (R318). -/
def State.entryOk (s : State) (stage : Nat) (d2 d3 : W64) : Bool :=
  match stage with
  | 1 => !(SegEnt.of s.accel d2 d3).bad && (SegEnt.of s.accel d2 d3).state == 1
  | 2 => !(RegEnt.of d2 d3).bad && (RegEnt.of d2 d3).state == 1
  | _ => !(BlkEnt.of d2).bad && (BlkEnt.of d2).state == 1

/-- The address of a label's entry in a region's block table. -/
def RegEnt.blockEntry (r : RegEnt) (label : Nat) : Nat := r.stack * 2 ^ 36 + r.btbase + 8 * label

/-- The labels whose block entries are VALID in a region's block table. -/
def State.validLabels (s : State) (r : RegEnt) : List Nat :=
  (List.range (2 ^ r.blog2)).filter (fun l =>
    let e := BlkEnt.of (s.table (r.blockEntry l))
    e.state == 1 && !e.bad)

/-- Whether every label that is VALID in an old block table is VALID in a new one (R321). -/
def State.covers (s : State) (old new : RegEnt) : Bool := (s.validLabels old).all (fun l => (s.validLabels new).contains l)

/-- The first entry that the check of a region's move cannot read (R321, R379). -/
def State.coversBad (s : State) (part : Nat) (old new : RegEnt) : Option Nat :=
  ([old, new].flatMap (fun r => (List.range (2 ^ r.blog2)).map r.blockEntry)).find? (s.tableBad part)

/-- Whether a block entry names a row of the partition (R318). -/
def State.rowOwned (s : State) (part : Nat) (a d2 : W64) : Bool :=
  (s.pathPlace part a).any (fun x => s.tagAt (BlkEnt.phys x.1 x.2 (BlkEnt.of d2) 0) == part)

/-- The result of a translation command (R318): result field, seq + 1, busy as given. -/
def State.xlResult (s : State) (die result : Nat) : State :=
  let v := s.kget (.xlstat die)
  let v := setFld (setFld v 63 63 0) 62 60 result
  s.kset (.xlstat die) (setFld v 31 0 (fld v 31 0 + 1))

/-- A command meets a row that refuses a table's activation, or poison there (R362, R379): it is counted, leaves an event record, and
the command changes nothing. Its result is 3 (log 68). -/
def State.xlRefused (s : State) (die part pa : Nat) (a : W64) : State := (s.refusedRow part 255 pa a).2.xlResult die 3

/-- Set the state field of an entry in its table. -/
def State.entryState (s : State) (pa state : Nat) : State := s.putTable pa (setFld (s.table pa) 63 60 state)

/-- Install an entry. -/
def State.install (s : State) (stage pa : Nat) (d2 d3 : W64) : State :=
  let s := s.putTable pa d2
  if stage = 3 then s else s.putTable (pa + 8) d3

/-- Where a released request goes on. -/
def FarReq.resume (r : FarReq) : FarStage :=
  match r.stage, r.region, r.blockAt with
  | .hold 1, _, _ => .segment
  | .hold 2, some (a, b), _ => .region a b
  | .hold 3, _, some (a, b, c, d) => .block a b c d
  | x, _, _ => x

/-- Release the requests held at an entry (R319, R325). -/
def State.release (s : State) (pa : Nat) : State :=
  { s with reqs := s.reqs.map (fun e => if e.2.isHeld && s.entryOf e.2 == some pa then (e.1, { e.2 with stage := e.2.resume }) else e) }

/-- Whether a request has been performed at its home, or has ended in error. A store is performed when its bytes land (R198). -/
def FarReq.over (r : FarReq) : Bool :=
  match r.stage with
  | .performed _ | .failed _ | .probed _ | .respond _ => true
  | _ => false

/-- The requests that passed an entry and have not been performed (R320). -/
def State.pastEntry (s : State) (pa : Nat) : List Nat :=
  (s.reqs.filter (fun e => e.2.passed.contains pa && !e.2.over)).map (fun e => e.1)

/-- Start a translation command (R318, R319, R321). -/
def State.xlStart (s : State) (die op stage part : Nat) : State :=
  let st := s.kget (.xlstat die)
  if fld st 63 63 = 1 then s.kset (.xlstat die) (setFld st 59 59 1) else
  let a := s.kget (.xlcmd die 0)
  let d2 := s.kget (.xlcmd die 2)
  let d3 := s.kget (.xlcmd die 3)
  if op = 0 ∨ 5 < op ∨ stage = 0 ∨ 3 < stage ∨ 19 < part then s.xlResult die 2 else
  match s.named stage part a with
  | .tooLarge => s.xlResult die 2
  | .pathFault => s.xlResult die 3
  | .refused pa => s.xlRefused die part pa a
  | .entry pa state =>
    if state = 2 ∨ (state = 3 ∧ stage = 1) then s.xlResult die 1 else
    let newOk := s.entryOk stage d2 d3 && (stage != 3 || s.rowOwned part a d2)
    let old := RegEnt.of (s.table pa) (s.table (pa + 8))
    let regionOk := stage != 2 || s.covers old (RegEnt.of d2 d3)
    let place := if stage = 3 then (s.pathPlace part a).getD (0, 0) else (0, 0)
    let go := fun (mark : Nat) =>
      let cmd : XlCmd := ⟨op, stage, part, a, d2, d3, pa, place.1, place.2, .draining, false⟩
      let s' := (s.entryState pa mark).kset (.xlstat die) (setFld st 63 63 1)
      { s'.nextStamp with
        xl := SMap.insert s'.xl die cmd, buoys := SMap.insert s'.buoys s'.stamp ⟨.command die, s.pastEntry pa⟩ }
    match op, state with
    | 1, 0 => if newOk then (s.install stage pa d2 d3).xlResult die 0 else s.xlResult die 2
    | 2, 1 =>
      match if stage = 2 ∧ newOk then s.coversBad part old (RegEnt.of d2 d3) else none with
      | some x => s.xlRefused die part x a
      | none => if newOk && regionOk then go 2 else s.xlResult die 2
    | 3, 1 => if stage = 1 then go 3 else s.xlResult die 2
    | 4, 1 => go 2
    | 5, 4 => if stage = 1 then (s.entryState pa 0).xlResult die 0 else s.xlResult die 2
    | _, _ => s.xlResult die 2

/-- A command that the keeper writes into a die's register (R318); a package has four dies (R1). -/
def State.xlEvent (s : State) (name : String) (die op stage part : Nat) : Out :=
  if die < 4 ∧ s.keeperUp then .next (s.xlStart die op stage part) else .refused (.notPending name)

/-- XLCMD_SET (R319). -/
def execXlcmdSet (die stage part : Nat) (s : State) : Out := s.xlEvent "XLCMD_SET" die 1 stage part
/-- XLCMD_MOVE (R319). -/
def execXlcmdMove (die stage part : Nat) (s : State) : Out := s.xlEvent "XLCMD_MOVE" die 2 stage part
/-- XLCMD_REVOKE (R319, R323). -/
def execXlcmdRevoke (die stage part : Nat) (s : State) : Out := s.xlEvent "XLCMD_REVOKE" die 3 stage part
/-- XLCMD_CLEAR (R319). -/
def execXlcmdClear (die stage part : Nat) (s : State) : Out := s.xlEvent "XLCMD_CLEAR" die 4 stage part
/-- XLCMD_RETIRE (R319, R323). -/
def execXlcmdRetire (die stage part : Nat) (s : State) : Out := s.xlEvent "XLCMD_RETIRE" die 5 stage part

/-- End a running command: held requests are released first, then the result is written (R325). -/
def State.xlEnd (s : State) (die pa result : Nat) : State :=
  let s := (s.release pa).xlResult die result
  { s with xl := SMap.erase s.xl die }

/-- A request that copies the block of a label for a die's move, in class 3 (R321). -/
def State.sendCopy (s : State) (die stack label : Nat) (c : XlCmd) (stage : FarStage) : State :=
  let r := FarReq.device (.copy die label) c.part 3 (344 + stack) 4096 stage
  let at_ := match stage with
    | .block a b c d => some (a, b, c, d)
    | _ => none
  { s.nextStamp with
    reqs := SMap.insert s.reqs s.stamp { r with
      addr := BitVec.ofNat 64 (label * 4096), blockAt := at_, stamp := s.stamp, at_ := s.stamp, stampD := s.deadline 0 3 } }

/-- A move's copy begins (R321): for a region one request for each block that is VALID or moves in the old block table, which passes
the old stack's block stage. -/
def State.startCopy (s : State) (die : Nat) (c : XlCmd) : State :=
  let s := { s with xl := SMap.insert s.xl die { c with phase := .copying } }
  if c.stage = 3 then
    s.sendCopy die c.stack (blkLabel c.addr) c (FarStage.onHbm (BlkEnt.phys c.stack c.cgroup (BlkEnt.of (s.table c.entry)) 0))
  else
    let r := RegEnt.of (s.table c.entry) (s.table (c.entry + 8))
    let labels := (List.range (2 ^ r.blog2)).filter (fun l =>
      let e := BlkEnt.of (s.table (r.blockEntry l))
      (e.state == 1 || e.state == 2) && !e.bad)
    labels.foldl (fun s l => s.sendCopy die r.stack l c (.block r.stack r.cgroup r.btbase r.blog2)) s

/-- BUOY_RETURN (R319, R320, R324): every request it must not overtake has been performed, or has gone back to its engine. -/
def execBuoyReturn (buoy : Nat) (s : State) : Out :=
  let no : Out := .refused (.notPending "BUOY_RETURN")
  match SMap.find? s.buoys buoy with
  | none => no
  | some x =>
    let open_ := x.before.any (fun id => (s.req? id).any (fun r => match x.why, r.stage with
      | .invalidate, .host _ _ _ => true
      | .invalidate, _ => false
      | .command die, _ => !r.over && (SMap.find? s.xl die).any (fun c => r.passed.contains c.entry)))
    if open_ then no else
    let s := { s with buoys := SMap.erase s.buoys buoy }
    match x.why with
    | .invalidate => .next { s with atsInvals := s.atsInvals - 1 }
    | .command die =>
      match SMap.find? s.xl die with
      | none => .next s
      | some c =>
        match c.op with
        | 2 =>
          if c.stage = 1 then .next ((s.install 1 c.entry c.d2 c.d3).xlEnd die c.entry 0)
          else .next (s.startCopy die c)
        | 3 => .next ((s.entryState c.entry 4).xlEnd die c.entry 0)
        | _ => .next ((s.entryState c.entry 0).xlEnd die c.entry 0)

/-- Copy a block of 4096 bytes in HBM (R321): later reads see the bytes in their new place. -/
def State.copyBlock (s : State) (from_ dst : Nat) : State :=
  s.land .hbm dst (s.homeRead .hbm from_ 4096) none true

/-- Where a move puts the block of a label (R321): by its new entry, or by the new table, where that is VALID. -/
def State.newPlace (s : State) (c : XlCmd) (label : Nat) : Option Nat :=
  if c.stage = 3 then some (BlkEnt.phys c.stack c.cgroup (BlkEnt.of c.d2) 0) else
  let r := RegEnt.of c.d2 c.d3
  let e := BlkEnt.of (s.table (r.blockEntry label))
  if e.state = 1 ∧ e.bad = false then some (BlkEnt.phys r.stack r.cgroup e 0) else none

/-- A copy request is performed (R321): the block is in its new place, where the new table names one; else the copy stops. -/
def State.copied (s : State) (die label from_ : Nat) : State :=
  match SMap.find? s.xl die with
  | none => s
  | some c =>
    match s.newPlace c label with
    | some a => s.copyBlock from_ a
    | none => { s with xl := SMap.insert s.xl die { c with lost := true } }

/-- The first row that refuses an activation of a die's copy: of the old block, the new table or the new block (R379). -/
def State.copyRefused (s : State) (die label from_ part : Nat) : Option Nat :=
  match SMap.find? s.xl die with
  | none => none
  | some c =>
    let table := if c.stage = 2 then [(RegEnt.of c.d2 c.d3).blockEntry label] else []
    ([from_] ++ table ++ ((s.newPlace c label).map (fun a => [a])).getD []).find? (s.refuses part)

/-- The requests of a die's copy. -/
def State.copies (s : State) (die : Nat) : SMap FarReq :=
  s.reqs.filter (fun e => match e.2.who with
    | .dev (.copy d _) => d == die
    | _ => false)

/-- MOVE_COPY_DONE (R319, R321): every block is copied. -/
def execMoveCopyDone (die : Nat) (s : State) : Out :=
  match SMap.find? s.xl die with
  | none => .refused (.notPending "MOVE_COPY_DONE")
  | some c =>
    if c.phase ≠ .copying ∨ c.lost = true ∨ s.copies die ≠ [] then .refused (.notPending "MOVE_COPY_DONE") else
    .next ((s.install c.stage c.entry c.d2 c.d3).xlEnd die c.entry 0)

/-- Whether a copy request has met a row that refused it (R379), which has left its count and its record. -/
def FarReq.rowRefused (r : FarReq) : Bool :=
  match r.stage with
  | .failed c => c.detail.toNat / 2 ^ 32 % 256 == 9
  | _ => false

/-- MOVE_COPY_ERROR (R319, R321, R364): the copy stops at a label that is not VALID in the new table, or at an uncorrected error,
which is counted and leaves an event record, or at a row that has refused it (R379; log 68). The old entry stands; blocks copied before stay in their new places. -/
def execMoveCopyError (die : Nat) (uncorrected : Bool) (s : State) : Out :=
  match SMap.find? s.xl die with
  | none => .refused (.notPending "MOVE_COPY_ERROR")
  | some c =>
    if c.phase ≠ .copying ∨ (if uncorrected then s.copies die = [] else c.lost = false) then
      .refused (.notPending "MOVE_COPY_ERROR")
    else
    let told := (s.copies die).any (fun e => e.2.rowRefused)
    let s := s.dropReqs ((s.copies die).map (fun e => e.1))
    let s := if uncorrected && !told then (s.uncorrected 0x0F die c.part 255 2 c.addr).2 else s
    .next ((s.entryState c.entry 1).xlEnd die c.entry (if uncorrected then 4 else 5))

/-- The key of a row in the allocation table: its HBM address over 8192 (R376). -/
def rowKey (stack chan bank row : Nat) : Nat := (stack * 2 ^ 36 + chan * 2 ^ 31 + bank * 2 ^ 25 + row * 2 ^ 13) / 8192

/-- The tag of a row (R376). -/
def State.rowTag (s : State) (stack chan bank row : Nat) : Nat := SMap.get s.tags 31 (rowKey stack chan bank row)

/-- Tag a range of rows. -/
def State.tagRows (s : State) (stack chan bank row cnt tag : Nat) : State :=
  { s with tags := (List.range (cnt + 1)).foldl (fun m k => SMap.set m 31 (rowKey stack chan bank (row + k)) tag) s.tags }

/-- Write a result of palloc (R378). -/
def State.pallocResult (s : State) (stack result tag at_ : Nat) : State :=
  s.kset (.pallocst stack) (BitVec.ofNat 64 (result * 2 ^ 60 + tag * 2 ^ 12 + at_))

/-- Whether a palloc command of a stack may start: the stack is there (R1), and no command of it runs (R378; log 17). -/
def State.pallocFree (s : State) (stack : Nat) : Bool :=
  decide (stack < Config.hbmStacks) && s.keeperUp && fld (s.kget (.pallocst stack)) 63 63 == 0

/-- Whether the operands of a palloc command are in range (R378). -/
def pallocRange (chan bank row cnt : Nat) : Bool :=
  decide (chan < 32) && decide (bank < 64) && decide (row < 4096) && decide (row + cnt < 4096)

/-- Zero HBM bytes of rows (R308): no owner reads what stood there. -/
def State.zeroRows (s : State) (stack chan bank row cnt : Nat) : State :=
  let lo := rowKey stack chan bank row * 8192
  let hi := (rowKey stack chan bank (row + cnt) + 1) * 8192
  { s with
    hbm := Mem.clear s.hbm lo hi
    poison := s.poison.filter (fun x => decide (x.word < lo) || decide (hi ≤ x.word))
    hist := s.hist.map (fun p => if p.place = .hbm then { p with cells := p.cells.filter (fun c => decide (c.1 < lo) || decide (hi ≤ c.1)) } else p) }

/-- The rows at a distance of 1 or 2 from a row (R376, R377): by number, which follows physical adjacency; and where a spare row has
taken a number, by the place of the spare as well. -/
def State.rowsNear (s : State) (stack chan bank row : Nat) : List Nat :=
  [row - 2, row - 1, row + 1, row + 2].filter (fun x => decide (x ≠ row) && decide (x < 4096))
    ++ (s.spares.filter (fun e => e.1 == rowKey stack chan bank row)).flatMap (fun e => e.2)
    ++ (s.spares.filter (fun e => e.1 / 4096 == rowKey stack chan bank row / 4096 && e.2.contains row)).map (fun e => e.1 % 4096)

/-- PALLOC_ALLOCATE (R377, R378, R308, R393): all rows or none, and no owner reads what stood there before. At the first row that
fails, R377 comes before its not being free, as in the table under R379 (log 33). -/
def execPallocAllocate (stack part chan bank row cnt : Nat) (s : State) : Out :=
  if !s.pallocFree stack then .refused (.notPending "PALLOC_ALLOCATE") else
  if !pallocRange chan bank row cnt || decide (19 < part) then .next (s.pallocResult stack 2 0 0) else
  let rows := (List.range (cnt + 1)).map (fun k => row + k)
  let clash := fun r => (s.rowsNear stack chan bank r).any (fun x =>
    let t := s.rowTag stack chan bank x
    !rows.contains x && t != part && t != 30 && t != 31)
  match rows.find? (fun r => clash r || s.rowTag stack chan bank r != 31) with
  | some r => .next (s.pallocResult stack (if clash r then 1 else 3) 0 r)
  | none => .next (((s.zeroRows stack chan bank row cnt).tagRows stack chan bank row cnt part).pallocResult stack 0 0 0)

/-- PALLOC_GUARD (R378): rows that are free or guard rows. -/
def execPallocGuard (stack chan bank row cnt : Nat) (s : State) : Out :=
  if !s.pallocFree stack then .refused (.notPending "PALLOC_GUARD") else
  if !pallocRange chan bank row cnt then .next (s.pallocResult stack 2 0 0) else
  match ((List.range (cnt + 1)).map (fun k => row + k)).find? (fun r =>
      s.rowTag stack chan bank r != 31 && s.rowTag stack chan bank r != 30) with
  | some r => .next (s.pallocResult stack 3 0 r)
  | none => .next ((s.tagRows stack chan bank row cnt 30).pallocResult stack 0 0 0)

/-- Rows have been zeroed for a palloc free: they are tagged 31, and the command is done (R378). -/
def State.rowsZeroed (s : State) (stack chan bank row cnt : Nat) : State :=
  ((s.zeroRows stack chan bank row cnt).tagRows stack chan bank row cnt 31).pallocResult stack 0 0 0

/-- PALLOC_FREE (R378, R308): busy until the in-array FILL of class 3 has been performed. -/
def execPallocFree (stack chan bank row cnt : Nat) (s : State) : Out :=
  if !s.pallocFree stack then .refused (.notPending "PALLOC_FREE") else
  if !pallocRange chan bank row cnt then .next (s.pallocResult stack 2 0 0) else
  .next ((s.sendDev (.zero stack chan bank row cnt) 0 3 (344 + stack) (.channel stack chan bank row 0)).kset (.pallocst stack) (maskBits 63 63))

/-- PALLOC_QUERY (R378). -/
def execPallocQuery (stack chan bank row : Nat) (s : State) : Out :=
  if !s.pallocFree stack then .refused (.notPending "PALLOC_QUERY") else
  if !pallocRange chan bank row 0 then .next (s.pallocResult stack 2 0 0) else
  .next (s.pallocResult stack 0 (s.rowTag stack chan bank row) 0)

/-- A write of the palloc command (R378): the operation that its fields name. -/
def State.pallocWrite (s : State) (stack : Nat) (d : W64) : Out :=
  let chan := fld d 54 50
  let bank := fld d 49 44
  let row := fld d 43 32
  let cnt := fld d 31 20
  let part := fld d 59 55
  if !s.pallocFree stack then .refused (.notPending "KEEPER_REGISTER_WRITE") else
  match fld d 63 60 with
  | 1 => execPallocAllocate stack part chan bank row cnt s
  | 2 => if part = 0 then execPallocGuard stack chan bank row cnt s else .next (s.pallocResult stack 2 0 0)
  | 3 => if part = 0 then execPallocFree stack chan bank row cnt s else .next (s.pallocResult stack 2 0 0)
  | 4 => if part = 0 ∧ row + cnt < 4096 then execPallocQuery stack chan bank row s else .next (s.pallocResult stack 2 0 0)
  | _ => .next (s.pallocResult stack 2 0 0)

/-- A codeword of HBM is poisoned (R362). -/
def State.poisonWord (s : State) (a : Nat) : State :=
  { s with poison := ⟨a, none⟩ :: s.poison.filter (fun x => x.word != a) }

/-- A scrub access of HBM has read a codeword with a number of bad symbols (R362, R364, R365): corrected and written back, or marked
poisoned. -/
def State.scrubbed (s : State) (addr bad : Nat) : State :=
  let stack := addr / 2 ^ 36
  match bad with
  | 0 => s
  | 1 => s.corrected 9 stack (BitVec.ofNat 64 addr)
  | _ =>
    let a := addr / 64 * 64
    ((s.poisonWord a).countErr 9 stack 1).logEvent {
      kind := 3, unit := 9, sev := 2, die := stack / 3, inst := stack, chan := a / 2 ^ 31 % 32
      bank := a / 2 ^ 25 % 64, row := a / 2 ^ 13 % 4096, addr := BitVec.ofNat 64 a }

/-- A request of the device itself is performed (R371). -/
def State.devDone (s : State) (job : DevJob) (phys : Nat) : State :=
  match job with
  | .scrub a bad => s.scrubbed a bad
  | .copy die label => s.copied die label phys
  | .zero stack chan bank row cnt => s.rowsZeroed stack chan bank row cnt
  | .save _ | .restore _ | .tiles _ | .beacon | .table _ => s

/-- HBM_SCHEDULE_DECISION (R373, R375, R379): a request that the base die refuses, or that meets poison, is not performed, and misses
no deadline. -/
def execHbmScheduleDecision (stack chan : Nat) (s : State) : Out :=
  let no : Out := .refused (.notPending "HBM_SCHEDULE_DECISION")
  if (SMap.get s.hbmIf HbmIf.idle stack).running || s.dead.contains (9, stack) then no else
  match s.channelPick stack chan with
  | none => no
  | some (id, r) =>
    let phys := r.hbmAddr
    let key := stack * 32 + chan
    let n := SMap.get s.sinceC3 15 key
    let s := { s with sinceC3 := SMap.set s.sinceC3 15 key (if r.cls = 3 then 0 else min (n + 1) 15) }
    let late := stampBefore r.stampD (s.now / 8 % 2 ^ 16)
    let done := if late then s.missed r.by_ r.cls else s
    match r.who with
    | .dev (.copy die label) =>
      (match s.copyRefused die label phys r.part with
      | some a => .next (s.refuseReq id r a)
      | none =>
        if s.poisoned phys r.len then .next (s.setReq id { r with stage := .failed (s.hardCause 0x0F) })
        else .next ((done.dropReq id).devDone (.copy die label) phys))
    | .dev job => .next ((done.dropReq id).devDone job phys)
    | who =>
      let hurt := r.op != .store && s.poisoned phys r.len
      if s.refuses r.part phys || hurt then .next (s.refuseReq id r phys) else
      let x := done.performReq r phys
      match who with
      | .peer _ _ _ => .next (x.2.respond id r (.data x.1))
      | _ => .next (x.2.setReq id { r with stage := if r.op = .store then .stored phys else .performed x.1 })

end Sys2Proof.Machine
end

