-- ==== Sys2Proof/Machine/Keeper.lean ====
section
/-! DEFINITION. The keeper: boot (R388 to R390), attestation (R391, R392), package reset (R393), power and thermal limits (R394,
R395), and writes of its registers (R11). -/
namespace Sys2Proof.Machine

/-- The fused security version of an image type (R388, R390). -/
def State.svnOf (s : State) (kind : Nat) : Nat := SMap.get s.boot.svns (Config.fusedSvn kind) kind

/-- The checks that a firmware image fails (R389, R390), as bootst.fail records them; every check is made. The
digest, r and s stand in their standards' byte order (log 7). -/
def State.imageFails (s : State) (kind : Nat) (header payload : List Byte) : Nat :=
  let at_ := fun o n => leNat ((header.drop o).take n)
  let bad := fun (b : Bool) (k : Nat) => if b then 2 ^ k else 0
  bad (header.length != 4096 || at_ 0 4 != 0x42584657 || at_ 4 4 != kind || at_ 12 4 != payload.length) 0
    + bad (sha384 payload != (header.drop 0x10).take 48) 1
    + bad (!ecdsaVerifies Config.rootEcdsa (header.take 64) (beNat ((header.drop 0x40).take 48)) (beNat ((header.drop 0x70).take 48))) 2
    + bad (!lmsVerifies 15 Config.rootLms (header.take 64) ((header.drop 0xA0).take 2668)) 3
    + bad (decide (at_ 8 4 < s.svnOf kind)) 4

/-- The image that a header and payload hold. -/
def Image.of (header payload : List Byte) : Image := ⟨leNat ((header.drop 8).take 4), BitVec.ofNat 384 (beNat (sha384 payload))⟩

/-- Record a failed image (R390). -/
def State.bootFailed (s : State) (kind fail : Nat) : State :=
  s.kset .bootst (setFld (setFld (s.kget .bootst) 39 32 kind) 7 0 fail)

/-- The type of the next image that boot loads (R388): keeper, lantern, base die, CXL controller; 5 when all are accepted. -/
def State.nextImage (s : State) : Nat := s.boot.images.length + 1

/-- Stage 4 (R388): the interfaces train, the ports come up, every row is free, and done is set. -/
def State.bootDone (s : State) : State :=
  let up := fun (s : State) p => s.kset (.plink p) (setFld (s.kget (.plink p)) 15 8 15)
  { ((List.range Config.ports).foldl up s).kset .bootst (maskBits 63 63) with tags := [] }

/-- A private ECDSA key, from a number of the device's. -/
def ecdsaKey (n : Nat) : Nat := 1 + n % (n384 - 1)

/-- A private LMS key of a height, from its private value. -/
def lmsKey (height n : Nat) : LmsKey := ⟨height, beBytes 16 (Config.lmsId n).toNat, fun l i => beBytes 32 (Config.lmsStart n l i).toNat⟩

/-- Both signatures of a message: r and s of ECDSA under a private key, and those of an LMS key's leaf, each with a fresh draw. -/
def signEcdsa (key draw : Nat) (msg : List Byte) : Nat × Nat := ecdsaSign (ecdsaKey key) (ecdsaKey (Config.draw draw)) msg
/-- The LMS signature. -/
def signLms (key : LmsKey) (leaf draw : Nat) (msg : List Byte) : List Byte := key.sign leaf (beBytes 32 (Config.draw draw)) msg

/-- The bytes of an ECDSA public key. -/
def pointBytes (p : Nat × Nat) : List Byte := beBytes 48 p.1 ++ beBytes 48 p.2

/-- The public keys of a boot's attestation pairs, as the identity keys sign them (R391): ECDSA's and then LMS's (log 7). -/
def Attest.publics (draw : Nat) : List Byte :=
  pointBytes (ecdsaPublic (ecdsaKey (Config.draw draw))) ++ (lmsKey 15 (Config.draw (draw + 1))).root

/-- The keeper firmware starts (R391): it draws an attestation pair of each scheme and signs their public keys with the identity keys; the
LMS identity key takes its next leaf at each boot, of 2^20. -/
def State.keeperStarts (s : State) : State :=
  let n := s.freeCtr
  let msg := Attest.publics n
  let a : Attest := {
    draw := n
    ecdsa := signEcdsa (Config.derive Config.deviceSecret false) (n + 2) msg
    lms := if s.boot.boots ≤ 2 ^ 20
      then some (signLms (lmsKey 20 (Config.derive Config.deviceSecret true)) (s.boot.boots - 1) (n + 3) msg) else none }
  { s with freeCtr := n + 4, boot := { s.boot with attest := some a } }

/-- Boot goes on with the images that it finds (R388, R390): it halts at one that is too old and waits where there is none. -/
def State.bootOn : Nat → State → State
  | 0, s => s
  | n + 1, s =>
    let k := s.nextImage
    if 4 < k then s.bootDone else
    match SMap.find? s.boot.stored k with
    | none => s
    | some x =>
      if x.svn < s.svnOf k then s.bootFailed k 16
      else
        let s := if k = 1 then s.keeperStarts else s
        State.bootOn n { s with boot := { s.boot with images := SMap.insert s.boot.images k x } }

/-- FIRMWARE_IMAGE_LOAD (R388 to R390): before done the image that boot waits for, later one for the next reset. -/
def execFirmwareImageLoad (kind : Nat) (header payload : List Byte) (s : State) : Out :=
  let done := fld (s.kget .bootst) 63 63 == 1
  if kind = 0 ∨ 4 < kind ∨ s.keeperUp = false ∨ (done = false ∧ kind ≠ s.nextImage) then .refused (.notPending "FIRMWARE_IMAGE_LOAD") else
  let f := s.imageFails kind header payload
  let s := s.instant
  if f ≠ 0 then .next (s.bootFailed kind f) else
  let s := s.bootFailed 0 0
  let s := { s with boot := { s.boot with stored := SMap.insert s.boot.stored kind (Image.of header payload) } }
  .next (if done then s else State.bootOn 5 s)

/-- SVN_RAISE (R390). -/
def execSvnRaise (kind svn : Nat) (s : State) : Out :=
  if kind = 0 ∨ 4 < kind ∨ s.keeperUp = false ∨ fld (s.kget .bootst) 63 63 = 0 ∨ svn ≤ s.svnOf kind then .refused (.notPending "SVN_RAISE")
  else .next { s.instant with boot := { s.boot with svns := SMap.insert s.boot.svns kind svn } }

/-- The bytes that the attestation keys sign; their order is the model's (log 7). -/
def Report.body (r : Report) : List Byte :=
  r.nonce ++ leBytes 8 r.serial.toNat
    ++ r.loaded.flatMap (fun e => leBytes 4 e.1 ++ leBytes 4 e.2.svn ++ beBytes 48 e.2.digest.toNat)
    ++ r.fused.flatMap (leBytes 4)
    ++ r.parts.flatMap (fun p => leBytes 1 p.1 ++ leBytes 1 p.2.1.length ++ p.2.1.flatMap (leBytes 1) ++ leBytes 2 p.2.2)
    ++ leBytes 4 r.boots

/-- ATTESTATION_REQUEST (R392): the report, which both attestation keys of the boot sign, the LMS key with its next leaf; or the refusal
"exhausted" after 32,768 reports of a boot or 2^20 boots. -/
def execAttestationRequest (nonce : List Byte) (s : State) : Out :=
  let no : Out := .refused (.notPending "ATTESTATION_REQUEST")
  match s.boot.attest with
  | none => no
  | some a =>
  if nonce.length ≠ 32 ∨ s.keeperUp = false then no else
  if 32768 ≤ s.boot.reports ∨ 2 ^ 20 < s.boot.boots then .next { s.instant with boot := { s.boot with answer := some none } } else
  let r : Report := {
    nonce := nonce, serial := Config.deviceSerial, loaded := s.boot.images, fused := [1, 2, 3, 4].map s.svnOf
    parts := s.parts.map (fun p => (p.1, p.2.granules, fld (s.kget (.psched p.1)) 40 28)), boots := s.boot.boots
    ecdsa := (0, 0), lms := [] }
  let r := { r with
    ecdsa := signEcdsa (Config.draw a.draw) s.freeCtr r.body
    lms := signLms (lmsKey 15 (Config.draw (a.draw + 1))) s.boot.reports (s.freeCtr + 1) r.body }
  .next { s.tick.tick.instant with boot := { s.boot with reports := s.boot.reports + 1, answer := some (some r) } }

/-- PACKAGE_RESET (R393): the state after reset, in which the fuses and the stored images remain, and boot begins. The host's
memory is not the package's. -/
def execPackageReset (s : State) : Out :=
  let boot : Boot := ⟨[], s.boot.stored, s.boot.svns, none, 0, s.boot.boots + 1, none⟩
  .next (State.bootOn 5 { State.reset with
    turns := s.turns, freeCtr := s.freeCtr, host := s.host, boot := boot, spares := s.spares, standbyUp := s.standbyUp })

/-- A value clamped to a range. -/
def clampTo (lo hi n : Nat) : Nat := max lo (min hi n)

/-- The limits of pwrlim as the controller uses them (R394). -/
def State.plimit (s : State) : Nat := clampTo 600 2400 (fld (s.kget .pwrlim) 63 48)
/-- The core-rail limit (R394). -/
def State.ilimit (s : State) : Nat := clampTo 1000 5000 (fld (s.kget .pwrlim) 47 32)
/-- The arithmetic clock in MHz (R394). -/
def State.fclk (s : State) : Nat := fld (s.kget .pwrstat) 31 16

/-- Set the arithmetic clock. -/
def State.setFclk (s : State) (n : Nat) : State := s.kset .pwrstat (setFld (s.kget .pwrstat) 31 16 n)

/-- A die's hottest junction and thresholds (R395). -/
def State.tj (s : State) (die : Nat) : Nat := fld (s.kget (.ptherm die)) 63 56
/-- The warning threshold. -/
def State.tWarn (s : State) (die : Nat) : Nat := fld (s.kget (.ptherm die)) 55 48
/-- The throttle threshold, at most 110. -/
def State.tThr (s : State) (die : Nat) : Nat := min (fld (s.kget (.ptherm die)) 47 40) 110
/-- The shutdown threshold. -/
def State.tCrit (s : State) (die : Nat) : Nat := fld (s.kget (.ptherm die)) 39 32

/-- Set a die's junction temperature. At or above thr the die throttles the package, until it is 2 °C below thr (R395). -/
def State.setTj (s : State) (die t : Nat) : State :=
  let s := s.kset (.ptherm die) (setFld (s.kget (.ptherm die)) 63 56 t)
  let others := s.hot.filter (fun d => d != die)
  { s with hot := if s.tThr die ≤ t ∨ (s.hot.contains die ∧ s.tThr die < t + 2) then die :: others else others }

/-- A power or thermal event (R395, R383). -/
def State.heatEvent (s : State) (die sev : Nat) : State :=
  s.logEvent { kind := 11, unit := 0x11, sev := sev, die := die, inst := die }

/-- POWER_CONTROL_TICK (R394, R395): each microsecond, with the averages and the four dies' temperatures as they are then. A
temperature does not rise past a threshold here: that is an event of its own. A record is written as the package first
goes over a limit (log 34). -/
def execPowerControlTick (pavg iavg : Nat) (tj : List Nat) (s : State) : Out :=
  let crosses := fun d =>
    let t := tj.getD d 0
    [s.tWarn d, s.tThr d, s.tCrit d].any (fun x => decide (s.tj d < x) && decide (x ≤ t))
  if s.now < s.powerAt + 1000 ∨ s.powerOff ∨ tj.length ≠ 4 ∨ (List.range 4).any crosses then
    .refused (.notPending "POWER_CONTROL_TICK")
  else
    let s := (List.range 4).foldl (fun (s : State) d => s.setTj d (tj.getD d 0)) s.instant
    let s := { s with powerAt := s.powerAt + 1000 }
    let s := s.kset .pwrstat (setFld (setFld (s.kget .pwrstat) 63 48 pavg) 47 32 iavg)
    let tooMuch := decide (s.plimit < pavg) || decide (s.ilimit < iavg) || !s.hot.isEmpty
    let cool := decide (100 * pavg < 95 * s.plimit) && decide (100 * iavg < 95 * s.ilimit) && s.hot.isEmpty
    let since := s.coolSince.getD s.now
    let s' := { s with overLimit := tooMuch, coolSince := if cool then some since else none }
    let s' := if tooMuch && !s.overLimit && s.hot.isEmpty then s'.heatEvent 0 1 else s'
    if tooMuch then .next (s'.setFclk (max (min 700 s.fclk) (s.fclk - 100)))
    else if cool && decide (since + 100000 ≤ s.now) then .next (s'.setFclk (min 1400 (s.fclk + 100)))
    else .next s'

/-- CURRENT_STEP (R394). -/
def execCurrentStep (amps : Nat) (s : State) : Out :=
  if amps ≤ 5000 ∨ s.powerOff then .refused (.notPending "CURRENT_STEP")
  else .next ((s.instant.setFclk (s.fclk / 2)).heatEvent 0 1)

/-- A die's temperature rises (R395, R383): a record for each of warn and thr that it reaches. -/
def State.heat (s : State) (die t : Nat) : State :=
  let warn := decide (s.tj die < s.tWarn die) && decide (s.tWarn die ≤ t)
  let thr := decide (s.tThr die ≤ t) && !s.hot.contains die
  let s := s.instant.setTj die t
  let s := if warn then s.heatEvent die 1 else s
  if thr then s.heatEvent die 1 else s

/-- THERMAL_WARN (R395). -/
def execThermalWarn (die tj : Nat) (s : State) : Out :=
  if 4 ≤ die ∨ s.powerOff ∨ 2 ^ 8 ≤ tj ∨ s.tWarn die ≤ s.tj die ∨ tj < s.tWarn die then .refused (.notPending "THERMAL_WARN")
  else .next (s.heat die tj)

/-- THERMAL_THROTTLE (R395): the power controller treats the package as over its limit until tj is 2 °C below thr. -/
def execThermalThrottle (die tj : Nat) (s : State) : Out :=
  if 4 ≤ die ∨ s.powerOff ∨ 2 ^ 8 ≤ tj ∨ tj < s.tThr die ∨ s.hot.contains die then .refused (.notPending "THERMAL_THROTTLE")
  else .next (s.heat die tj)

/-- THERMAL_SHUTDOWN (R395): the core rails lose power, and every context is lost. -/
def execThermalShutdown (die tj : Nat) (s : State) : Out :=
  if 4 ≤ die ∨ s.powerOff ∨ 2 ^ 8 ≤ tj ∨ tj < s.tCrit die then .refused (.notPending "THERMAL_SHUTDOWN") else
  let s := (s.instant.setTj die tj).heatEvent die 3
  let s := (s.ctxs.map (fun e => e.1)).foldl State.dropContext s
  .next { s with powerOff := true }

/-- A write of xlcmd (R318): discarded while the die's command runs; double 1 starts a command. -/
def State.xlWrite (s : State) (die dbl : Nat) (v : W64) : State :=
  let st := s.kget (.xlstat die)
  if fld st 63 63 = 1 then (if dbl = 1 then s.kset (.xlstat die) (setFld st 59 59 1) else s)
  else if dbl = 1 then s.xlStart die (fld v 63 60) (fld v 59 58) (fld v 57 53)
  else s.kset (.xlcmd die dbl) v

/-- What a read of a keeper register gives (R11). -/
def State.keeperRead (s : State) (r : KReg) : W64 := r.read (s.kget r)

/-- Whether a write of psched assigns counters that exist and that no other partition holds (R283): the keeper makes no
other. -/
def State.countersFree (s : State) (part : Nat) (v : W64) : Bool :=
  let lo := fld v 27 16
  let n := fld v 40 28
  decide (lo + n ≤ Config.counters) && (List.range Config.granules).all (fun p =>
    let w := s.kget (.psched p)
    p == part || n == 0 || fld w 40 28 == 0 || decide (lo + n ≤ fld w 27 16) || decide (fld w 27 16 + fld w 40 28 ≤ lo))

/-- KEEPER_REGISTER_WRITE (R11), of a register that the package has: fields by their access codes; a write of xlcmd or palloc starts its command (R318, R378), one of
psched zeroes the completion counters that it assigns (R308), one of pwrlim is clamped (R394), one of pbeacon ends the loss of the beacon (R339). -/
def execKeeperRegisterWrite (r : KReg) (v : W64) (s : State) : Out :=
  let no : Out := .refused (.notPending "KEEPER_REGISTER_WRITE")
  let s := s.instant
  let plain := s.kset r (r.written (s.kget r) v)
  if r.present = false ∨ s.keeperUp = false then no else
  match r with
  | .xlcmd die dbl => .next (s.xlWrite die dbl v)
  | .palloc stack => s.pallocWrite stack v
  | .psched part =>
    let old := s.kget (.psched part)
    let new := plain.kget (.psched part)
    if !s.countersFree part new then no else
    let had := fun c => decide (fld old 27 16 ≤ c) && decide (c < fld old 27 16 + fld old 40 28)
    let got := fun c => decide (fld new 27 16 ≤ c) && decide (c < fld new 27 16 + fld new 40 28)
    .next { plain with lcc := SMap.keep plain.lcc (fun c => had c || !got c) }
  | .pwrlim =>
    let new := plain.kget .pwrlim
    .next (plain.kset .pwrlim (setFld (setFld new 63 48 (clampTo 600 2400 (fld new 63 48))) 47 32 (clampTo 1000 5000 (fld new 47 32))))
  | .pbeacon => .next { plain with beaconLost := false, promoted := false, heartbeatAt := s.now }
  | _ => .next plain

end Sys2Proof.Machine
end

