-- ==== Sys2Proof/Machine/Chance.lean ====
section
/-! DEFINITION. What the machine meets by chance (log 58): entries and code that a cache lacks (R316, R371), and the faults that the
checks of R361 find (R360 to R363). -/
namespace Sys2Proof.Machine

/-- A stage's cache lacks the entry that a request needs: the stage reads its table, in class 1 (R316, R371). -/
def State.tableMiss (s : State) (id : Nat) : State :=
  match (s.req? id).bind (fun r => if r.isHeld then none else (s.entryOf r).map (fun pa => (r, pa))) with
  | none => s
  | some (r, pa) =>
    let die := match r.stage with
      | .block st _ _ _ => st / 3
      | _ => r.home
    if Config.hbmStacks * 2 ^ 36 ≤ pa || s.working (.table id) then s
    else s.sendDev (.table id) r.part 1 (340 + die) (FarStage.onHbm pa)

/-- A core's code cache lacks the word that a weft's bundle issues next (R371). -/
def State.codeMiss (s : State) (b i : Nat) : State :=
  match s.band? b, s.weft? b i with
  | some bd, some w =>
    let a := s.codeAddr bd.ctx w.pc
    match s.walk bd.part .fetch a with
    | .hbm _ _ _ =>
      if w.bundle = 0 ∨ w.reform ∨ s.codeMissing bd.core a then s
      else s.sendReq (FarReq.make (.fetch b i) .load bd a 8 .segment)
    | _ => s
  | _, _ => s

/-- Two wrong bits in a lane's register (R361, R362): a word that reads it raises group 19 in that lane. -/
def State.registerFlaw (s : State) (b i key lane : Nat) : State :=
  match s.band? b with
  | none => s
  | some bd =>
    let x := s.uncorrected 1 bd.core bd.part bd.ctx 2 0
    x.2.modWeft b i (fun w => { w with failed := SMap.insert w.failed (if key < 256 then key * 64 + lane else key * 64) x.1 })

/-- The unit, its instance, the partition and the context of a word of near storage (R383): none where no such storage is. -/
def State.storeUnit (s : State) (p : Place) (a : Nat) : Option (Nat × Nat × Nat × Nat) :=
  match p with
  | .band id => (s.band? id).bind (fun b => if a < b.padBytes then some (2, b.core, b.part, b.ctx) else none)
  | .die c d => (s.ctx? c).bind (fun x => if x.dies.contains d && decide (a < x.sliceBytes) then some (3, d, x.part, c) else none)
  | .spill id i l => (s.band? id).bind (fun b =>
    if i < b.wefts.length ∧ (if l = 64 then a < 1024 else l < b.width ∧ a < b.spillBytes) then some (4, b.core, b.part, b.ctx) else none)
  | _ => none

/-- Two wrong bits in a word of near storage, or wrong symbols in a codeword of HBM that its next read finds (R361, R362): what
reads it meets group 19. -/
def State.wordFlaw (s : State) (p : Place) (a : Nat) : State :=
  if p = .hbm then (if a < Config.hbmStacks * 2 ^ 36 then s.poisonWord (a / 64 * 64) else s) else
  match s.storeUnit p a with
  | none => s
  | some (unit, inst, part, ctx) =>
    let x := s.uncorrected unit inst part ctx 2 (BitVec.ofNat 64 a)
    x.2.setFlaw p a x.1

/-- Whether a unit has a memory beside the storage of programs: lanterns and the keeper, the replay buffers of ports, CXL. -/
def hasMemory (unit : Nat) : Bool := [0x0B, 0x0C, 0x0D, 0x0E].contains unit

/-- The command of a band that its matrix engine works on. -/
def State.stepping (s : State) (b : Nat) : Option (Band × MCmd) :=
  (s.band? b).bind (fun bd => (bd.mq.find? (fun m => s.mayStep b bd m)).map (fun m => (bd, m)))

/-- A matrix command meets an error of its unit that cannot be corrected: it ends with group 19 (R217, R234, R362). -/
def State.matrixFlaw (s : State) (b : Nat) (bd : Band) (m : MCmd) (unit : Nat) : State :=
  let x := s.uncorrected unit bd.core bd.part bd.ctx 2 0
  x.2.matrixFail b bd m x.1 none

/-- A wrong residue in a step of MLOOP (R363): the step is computed again, which counts; where it is wrong again, group 19. -/
def State.arrayResidue (s : State) (b : Nat) (again : Bool) : State :=
  match s.stepping b with
  | none => s
  | some (bd, m) =>
    match m.kind with
    | .mloop _ _ _ _ _ _ _ _ _ =>
      let s := s.corrected 6 bd.core 0
      if again then s.matrixFlaw b bd m 6 else s
    | _ => s

/-- Whether an instruction computes in the vector ALUs or the special-function units, whose results a residue checks (R361). -/
def computes : Instr → Bool
  | .iadd _ | .iaddc _ | .isub _ | .isubb _ | .imul _ | .imulh _ | .imulhu _ | .imad _ | .imadw _ | .iadd64 _ | .ineg _ |
    .iabs _ | .imin _ | .imax _ | .iminu _ | .imaxu _ | .and _ | .or _ | .xor _ | .andn _ | .not _ | .shl _ | .shr _ | .sar _ |
    .rotl _ | .funnel _ | .bfx _ | .bfxu _ | .bfi _ | .popc _ | .clz _ | .brev _ | .icmp _ | .sel _ | .mov _ | .movi _ |
    .lea _ | .lstk _ | .dot4i8 _ | .dot4i8Sat _ | .dot8i4 _ | .dot8i4Sat _ | .pand _ | .por _ | .pxor _ | .pnot _ | .pmov _ |
    .iaddImm _ | .imulImm _ | .andImm _ | .orImm _ | .xorImm _ | .shlImm _ | .shrImm _ | .sarImm _ | .fadd _ | .fsub _ |
    .fmul _ | .fmin _ | .fmax _ | .fabs _ | .fneg _ | .fcmp _ | .fclass _ | .frnd _ | .fscale _ | .fexpn _ | .hadd2 _ |
    .hmul2 _ | .fcvt _ | .qcvt _ | .scalex _ | .i2f _ | .f2i _ | .ffmaRne _ | .ffmaRz _ | .ffmaRd _ | .ffmaRu _ |
    .hfma2F16Rne _ | .hfma2F16Rz _ | .hfma2F16Rd _ | .hfma2F16Ru _ | .hfma2Bf16Rne _ | .hfma2Bf16Rz _ | .hfma2Bf16Rd _ |
    .hfma2Bf16Ru _ | .fdot2F16Rne _ | .fdot2F16Rz _ | .fdot2F16Rd _ | .fdot2F16Ru _ | .fdot2Bf16Rne _ | .fdot2Bf16Rz _ |
    .fdot2Bf16Rd _ | .fdot2Bf16Ru _ | .faddImm _ | .fmulImm _ | .rcp _ | .rsq _ | .sqrt _ | .exp2 _ | .log2 _ | .sin _ |
    .cos _ | .tanh _ | .sigm _ | .erf _ | .qswap _ | .qbcst _ | .vote _ | .ballot _ | .lanemask _ | .routex _ _ _ |
    .pairIadd _ _ _ | .pairIsub _ _ _ | .pairImul _ _ _ | .pairImin _ _ _ | .pairImax _ _ _ | .pairIminu _ _ _ |
    .pairImaxu _ _ _ | .pairAnd _ _ _ | .pairOr _ _ _ | .pairXor _ _ _ | .pairAndn _ _ _ | .pairShl _ _ _ | .pairShr _ _ _ |
    .pairSar _ _ _ | .pairMov _ _ _ | .pairFadd _ _ _ | .pairFsub _ _ _ | .pairFmul _ _ _ | .pairFmin _ _ _ | .pairFmax _ _ _ |
    .pairHadd2F16 _ _ _ | .pairHmul2F16 _ _ _ | .pairHadd2Bf16 _ _ _ | .pairHmul2Bf16 _ _ _ | .pairFabs _ _ _ |
    .pairFneg _ _ _ | .pairSIadd _ _ _ | .pairSIsub _ _ _ | .pairSAnd _ _ _ | .pairSOr _ _ _ | .pairSXor _ _ _ |
    .pairSShl _ _ _ | .pairSShr _ _ _ | .pairSMov _ _ _ => true
  | _ => false

/-- A wrong residue in the word that a slot issues (R363): the word issues again in the next cycle, which counts; where it is wrong
again, group 19 in the lanes concerned, of those that act. -/
def State.wordResidue (s : State) (core slot : Nat) (lanes : W64) (again : Bool) : State :=
  match s.servingOn core slot with
  | none => s
  | some (b, i) =>
    match s.band? b, s.weft? b i with
    | some bd, some w =>
      match s.instrAt bd w w.pc with
      | none => s
      | some x =>
        if w.bundle = 0 ∨ w.reform ∨ w.frozen ∨ w.stop.isSome ∨ bd.state ≠ .resident ∨ !computes x then s else
        let s := (s.countCore bd w).corrected 7 core 0
        if !again then s else
        let y := s.uncorrected 7 core bd.part bd.ctx 2 0
        let traps := (laneList w.width (w.bundle &&& lanes)).map (fun l => (l, y.1))
        if traps.isEmpty then s else
        match w.chainFor (latchReads x) with
        | some h =>
          let eff : Eff := { lanes := traps.map (fun t => { lane := t.1, cause := some t.2 }) }
          (y.2.modWeft b i (fun w => w.restart eff h.pc)).trapWeft b i traps w.pc h.pc true
        | none => y.2.trapWeft b i traps w.pc w.pc false
    | _, _ => s

/-- Every lane of a band that may issue raises a cause, each where it stands. -/
def State.bandTrap (s : State) (b : Nat) (bd : Band) (c : Cause) : State :=
  (bd.wefts.mapIdx (fun i w => (i, w))).foldl (fun (s : State) x =>
    let ls := (List.range x.2.width).filter (fun l => (x.2.lane l).state == .live || (x.2.lane l).state == .trapped)
    if x.2.retired then s else
    ls.foldl (fun (s : State) l => s.trapWeft b x.1 [(l, c)] (x.2.lane l).pc (x.2.lane l).pc false) (s.stopBand b (some x.1))) s

/-- Wrong parity in a unit's control (R361, R362): in a core every band resident there stops with group 19; a base die's scheduler, a
port adapter or the keeper stops accepting work, with an event record of severity fatal. -/
def State.controlFlaw (s : State) (unit inst : Nat) : State :=
  if unit = 8 ∧ inst < Config.cores then
    let here := s.bands.filter (fun e => e.2.core == inst && e.2.state == .resident)
    if here.isEmpty then (s.uncorrected 8 inst 255 255 2 0).2 else
    here.foldl (fun (s : State) e =>
      let x := s.uncorrected 8 inst e.2.part e.2.ctx 2 0
      x.2.bandTrap e.1 e.2 x.1) s
  else if (unit = 9 ∧ inst < Config.hbmStacks) ∨ (unit = 0x0B ∧ inst < Config.ports) ∨ (unit = 0x0E ∧ inst = 0) then
    let x := s.uncorrected unit inst 255 255 3 0
    { x.2 with dead := (unit, inst) :: x.2.dead.filter (fun d => d != (unit, inst)) }
  else s

/-- A chance of the order of agents. What it names may be absent; then nothing happens. -/
def State.chance (c : Chance) (s : State) : State :=
  let s := s.instant
  match c with
  | .miss id => s.tableMiss id
  | .codeMiss b i => s.codeMiss b i
  | .beacon phys => if s.beaconTable ∧ phys < Config.hbmStacks * 2 ^ 36 then s.sendDev .beacon 0 0 356 (FarStage.onHbm phys) else s
  | .masked unit inst => if (KReg.errcnt unit inst).present then s.corrected unit inst 0 else s
  | .unmasked unit inst =>
    if hasMemory unit ∧ (KReg.errcnt unit inst).present then (s.uncorrected unit inst 255 255 2 0).2 else s
  | .register b i key lane => if key < 320 ∧ lane < 64 then s.registerFlaw b i key lane else s
  | .word p a => s.wordFlaw p a
  | .tiles b => match s.stepping b with
    | some (bd, m) => s.matrixFlaw b bd m 5
    | none => s
  | .entry id => match s.req? id with
    | some r =>
      if (s.entryOf r).isNone && !r.isHeld then s else
      let x := s.uncorrected 0x0F r.home r.part r.ctx 2 r.addr
      x.2.failReq id r x.1
    | none => s
  | .arrayResidue b again => s.arrayResidue b again
  | .wordResidue core slot lanes again => s.wordResidue core slot lanes again
  | .control unit inst => s.controlFlaw unit inst
  | .standby answers => { s with standbyUp := answers }

end Sys2Proof.Machine
end

