-- ==== Sys2Proof/Machine/Control.lean ====
section
/-! DEFINITION. The control instructions (R114 to R125). -/
namespace Sys2Proof.Machine

/-- The target of an offset (R29). -/
def offsetTarget (pc : W64) (f : FB) : W64 := pc + (f.offset.signExtend 64 <<< 3)

/-- A register target has its bits [2:0] ignored (R114). -/
def targetBits (x : W64) : W64 := x &&& ~~~ 7#64

/-- Group 2 (R115, R259): two lanes that are not helpers differ in outcome. -/
def uniformCheck (w : Weft) (u : Bool) (outcome : Nat → Option W64) : Option Cause :=
  if !u then none else
  match w.nonHelpers w.bundle with
  | [] => none
  | r :: rest =>
    (rest.find? (fun l => decide (outcome l ≠ outcome r))).map (fun d =>
      let take := laneMask ((r :: rest).filter (fun l => (outcome l).isSome))
      ⟨2, 0, BitVec.ofNat 96 (d * 2 ^ 72 + r * 2 ^ 64 + take.toNat), false⟩)

/-- What a control word does: which field it reads, each lane's target (none where it goes on at the next word), and the
registers it writes. -/
structure Ctl where
  fields : List FieldRead
  outcome : Weft → Nat → Option W64
  v : Weft → Nat → List (Nat × W32)
  s : Weft → List (Nat × W64 × List Nat)

/-- What a control word that reads some fields needs. -/
def ctlNeeds (fields : List FieldRead) : Needs :=
  ⟨fields.flatMap FieldRead.regs, [], [], [], fields.flatMap FieldRead.keys⟩

/-- Run a control word (R114, R115): it is a reformation point (R60). -/
def runControl (f : FB) (c : Ctl) (s : State) : Out :=
  s.issue (ctlNeeds c.fields) (fun b i bd w =>
    match uniformCheck w f.u (c.outcome w) with
    | some x => .next (s.trapAll b i bd w [] x)
    | none =>
      let acting := laneList w.width (w.act f.guard)
      let cause := fun l => (c.fields.flatMap (fun r => r.marks w l)).foldl (fun a x => pickCause a (some x)) none
      let lanes := acting.map (fun l => ({ lane := l, cause := cause l, v := c.v w l } : LaneEff))
      let s := s.finish b i bd w [] { lanes := lanes, s := c.s w }
      let go := acting.filterMap (fun l => if (cause l).isSome then none else (c.outcome w l).map (fun t => (l, t)))
      .next (s.modWeft b i (fun v =>
        { go.foldl (fun v x => v.modLane x.1 (fun y => { y with pc := x.2 })) v with reform := true })))

/-- The outcome of a taken branch: the acting lanes take the transfer to a target. -/
def takes (f : FB) (t : Weft → Nat → W64) (w : Weft) (l : Nat) : Option W64 :=
  if (w.act f.guard).getLsbD l then some (t w l) else none

/-- The s register an operand field names. -/
def fbSreg (f : FB) : Nat :=
  match f.operand with
  | some (.s n) => n.val
  | _ => 0

/-- The return-address write (R116): once per issue, when a lane takes the transfer. -/
def returnWrite (f : FB) (k : Nat) (w : Weft) : List (Nat × W64 × List Nat) :=
  if w.act f.guard = 0 then [] else [(k, w.pc + 8, laneList w.width (w.act f.guard))]

/-- An s register as a control word reads it. -/
def sField (k : Nat) : FieldRead := ⟨.s (Fin.ofNat 64 k), true, .s32, fun l => some l, none⟩

/-- BRA (R115). -/
def execBra (f : FB) (s : State) : Out :=
  runControl f ⟨[], takes f (fun w _ => offsetTarget w.pc f), fun _ _ => [], fun _ => []⟩ s

/-- BRX (R115, R118): one target for the weft, or one for each lane. -/
def execBrx (f : FB) (s : State) : Out :=
  match f.operand with
  | some (.v n) =>
    runControl f ⟨[⟨.v n, true, .s32, fun l => some l, none⟩], takes f (fun w l => targetBits (w.vget64 n.val l)),
      fun _ _ => [], fun _ => []⟩ s
  | _ =>
    runControl f ⟨[sField (fbSreg f)], takes f (fun w _ => targetBits (w.sget (fbSreg f))), fun _ _ => [], fun _ => []⟩ s

/-- CALL (R115, R116). -/
def execCall (f : FB) (s : State) : Out :=
  runControl f ⟨[], takes f (fun w _ => offsetTarget w.pc f), fun _ _ => [], returnWrite f (fbSreg f)⟩ s

/-- CALLX (R115, R116): the target is read before the return address is written. -/
def execCallx (f : FB) (s : State) : Out :=
  runControl f ⟨[sField (fbSreg f + 1)], takes f (fun w _ => targetBits (w.sget (fbSreg f + 1))), fun _ _ => [],
    returnWrite f (fbSreg f)⟩ s

/-- RET (R115). -/
def execRet (f : FB) (s : State) : Out :=
  runControl f ⟨[sField (fbSreg f)], takes f (fun w _ => targetBits (w.sget (fbSreg f))), fun _ _ => [], fun _ => []⟩ s

/-- LOOP (R119): a v counter counts in each acting lane, an s counter once per issue. -/
def execLoop (f : FB) (s : State) : Out :=
  match f.operand with
  | some (.v n) =>
    let new := fun (w : Weft) l => w.vget n.val l - 1
    runControl f ⟨[⟨.v n, false, .s32, fun l => some l, none⟩],
      fun w l => if new w l = 0 then none else takes f (fun w _ => offsetTarget w.pc f) w l,
      fun w l => [(n.val, new w l)], fun _ => []⟩ s
  | _ =>
    let new := fun (w : Weft) => w.sget (fbSreg f) - 1
    runControl f ⟨[sField (fbSreg f)],
      fun w l => if new w = 0 then none else takes f (fun w _ => offsetTarget w.pc f) w l,
      fun _ _ => [], fun w => if w.act f.guard = 0 then [] else [(fbSreg f, new w, laneList w.width (w.act f.guard))]⟩ s

/-- EXIT (R120): the acting lanes are exited, which may complete barriers. An exited lane holds the address after the EXIT (DESIGN
CHOICE; log 60). -/
def execExit (f : FB) (s : State) : Out :=
  s.issue ⟨[], [], [], [], []⟩ (fun b i bd w =>
    let act := w.act f.guard
    let s := s.finish b i bd w [] {}
    let s := s.modWeft b i (fun v =>
      let v := { v.modLanes act (fun l => { l with state := .exited }) with reform := true }
      (List.range 16).foldl Weft.rbRelease v)
    .next (s.barReleaseAll b))

/-- YIELD (R121, R76). -/
def execYield (f : FB) (s : State) : Out :=
  s.issue ⟨[], [], [], [], []⟩ (fun b i bd w =>
    let s := s.finish b i bd w [] {}
    .next (s.modWeft b i (fun v =>
      { v.modLanes (w.act f.guard) (fun l => { l with yield := true }) with reform := true })))

/-- NOP (R121). -/
def execNop (_ : FB) (s : State) : Out :=
  s.issue ⟨[], [], [], [], []⟩ (fun b i bd w => .next (s.finish b i bd w [] {}))

/-- RBSET (R123): the members are the acting lanes and those that already wait at the barrier. -/
def execRbset (f : FB) (s : State) : Out :=
  s.issue ⟨[], [], [], [], []⟩ (fun b i bd w =>
    let waiting := laneMask ((List.range w.width).filter (fun l => (w.lane l).state == .waiting f.aux))
    let x : RBar := ⟨w.act f.guard ||| waiting, offsetTarget w.pc f⟩
    let s := s.finish b i bd w [] {}
    .next (s.modWeft b i (fun v => { v with rb := SMap.insert v.rb f.aux.val x })))

/-- RBWAIT (R124): the acting members wait; the other lanes go on at the next word. A lane that waits holds the address after the
RBWAIT (DESIGN CHOICE; log 60). -/
def execRbwait (f : FB) (s : State) : Out :=
  s.issue ⟨[], [], [], [], []⟩ (fun b i bd w =>
    let members := ((SMap.find? w.rb f.aux.val).map (fun x => x.members)).getD 0
    let s := s.finish b i bd w [] {}
    .next (s.modWeft b i (fun v =>
      let v := v.modLanes (w.act f.guard &&& members) (fun l => { l with state := .waiting f.aux })
      { v.rbRelease f.aux.val with reform := true })))

end Sys2Proof.Machine
end

