-- ==== Sys2Proof/Machine/Convert.lean ====
section
/-! DEFINITION. The conversions (R136 to R138) and block quantisation (R139 to R141). -/
namespace Sys2Proof.Machine

/-- Elements produced in ascending order: the value so far, the exceptions so far, and the stochastic-rounding state. -/
structure ElemAcc where
  val : Nat
  exc : List Exc
  rs : W32

/-- One more element (R86): under RS the lane's state steps first, and the draw is the state after the step. -/
def ElemAcc.add (x : ElemAcc) (rs : Bool) (pos : Nat) (f : Nat → Res) : ElemAcc :=
  let st := if rs then lfsrNext x.rs else x.rs
  let r := f st.toNat
  ⟨x.val + r.bits * 2 ^ pos, x.exc ++ [r.exc], st⟩

/-- A plain conversion (R136, R137). The exceptions are listed by element number of the partial side. -/
def cvtOut (i : WordIn) (l : Nat) : LaneOut :=
  let (d, s) := i.f.fmts
  let n := convN d s
  let pos := i.f.ext.val % 8
  let srcPart := decide (n < 32 / s.width)
  let dstPart := decide (n * d.width < 32)
  let a := (i.a32 l).toNat / 2 ^ (if srcPart then pos * n * s.width else 0)
  let rs := i.mode == .rs
  let one := fun (x : ElemAcc) (k : Nat) =>
    x.add rs (d.width * k) (fun draw => convert d s i.mode draw i.f.sat (a / 2 ^ (s.width * k) % 2 ^ s.width))
  let x := (List.range n).foldl one ⟨0, [], (i.w.lane l).rs⟩
  let sh := pos * n * d.width
  let mask := BitVec.ofNat 32 ((2 ^ (n * d.width) - 1) * 2 ^ sh)
  let merged := (i.old l &&& ~~~ mask) ||| BitVec.ofNat 32 (x.val * 2 ^ sh)
  let val := if dstPart then merged.setWidth 64 else BitVec.ofNat 64 x.val
  { val := val
    exc := (if srcPart || dstPart then List.replicate (pos * n) 0 else []) ++ x.exc
    rs := if rs then some x.rs else none }

/-- FCVT (R137). -/
def fcvtOut (i : WordIn) (l : Nat) : LaneOut := cvtOut i l
/-- I2F (R137). -/
def i2fOut (i : WordIn) (l : Nat) : LaneOut := cvtOut i l
/-- F2I (R137). -/
def f2iOut (i : WordIn) (l : Nat) : LaneOut := cvtOut i l

/-- Lanes of a block (R139). -/
def blockSize (s : Fmt) (width : Nat) : Nat := min s.width width

/-- The contributing lanes of a lane's block (R139). -/
def WordIn.block (i : WordIn) (l : Nat) : List Nat :=
  let g := blockSize i.f.fmts.2 i.w.width
  i.contrib.filter (fun k => k / g == l / g)

/-- The source elements of a lane (R139). -/
def WordIn.elems (i : WordIn) (l : Nat) : List Val :=
  let s := i.f.fmts.2
  (List.range (32 / s.width)).map (fun k => s.value ((i.a32 l).toNat / 2 ^ (s.width * k) % 2 ^ s.width))

/-- The shared scale of a lane's block (R100, R139). -/
def WordIn.shared (i : WordIn) (l : Nat) : Shared := sharedScale i.f.fmts.1 ((i.block l).flatMap i.elems)

/-- QCVT (R140). -/
def qcvtOut (i : WordIn) (l : Nat) : LaneOut :=
  let d := i.f.fmts.1
  let sh := i.shared l
  let rs := i.mode == .rs
  let one := fun (x : ElemAcc) (e : Nat × Val) =>
    x.add rs (d.width * e.1) (fun draw => quantElem d i.mode draw sh e.2)
  let x := ((i.elems l).mapIdx (fun k v => (k, v))).foldl one ⟨0, [], (i.w.lane l).rs⟩
  { val := BitVec.ofNat 64 (sh.code * 2 ^ 24 + x.val), exc := x.exc, rs := if rs then some x.rs else none }

/-- SCALEX (R141). -/
def scalexOut (i : WordIn) (l : Nat) : LaneOut :=
  let sh := i.shared l
  { val := BitVec.ofNat 64 sh.code, exc := [Exc.on (sh == .bad) Exc.iv] }

/-- The lanes whose A a block instruction's lane takes its result from (R217): its block's, and its own. -/
def blockUses (i : WordIn) (l : Nat) : List Nat := l :: i.block l

/-- FCVT (R137). -/
def execFcvt (f : F3) (s : State) : Out := runF3With .fcvt f none (Sem.lanewise fcvtOut) s
/-- QCVT (R140). -/
def execQcvt (f : F3) (s : State) : Out := runF3With .qcvt f none ⟨qcvtOut, blockUses⟩ s
/-- SCALEX (R141). -/
def execScalex (f : F3) (s : State) : Out := runF3With .scalex f none ⟨scalexOut, blockUses⟩ s
/-- I2F (R137). -/
def execI2f (f : F3) (s : State) : Out := runF3With .i2f f none (Sem.lanewise i2fOut) s
/-- F2I (R137). -/
def execF2i (f : F3) (s : State) : Out := runF3With .f2i f none (Sem.lanewise f2iOut) s

end Sys2Proof.Machine
end

