-- ==== Sys2Proof/Machine/FloatAlu.lean ====
section
/-! DEFINITION. The FP32 and packed-half instructions (R126 to R135), their immediate forms, and the special functions
(R142 to R144). -/
namespace Sys2Proof.Machine

/-- A source as an FP32 encoding. -/
def WordIn.fa (i : WordIn) (l : Nat) : Nat := (i.a32 l).toNat
/-- A source as an FP32 encoding. -/
def WordIn.fb (i : WordIn) (l : Nat) : Nat := (i.b32 l).toNat
/-- A source as an FP32 encoding. -/
def WordIn.fc (i : WordIn) (l : Nat) : Nat := (i.c32 l).toNat

/-- FADD (R127, R128). -/
def faddOut (i : WordIn) (l : Nat) : LaneOut := .ofRes (FInfo.f32.fadd i.mode (i.fa l) (i.fb l))
/-- FSUB (R127, R128). -/
def fsubOut (i : WordIn) (l : Nat) : LaneOut := .ofRes (FInfo.f32.fsub i.mode (i.fa l) (i.fb l))
/-- FMUL (R127, R128). -/
def fmulOut (i : WordIn) (l : Nat) : LaneOut := .ofRes (FInfo.f32.fmul i.mode (i.fa l) (i.fb l))
/-- FMIN (R129). -/
def fminOut (i : WordIn) (l : Nat) : LaneOut := .ofRes (fminmax false (i.fa l) (i.fb l))
/-- FMAX (R129). -/
def fmaxOut (i : WordIn) (l : Nat) : LaneOut := .ofRes (fminmax true (i.fa l) (i.fb l))
/-- A value with its sign bit changed; a NaN gives the canonical NaN and no flag (R127). -/
def signOp (f : W32 → W32) (x : W32) : LaneOut :=
  .v32 (if (FInfo.f32.unpack x.toNat).isNan then BitVec.ofNat 32 FInfo.f32.nan else f x)
/-- FABS (R127). -/
def fabsOut (i : WordIn) (l : Nat) : LaneOut := signOp (fun x => x &&& 0x7FFFFFFF) (i.a32 l)
/-- FNEG (R127). -/
def fnegOut (i : WordIn) (l : Nat) : LaneOut := signOp (fun x => x ^^^ 0x80000000) (i.a32 l)
/-- FCMP (R130). -/
def fcmpOut (i : WordIn) (l : Nat) : LaneOut :=
  let r := fcmp i.f.ext.val (i.fa l) (i.fb l)
  { pv := r.1, exc := [r.2] }
/-- FCLASS (R131). -/
def fclassOut (i : WordIn) (l : Nat) : LaneOut := .v32 (fclass (i.fa l))
/-- FRND (R132). -/
def frndOut (i : WordIn) (l : Nat) : LaneOut := .ofRes (frnd i.mode (i.fa l))
/-- FSCALE (R133). -/
def fscaleOut (i : WordIn) (l : Nat) : LaneOut := .ofRes (fscale i.mode (i.fa l) (i.b32 l).toInt)
/-- FEXPN (R133). -/
def fexpnOut (i : WordIn) (l : Nat) : LaneOut :=
  let r := fexpn (i.fa l)
  { LaneOut.v32 r.1 with exc := [r.2] }

/-- An operation on each half of the sources, one rounding for each (R134). -/
def halves (f : Nat → Nat → Nat → Res) (a b c : Nat) : LaneOut :=
  let lo := f (a % 65536) (b % 65536) (c % 65536)
  let hi := f (a / 65536) (b / 65536) (c / 65536)
  { val := BitVec.ofNat 64 (hi.bits * 65536 + lo.bits), exc := [lo.exc, hi.exc] }
/-- The type of HADD2 and HMUL2 (R134). -/
def WordIn.halfInfo (i : WordIn) : FInfo := if i.f.ext.val % 2 = 1 then .bf16 else .f16
/-- HADD2 (R134). -/
def hadd2Out (i : WordIn) (l : Nat) : LaneOut :=
  halves (fun a b _ => i.halfInfo.fadd i.mode a b) (i.fa l) (i.fb l) 0
/-- HMUL2 (R134). -/
def hmul2Out (i : WordIn) (l : Nat) : LaneOut :=
  halves (fun a b _ => i.halfInfo.fmul i.mode a b) (i.fa l) (i.fb l) 0
/-- FFMA (R127, R128). -/
def ffmaOut (m : Rnd) (i : WordIn) (l : Nat) : LaneOut := .ofRes (FInfo.f32.fma m (i.fa l) (i.fb l) (i.fc l))
/-- HFMA2 (R134). -/
def hfma2Out (F : FInfo) (m : Rnd) (i : WordIn) (l : Nat) : LaneOut := halves (F.fma m) (i.fa l) (i.fb l) (i.fc l)
/-- FDOT2 (R135). -/
def fdot2Out (F : FInfo) (m : Rnd) (i : WordIn) (l : Nat) : LaneOut := .ofRes (fdot2 F m (i.fa l) (i.fb l) (i.fc l))
/-- FFMA.rne (R127). -/
def ffmaRneOut (i : WordIn) (l : Nat) : LaneOut := ffmaOut .rne i l
/-- FFMA.rz (R127). -/
def ffmaRzOut (i : WordIn) (l : Nat) : LaneOut := ffmaOut .rz i l
/-- FFMA.rd (R127). -/
def ffmaRdOut (i : WordIn) (l : Nat) : LaneOut := ffmaOut .rd i l
/-- FFMA.ru (R127). -/
def ffmaRuOut (i : WordIn) (l : Nat) : LaneOut := ffmaOut .ru i l
/-- HFMA2.f16.rne (R134). -/
def hfma2F16RneOut (i : WordIn) (l : Nat) : LaneOut := hfma2Out .f16 .rne i l
/-- HFMA2.f16.rz (R134). -/
def hfma2F16RzOut (i : WordIn) (l : Nat) : LaneOut := hfma2Out .f16 .rz i l
/-- HFMA2.f16.rd (R134). -/
def hfma2F16RdOut (i : WordIn) (l : Nat) : LaneOut := hfma2Out .f16 .rd i l
/-- HFMA2.f16.ru (R134). -/
def hfma2F16RuOut (i : WordIn) (l : Nat) : LaneOut := hfma2Out .f16 .ru i l
/-- HFMA2.bf16.rne (R134). -/
def hfma2Bf16RneOut (i : WordIn) (l : Nat) : LaneOut := hfma2Out .bf16 .rne i l
/-- HFMA2.bf16.rz (R134). -/
def hfma2Bf16RzOut (i : WordIn) (l : Nat) : LaneOut := hfma2Out .bf16 .rz i l
/-- HFMA2.bf16.rd (R134). -/
def hfma2Bf16RdOut (i : WordIn) (l : Nat) : LaneOut := hfma2Out .bf16 .rd i l
/-- HFMA2.bf16.ru (R134). -/
def hfma2Bf16RuOut (i : WordIn) (l : Nat) : LaneOut := hfma2Out .bf16 .ru i l
/-- FDOT2.f16.rne (R135). -/
def fdot2F16RneOut (i : WordIn) (l : Nat) : LaneOut := fdot2Out .f16 .rne i l
/-- FDOT2.f16.rz (R135). -/
def fdot2F16RzOut (i : WordIn) (l : Nat) : LaneOut := fdot2Out .f16 .rz i l
/-- FDOT2.f16.rd (R135). -/
def fdot2F16RdOut (i : WordIn) (l : Nat) : LaneOut := fdot2Out .f16 .rd i l
/-- FDOT2.f16.ru (R135). -/
def fdot2F16RuOut (i : WordIn) (l : Nat) : LaneOut := fdot2Out .f16 .ru i l
/-- FDOT2.bf16.rne (R135). -/
def fdot2Bf16RneOut (i : WordIn) (l : Nat) : LaneOut := fdot2Out .bf16 .rne i l
/-- FDOT2.bf16.rz (R135). -/
def fdot2Bf16RzOut (i : WordIn) (l : Nat) : LaneOut := fdot2Out .bf16 .rz i l
/-- FDOT2.bf16.rd (R135). -/
def fdot2Bf16RdOut (i : WordIn) (l : Nat) : LaneOut := fdot2Out .bf16 .rd i l
/-- FDOT2.bf16.ru (R135). -/
def fdot2Bf16RuOut (i : WordIn) (l : Nat) : LaneOut := fdot2Out .bf16 .ru i l
/-- RCP (R142 to R144). -/
def rcpOut (i : WordIn) (l : Nat) : LaneOut := .ofRes (SFn.rcp.eval i.mode (i.fa l))
/-- RSQ (R142 to R144). -/
def rsqOut (i : WordIn) (l : Nat) : LaneOut := .ofRes (SFn.rsq.eval i.mode (i.fa l))
/-- SQRT (R142 to R144). -/
def sqrtOut (i : WordIn) (l : Nat) : LaneOut := .ofRes (SFn.sqrt.eval i.mode (i.fa l))
/-- EXP2 (R142 to R144). -/
def exp2Out (i : WordIn) (l : Nat) : LaneOut := .ofRes (SFn.exp2.eval i.mode (i.fa l))
/-- LOG2 (R142 to R144). -/
def log2Out (i : WordIn) (l : Nat) : LaneOut := .ofRes (SFn.log2.eval i.mode (i.fa l))
/-- SIN (R142 to R144). -/
def sinOut (i : WordIn) (l : Nat) : LaneOut := .ofRes (SFn.sin.eval i.mode (i.fa l))
/-- COS (R142 to R144). -/
def cosOut (i : WordIn) (l : Nat) : LaneOut := .ofRes (SFn.cos.eval i.mode (i.fa l))
/-- TANH (R142 to R144). -/
def tanhOut (i : WordIn) (l : Nat) : LaneOut := .ofRes (SFn.tanh.eval i.mode (i.fa l))
/-- SIGM (R142 to R144). -/
def sigmOut (i : WordIn) (l : Nat) : LaneOut := .ofRes (SFn.sigm.eval i.mode (i.fa l))
/-- ERF (R142 to R144). -/
def erfOut (i : WordIn) (l : Nat) : LaneOut := .ofRes (SFn.erf.eval i.mode (i.fa l))

/-- FADD (R127). -/
def execFadd (f : F3) (s : State) : Out := runF3With .fadd f none (Sem.lanewise faddOut) s
/-- FSUB (R127). -/
def execFsub (f : F3) (s : State) : Out := runF3With .fsub f none (Sem.lanewise fsubOut) s
/-- FMUL (R127). -/
def execFmul (f : F3) (s : State) : Out := runF3With .fmul f none (Sem.lanewise fmulOut) s
/-- FMIN (R129). -/
def execFmin (f : F3) (s : State) : Out := runF3With .fmin f none (Sem.lanewise fminOut) s
/-- FMAX (R129). -/
def execFmax (f : F3) (s : State) : Out := runF3With .fmax f none (Sem.lanewise fmaxOut) s
/-- FABS (R127). -/
def execFabs (f : F3) (s : State) : Out := runF3With .fabs f none (Sem.lanewise fabsOut) s
/-- FNEG (R127). -/
def execFneg (f : F3) (s : State) : Out := runF3With .fneg f none (Sem.lanewise fnegOut) s
/-- FCMP (R130). -/
def execFcmp (f : F3) (s : State) : Out := runF3With .fcmp f none (Sem.lanewise fcmpOut) s
/-- FCLASS (R131). -/
def execFclass (f : F3) (s : State) : Out := runF3With .fclass f none (Sem.lanewise fclassOut) s
/-- FRND (R132). -/
def execFrnd (f : F3) (s : State) : Out := runF3With .frnd f none (Sem.lanewise frndOut) s
/-- FSCALE (R133). -/
def execFscale (f : F3) (s : State) : Out := runF3With .fscale f none (Sem.lanewise fscaleOut) s
/-- FEXPN (R133). -/
def execFexpn (f : F3) (s : State) : Out := runF3With .fexpn f none (Sem.lanewise fexpnOut) s
/-- HADD2 (R134). -/
def execHadd2 (f : F3) (s : State) : Out := runF3With .hadd2 f none (Sem.lanewise hadd2Out) s
/-- HMUL2 (R134). -/
def execHmul2 (f : F3) (s : State) : Out := runF3With .hmul2 f none (Sem.lanewise hmul2Out) s
/-- ffmaRne (R127). -/
def execFfmaRne (f : F3) (s : State) : Out := runF3With .ffmaRne f none (Sem.lanewise ffmaRneOut) s
/-- ffmaRz (R127). -/
def execFfmaRz (f : F3) (s : State) : Out := runF3With .ffmaRz f none (Sem.lanewise ffmaRzOut) s
/-- ffmaRd (R127). -/
def execFfmaRd (f : F3) (s : State) : Out := runF3With .ffmaRd f none (Sem.lanewise ffmaRdOut) s
/-- ffmaRu (R127). -/
def execFfmaRu (f : F3) (s : State) : Out := runF3With .ffmaRu f none (Sem.lanewise ffmaRuOut) s
/-- hfma2F16Rne (R134). -/
def execHfma2F16Rne (f : F3) (s : State) : Out := runF3With .hfma2F16Rne f none (Sem.lanewise hfma2F16RneOut) s
/-- hfma2F16Rz (R134). -/
def execHfma2F16Rz (f : F3) (s : State) : Out := runF3With .hfma2F16Rz f none (Sem.lanewise hfma2F16RzOut) s
/-- hfma2F16Rd (R134). -/
def execHfma2F16Rd (f : F3) (s : State) : Out := runF3With .hfma2F16Rd f none (Sem.lanewise hfma2F16RdOut) s
/-- hfma2F16Ru (R134). -/
def execHfma2F16Ru (f : F3) (s : State) : Out := runF3With .hfma2F16Ru f none (Sem.lanewise hfma2F16RuOut) s
/-- hfma2Bf16Rne (R134). -/
def execHfma2Bf16Rne (f : F3) (s : State) : Out := runF3With .hfma2Bf16Rne f none (Sem.lanewise hfma2Bf16RneOut) s
/-- hfma2Bf16Rz (R134). -/
def execHfma2Bf16Rz (f : F3) (s : State) : Out := runF3With .hfma2Bf16Rz f none (Sem.lanewise hfma2Bf16RzOut) s
/-- hfma2Bf16Rd (R134). -/
def execHfma2Bf16Rd (f : F3) (s : State) : Out := runF3With .hfma2Bf16Rd f none (Sem.lanewise hfma2Bf16RdOut) s
/-- hfma2Bf16Ru (R134). -/
def execHfma2Bf16Ru (f : F3) (s : State) : Out := runF3With .hfma2Bf16Ru f none (Sem.lanewise hfma2Bf16RuOut) s
/-- fdot2F16Rne (R135). -/
def execFdot2F16Rne (f : F3) (s : State) : Out := runF3With .fdot2F16Rne f none (Sem.lanewise fdot2F16RneOut) s
/-- fdot2F16Rz (R135). -/
def execFdot2F16Rz (f : F3) (s : State) : Out := runF3With .fdot2F16Rz f none (Sem.lanewise fdot2F16RzOut) s
/-- fdot2F16Rd (R135). -/
def execFdot2F16Rd (f : F3) (s : State) : Out := runF3With .fdot2F16Rd f none (Sem.lanewise fdot2F16RdOut) s
/-- fdot2F16Ru (R135). -/
def execFdot2F16Ru (f : F3) (s : State) : Out := runF3With .fdot2F16Ru f none (Sem.lanewise fdot2F16RuOut) s
/-- fdot2Bf16Rne (R135). -/
def execFdot2Bf16Rne (f : F3) (s : State) : Out := runF3With .fdot2Bf16Rne f none (Sem.lanewise fdot2Bf16RneOut) s
/-- fdot2Bf16Rz (R135). -/
def execFdot2Bf16Rz (f : F3) (s : State) : Out := runF3With .fdot2Bf16Rz f none (Sem.lanewise fdot2Bf16RzOut) s
/-- fdot2Bf16Rd (R135). -/
def execFdot2Bf16Rd (f : F3) (s : State) : Out := runF3With .fdot2Bf16Rd f none (Sem.lanewise fdot2Bf16RdOut) s
/-- fdot2Bf16Ru (R135). -/
def execFdot2Bf16Ru (f : F3) (s : State) : Out := runF3With .fdot2Bf16Ru f none (Sem.lanewise fdot2Bf16RuOut) s
/-- RCP (R142). -/
def execRcp (f : F3) (s : State) : Out := runF3With .rcp f none (Sem.lanewise rcpOut) s
/-- RSQ (R142). -/
def execRsq (f : F3) (s : State) : Out := runF3With .rsq f none (Sem.lanewise rsqOut) s
/-- SQRT (R142). -/
def execSqrt (f : F3) (s : State) : Out := runF3With .sqrt f none (Sem.lanewise sqrtOut) s
/-- EXP2 (R142). -/
def execExp2 (f : F3) (s : State) : Out := runF3With .exp2 f none (Sem.lanewise exp2Out) s
/-- LOG2 (R142). -/
def execLog2 (f : F3) (s : State) : Out := runF3With .log2 f none (Sem.lanewise log2Out) s
/-- SIN (R142). -/
def execSin (f : F3) (s : State) : Out := runF3With .sin f none (Sem.lanewise sinOut) s
/-- COS (R142). -/
def execCos (f : F3) (s : State) : Out := runF3With .cos f none (Sem.lanewise cosOut) s
/-- TANH (R142). -/
def execTanh (f : F3) (s : State) : Out := runF3With .tanh f none (Sem.lanewise tanhOut) s
/-- SIGM (R142). -/
def execSigm (f : F3) (s : State) : Out := runF3With .sigm f none (Sem.lanewise sigmOut) s
/-- ERF (R142). -/
def execErf (f : F3) (s : State) : Out := runF3With .erf f none (Sem.lanewise erfOut) s
/-- FADD with an immediate (R127). -/
def execFaddImm (f : FI) (s : State) : Out := runFI 0x06C .f32 f (Sem.lanewise faddOut) s
/-- FMUL with an immediate (R127). -/
def execFmulImm (f : FI) (s : State) : Out := runFI 0x06D .f32 f (Sem.lanewise fmulOut) s

end Sys2Proof.Machine
end

