-- ==== Sys2Proof/Machine/IntAlu.lean ====
section
/-! DEFINITION. The integer, logic and dot-product instructions (R102 to R107) and their immediate forms (R113): the
result of each in one lane, and the meaning of each. -/
namespace Sys2Proof.Machine

/-- saturate(x, -2^31, 2^31 - 1), with SAT where the clamp changed the value (R92, R102). -/
def sat32 (x : Int) : LaneOut :=
  let r := clampInt (-2 ^ 31) (2 ^ 31 - 1) x
  { val := (BitVec.ofInt 32 r.1).setWidth 64, exc := [r.2] }

/-- wrap32, or sat32 in the .sat form (R103). -/
def wrapOrSat (i : WordIn) (x : Int) : LaneOut := if i.f.sat then sat32 x else .v32 (BitVec.ofInt 32 x)

/-- IADD (R103). -/
def iaddOut (i : WordIn) (l : Nat) : LaneOut := wrapOrSat i ((i.a32 l).toInt + (i.b32 l).toInt)
/-- ISUB (R103). -/
def isubOut (i : WordIn) (l : Nat) : LaneOut := wrapOrSat i ((i.a32 l).toInt - (i.b32 l).toInt)
/-- The carry predicate of IADDC and ISUBB (R104). -/
def WordIn.carryIn (i : WordIn) (l : Nat) : Bool := (i.w.pget (i.f.ext.val % 8)).getLsbD l
/-- IADDC (R104). -/
def iaddcOut (i : WordIn) (l : Nat) : LaneOut :=
  let t := (i.a32 l).toNat + (i.b32 l).toNat + (i.carryIn l).toNat
  { LaneOut.v32 (BitVec.ofNat 32 t) with pv := decide (2 ^ 32 ≤ t) }
/-- ISUBB (R104). -/
def isubbOut (i : WordIn) (l : Nat) : LaneOut :=
  let t : Int := (i.a32 l).toNat - (i.b32 l).toNat - (i.carryIn l).toNat
  { LaneOut.v32 (BitVec.ofInt 32 t) with pv := decide (t < 0) }
/-- IMUL (R103). -/
def imulOut (i : WordIn) (l : Nat) : LaneOut := .v32 (i.a32 l * i.b32 l)
/-- IMULH (R103). -/
def imulhOut (i : WordIn) (l : Nat) : LaneOut := .v32 (BitVec.ofInt 32 ((i.a32 l).toInt * (i.b32 l).toInt / 2 ^ 32))
/-- IMULHU (R103). -/
def imulhuOut (i : WordIn) (l : Nat) : LaneOut :=
  .v32 (BitVec.ofNat 32 ((i.a32 l).toNat * (i.b32 l).toNat / 2 ^ 32))
/-- IMAD (R103). -/
def imadOut (i : WordIn) (l : Nat) : LaneOut := .v32 (i.a32 l * i.b32 l + i.c32 l)
/-- IMADW (R105). -/
def imadwOut (i : WordIn) (l : Nat) : LaneOut :=
  { val := (i.a32 l).signExtend 64 * (i.b32 l).signExtend 64 + i.c l }
/-- IADD64 (R105). -/
def iadd64Out (i : WordIn) (l : Nat) : LaneOut := { val := i.a l + i.b l }
/-- INEG (R103). -/
def inegOut (i : WordIn) (l : Nat) : LaneOut := wrapOrSat i (-(i.a32 l).toInt)
/-- IABS (R103). -/
def iabsOut (i : WordIn) (l : Nat) : LaneOut := wrapOrSat i ((i.a32 l).toInt.natAbs : Int)
/-- IMIN (R103). -/
def iminOut (i : WordIn) (l : Nat) : LaneOut := .v32 (if (i.a32 l).toInt ≤ (i.b32 l).toInt then i.a32 l else i.b32 l)
/-- IMAX (R103). -/
def imaxOut (i : WordIn) (l : Nat) : LaneOut := .v32 (if (i.b32 l).toInt ≤ (i.a32 l).toInt then i.a32 l else i.b32 l)
/-- IMINU (R103). -/
def iminuOut (i : WordIn) (l : Nat) : LaneOut := .v32 (if i.a32 l ≤ i.b32 l then i.a32 l else i.b32 l)
/-- IMAXU (R103). -/
def imaxuOut (i : WordIn) (l : Nat) : LaneOut := .v32 (if i.b32 l ≤ i.a32 l then i.a32 l else i.b32 l)
/-- AND (R103). -/
def andOut (i : WordIn) (l : Nat) : LaneOut := .v32 (i.a32 l &&& i.b32 l)
/-- OR (R103). -/
def orOut (i : WordIn) (l : Nat) : LaneOut := .v32 (i.a32 l ||| i.b32 l)
/-- XOR (R103). -/
def xorOut (i : WordIn) (l : Nat) : LaneOut := .v32 (i.a32 l ^^^ i.b32 l)
/-- ANDN (R103). -/
def andnOut (i : WordIn) (l : Nat) : LaneOut := .v32 (i.a32 l &&& ~~~ (i.b32 l))
/-- NOT (R103). -/
def notOut (i : WordIn) (l : Nat) : LaneOut := .v32 (~~~ (i.a32 l))
/-- SHL (R103): 0 from a count of 32 on. -/
def shlOut (i : WordIn) (l : Nat) : LaneOut := .v32 (if (i.b32 l).toNat < 32 then i.a32 l <<< (i.b32 l).toNat else 0)
/-- SHR (R103): 0 from a count of 32 on. -/
def shrOut (i : WordIn) (l : Nat) : LaneOut := .v32 (if (i.b32 l).toNat < 32 then i.a32 l >>> (i.b32 l).toNat else 0)
/-- SAR (R103): a count above 31 acts as 31. -/
def sarOut (i : WordIn) (l : Nat) : LaneOut := .v32 ((i.a32 l).sshiftRight (min (i.b32 l).toNat 31))
/-- ROTL (R103). -/
def rotlOut (i : WordIn) (l : Nat) : LaneOut := .v32 ((i.a32 l).rotateLeft ((i.b32 l).toNat % 32))
/-- FUNNEL (R103). -/
def funnelOut (i : WordIn) (l : Nat) : LaneOut :=
  .v32 (BitVec.ofNat 32 (((i.a32 l).toNat * 2 ^ 32 + (i.b32 l).toNat) / 2 ^ ((i.c32 l).toNat % 32)))
/-- The position and width of a bit field (R107). -/
def bitField (pos wid : Nat) : Nat × Nat := (pos, min (min wid 32) (32 - pos))
/-- BFXU (R107). -/
def bfxuOut (i : WordIn) (l : Nat) : LaneOut :=
  let (pos, wid) := bitField ((i.b32 l).toNat % 32) ((i.c32 l).toNat % 64)
  .v32 (BitVec.ofNat 32 ((i.a32 l).toNat / 2 ^ pos % 2 ^ wid))
/-- BFX (R107). -/
def bfxOut (i : WordIn) (l : Nat) : LaneOut :=
  let (pos, wid) := bitField ((i.b32 l).toNat % 32) ((i.c32 l).toNat % 64)
  let x : Int := (i.a32 l).toNat / 2 ^ pos % 2 ^ wid
  .v32 (if wid = 0 then 0 else if 2 ^ (wid - 1) ≤ x then BitVec.ofInt 32 (x - 2 ^ wid) else BitVec.ofInt 32 x)
/-- BFI (R107). -/
def bfiOut (i : WordIn) (l : Nat) : LaneOut :=
  let (pos, wid) := bitField ((i.c32 l).toNat % 32) ((i.c32 l).toNat / 256 % 64)
  let mask := BitVec.ofNat 32 ((2 ^ wid - 1) * 2 ^ pos)
  .v32 ((i.b32 l &&& ~~~ mask) ||| ((i.a32 l <<< pos) &&& mask))
/-- POPC (R103). -/
def popcOut (i : WordIn) (l : Nat) : LaneOut :=
  .v32 (BitVec.ofNat 32 ((List.range 32).filter (fun k => (i.a32 l).getLsbD k)).length)
/-- CLZ (R103). -/
def clzOut (i : WordIn) (l : Nat) : LaneOut :=
  .v32 (if i.a32 l = 0 then 32 else BitVec.ofNat 32 (31 - Nat.log2 (i.a32 l).toNat))
/-- BREV (R103). -/
def brevOut (i : WordIn) (l : Nat) : LaneOut :=
  .v32 ((List.range 32).foldl (fun a k => if (i.a32 l).getLsbD k then a ||| (1#32 <<< (31 - k)) else a) 0)
/-- LEA (R105). -/
def leaOut (i : WordIn) (l : Nat) : LaneOut := { val := i.a l + ((i.b32 l).signExtend 64 <<< i.f.ext.val) }

/-- A step of a dot product (R106): the element products added in order, wrapped or clamped at every step. -/
def dotSteps (sat : Bool) (f : Fmt) (a b : Nat) : Nat → Int → Exc → LaneOut
  | 0, acc, x => { val := (BitVec.ofInt 32 acc).setWidth 64, exc := [x] }
  | n + 1, acc, x =>
    let t := acc + f.toInt a * f.toInt b
    let r := if sat then clampInt (-2 ^ 31) (2 ^ 31 - 1) t else ((BitVec.ofInt 32 t).toInt, 0)
    dotSteps sat f (a / 2 ^ f.width) (b / 2 ^ f.width) n r.1 (x ||| r.2)
/-- The dot products (R106). -/
def dotOut (sat : Bool) (f : Fmt) (i : WordIn) (l : Nat) : LaneOut :=
  dotSteps sat f (i.a32 l).toNat (i.b32 l).toNat (32 / f.width) (i.c32 l).toInt 0
/-- DOT4I8 (R106). -/
def dot4i8Out (i : WordIn) (l : Nat) : LaneOut := dotOut false .s8 i l
/-- DOT4I8.sat (R106). -/
def dot4i8SatOut (i : WordIn) (l : Nat) : LaneOut := dotOut true .s8 i l
/-- DOT8I4 (R106). -/
def dot8i4Out (i : WordIn) (l : Nat) : LaneOut := dotOut false .s4 i l
/-- DOT8I4.sat (R106). -/
def dot8i4SatOut (i : WordIn) (l : Nat) : LaneOut := dotOut true .s4 i l

/-- IADD (R103). -/
def execIadd (f : F3) (s : State) : Out := runF3With .iadd f none (Sem.lanewise iaddOut) s
/-- IADDC (R104). -/
def execIaddc (f : F3) (s : State) : Out := runF3With .iaddc f none (Sem.lanewise iaddcOut) s
/-- ISUB (R103). -/
def execIsub (f : F3) (s : State) : Out := runF3With .isub f none (Sem.lanewise isubOut) s
/-- ISUBB (R104). -/
def execIsubb (f : F3) (s : State) : Out := runF3With .isubb f none (Sem.lanewise isubbOut) s
/-- IMUL (R103). -/
def execImul (f : F3) (s : State) : Out := runF3With .imul f none (Sem.lanewise imulOut) s
/-- IMULH (R103). -/
def execImulh (f : F3) (s : State) : Out := runF3With .imulh f none (Sem.lanewise imulhOut) s
/-- IMULHU (R103). -/
def execImulhu (f : F3) (s : State) : Out := runF3With .imulhu f none (Sem.lanewise imulhuOut) s
/-- IMAD (R103). -/
def execImad (f : F3) (s : State) : Out := runF3With .imad f none (Sem.lanewise imadOut) s
/-- IMADW (R105). -/
def execImadw (f : F3) (s : State) : Out := runF3With .imadw f none (Sem.lanewise imadwOut) s
/-- IADD64 (R105). -/
def execIadd64 (f : F3) (s : State) : Out := runF3With .iadd64 f none (Sem.lanewise iadd64Out) s
/-- INEG (R103). -/
def execIneg (f : F3) (s : State) : Out := runF3With .ineg f none (Sem.lanewise inegOut) s
/-- IABS (R103). -/
def execIabs (f : F3) (s : State) : Out := runF3With .iabs f none (Sem.lanewise iabsOut) s
/-- IMIN (R103). -/
def execImin (f : F3) (s : State) : Out := runF3With .imin f none (Sem.lanewise iminOut) s
/-- IMAX (R103). -/
def execImax (f : F3) (s : State) : Out := runF3With .imax f none (Sem.lanewise imaxOut) s
/-- IMINU (R103). -/
def execIminu (f : F3) (s : State) : Out := runF3With .iminu f none (Sem.lanewise iminuOut) s
/-- IMAXU (R103). -/
def execImaxu (f : F3) (s : State) : Out := runF3With .imaxu f none (Sem.lanewise imaxuOut) s
/-- AND (R103). -/
def execAnd (f : F3) (s : State) : Out := runF3With .and f none (Sem.lanewise andOut) s
/-- OR (R103). -/
def execOr (f : F3) (s : State) : Out := runF3With .or f none (Sem.lanewise orOut) s
/-- XOR (R103). -/
def execXor (f : F3) (s : State) : Out := runF3With .xor f none (Sem.lanewise xorOut) s
/-- ANDN (R103). -/
def execAndn (f : F3) (s : State) : Out := runF3With .andn f none (Sem.lanewise andnOut) s
/-- NOT (R103). -/
def execNot (f : F3) (s : State) : Out := runF3With .not f none (Sem.lanewise notOut) s
/-- SHL (R103). -/
def execShl (f : F3) (s : State) : Out := runF3With .shl f none (Sem.lanewise shlOut) s
/-- SHR (R103). -/
def execShr (f : F3) (s : State) : Out := runF3With .shr f none (Sem.lanewise shrOut) s
/-- SAR (R103). -/
def execSar (f : F3) (s : State) : Out := runF3With .sar f none (Sem.lanewise sarOut) s
/-- ROTL (R103). -/
def execRotl (f : F3) (s : State) : Out := runF3With .rotl f none (Sem.lanewise rotlOut) s
/-- FUNNEL (R103). -/
def execFunnel (f : F3) (s : State) : Out := runF3With .funnel f none (Sem.lanewise funnelOut) s
/-- BFX (R107). -/
def execBfx (f : F3) (s : State) : Out := runF3With .bfx f none (Sem.lanewise bfxOut) s
/-- BFXU (R107). -/
def execBfxu (f : F3) (s : State) : Out := runF3With .bfxu f none (Sem.lanewise bfxuOut) s
/-- BFI (R107). -/
def execBfi (f : F3) (s : State) : Out := runF3With .bfi f none (Sem.lanewise bfiOut) s
/-- POPC (R103). -/
def execPopc (f : F3) (s : State) : Out := runF3With .popc f none (Sem.lanewise popcOut) s
/-- CLZ (R103). -/
def execClz (f : F3) (s : State) : Out := runF3With .clz f none (Sem.lanewise clzOut) s
/-- BREV (R103). -/
def execBrev (f : F3) (s : State) : Out := runF3With .brev f none (Sem.lanewise brevOut) s
/-- LEA (R105). -/
def execLea (f : F3) (s : State) : Out := runF3With .lea f none (Sem.lanewise leaOut) s
/-- DOT4I8 (R106). -/
def execDot4i8 (f : F3) (s : State) : Out := runF3With .dot4i8 f none (Sem.lanewise dot4i8Out) s
/-- dot4i8Sat (R106). -/
def execDot4i8Sat (f : F3) (s : State) : Out := runF3With .dot4i8Sat f none (Sem.lanewise dot4i8SatOut) s
/-- DOT8I4 (R106). -/
def execDot8i4 (f : F3) (s : State) : Out := runF3With .dot8i4 f none (Sem.lanewise dot8i4Out) s
/-- dot8i4Sat (R106). -/
def execDot8i4Sat (f : F3) (s : State) : Out := runF3With .dot8i4Sat f none (Sem.lanewise dot8i4SatOut) s
/-- IADD with an immediate (R113). -/
def execIaddImm (f : FI) (s : State) : Out := runFI 0x038 .i32 f (Sem.lanewise iaddOut) s
/-- IMUL with an immediate (R113). -/
def execImulImm (f : FI) (s : State) : Out := runFI 0x039 .i32 f (Sem.lanewise imulOut) s
/-- AND with an immediate (R113). -/
def execAndImm (f : FI) (s : State) : Out := runFI 0x03A .i32 f (Sem.lanewise andOut) s
/-- OR with an immediate (R113). -/
def execOrImm (f : FI) (s : State) : Out := runFI 0x03B .i32 f (Sem.lanewise orOut) s
/-- XOR with an immediate (R113). -/
def execXorImm (f : FI) (s : State) : Out := runFI 0x03C .i32 f (Sem.lanewise xorOut) s
/-- SHL with an immediate (R113). -/
def execShlImm (f : FI) (s : State) : Out := runFI 0x03D .i32 f (Sem.lanewise shlOut) s
/-- SHR with an immediate (R113). -/
def execShrImm (f : FI) (s : State) : Out := runFI 0x03E .i32 f (Sem.lanewise shrOut) s
/-- SAR with an immediate (R113). -/
def execSarImm (f : FI) (s : State) : Out := runFI 0x03F .i32 f (Sem.lanewise sarOut) s

end Sys2Proof.Machine
end

