-- ==== Sys2Proof/Machine/LaneOps.lean ====
section
/-! DEFINITION. The quad exchanges (R151) and the votes and masks (R152 to R155). -/
namespace Sys2Proof.Machine

/-- The lane of a quad that QSWAP reads (R151). -/
def qswapLane (i : WordIn) (l : Nat) : Nat := l / 4 * 4 + quadPos i.f.ext.val (l % 4)
/-- The lane of a quad that QBCST reads (R151). -/
def qbcstLane (i : WordIn) (l : Nat) : Nat := l / 4 * 4 + i.f.ext.val % 4
/-- QSWAP (R151). -/
def qswapOut (i : WordIn) (l : Nat) : LaneOut := .v32 (i.a32 (qswapLane i l))
/-- QBCST (R151). -/
def qbcstOut (i : WordIn) (l : Nat) : LaneOut := .v32 (i.a32 (qbcstLane i l))

/-- VOTE (R153). -/
def voteOut (i : WordIn) (_ : Nat) : LaneOut :=
  let p := i.pred i.f.a
  { pv := match i.f.ext.val % 8 with
    | 0 => i.contrib.all p
    | 1 => i.contrib.any p
    | _ => i.contrib.all p || i.contrib.all (fun l => !p l) }
/-- BALLOT (R154). -/
def ballotOut (i : WordIn) (_ : Nat) : LaneOut := { val := laneMask (i.contrib.filter (i.pred i.f.a)) }
/-- The relation of LANEMASK (R155). -/
def maskRel (code h l : Nat) : Bool :=
  match code with
  | 0 => h == l
  | 1 => decide (h < l)
  | 2 => decide (h ≤ l)
  | 3 => decide (l < h)
  | _ => decide (l ≤ h)
/-- LANEMASK (R155). -/
def lanemaskOut (i : WordIn) (l : Nat) : LaneOut :=
  let m := laneMask ((List.range i.w.width).filter (fun h => maskRel (i.f.ext.val % 8) h l))
  .v32 ((m >>> (if i.f.ext.val / 8 % 2 = 1 then 32 else 0)).setWidth 32)

/-- QSWAP (R151). -/
def execQswap (f : F3) (s : State) : Out := runF3With .qswap f none ⟨qswapOut, fun i l => [qswapLane i l]⟩ s
/-- QBCST (R151). -/
def execQbcst (f : F3) (s : State) : Out := runF3With .qbcst f none ⟨qbcstOut, fun i l => [qbcstLane i l]⟩ s
/-- VOTE (R153). -/
def execVote (f : F3) (s : State) : Out := runF3With .vote f none (Sem.lanewise voteOut) s
/-- BALLOT (R154). -/
def execBallot (f : F3) (s : State) : Out := runF3With .ballot f none (Sem.lanewise ballotOut) s
/-- LANEMASK (R155). -/
def execLanemask (f : F3) (s : State) : Out := runF3With .lanemask f none (Sem.lanewise lanemaskOut) s

end Sys2Proof.Machine
end

