-- ==== Sys2Proof/Machine/Move.lean ====
section
/-! DEFINITION. Compare, select and move (R108 to R110), LSTK (R111) and the predicate instructions (R112). -/
namespace Sys2Proof.Machine

/-- The condition of R47 on integers: codes 0 to 5 signed, 6 to 9 unsigned. -/
def icmpCond (code : Nat) (a b : W32) : Bool :=
  match code with
  | 0 => a == b
  | 1 => a != b
  | 2 => decide (a.toInt < b.toInt)
  | 3 => decide (a.toInt ≤ b.toInt)
  | 4 => decide (b.toInt < a.toInt)
  | 5 => decide (b.toInt ≤ a.toInt)
  | 6 => decide (a < b)
  | 7 => decide (a ≤ b)
  | 8 => decide (b < a)
  | _ => decide (b ≤ a)

/-- A predicate result. -/
def LaneOut.pred (b : Bool) : LaneOut := { pv := b }

/-- ICMP (R108). -/
def icmpOut (i : WordIn) (l : Nat) : LaneOut := .pred (icmpCond i.f.ext.val (i.a32 l) (i.b32 l))
/-- SEL (R108): the predicate of ext [20:18], inverted by ext [21]. -/
def selOut (i : WordIn) (l : Nat) : LaneOut :=
  let p := (i.w.pget (i.f.ext.val % 8)).getLsbD l
  .v32 (if p != (i.f.ext.val / 8 % 2 == 1) then i.a32 l else i.b32 l)
/-- MOV (R109): A at the width that its ext gives. -/
def movOut (i : WordIn) (l : Nat) : LaneOut := { val := i.a l }
/-- LSTK (R111). -/
def lstkOut (i : WordIn) (l : Nat) : LaneOut :=
  { val := BitVec.ofNat 64 ((i.a32 l).toNat % 2 ^ 16 * 2 ^ 48 + (i.b32 l).toNat % 2 ^ 20 * 2 ^ 28
      + (i.c32 l).toNat % 2 ^ 28) }
/-- PAND (R112). -/
def pandOut (i : WordIn) (l : Nat) : LaneOut := .pred (i.pred i.f.a l && i.pred i.f.b l)
/-- POR (R112). -/
def porOut (i : WordIn) (l : Nat) : LaneOut := .pred (i.pred i.f.a l || i.pred i.f.b l)
/-- PXOR (R112). -/
def pxorOut (i : WordIn) (l : Nat) : LaneOut := .pred (i.pred i.f.a l != i.pred i.f.b l)
/-- PNOT (R112). -/
def pnotOut (i : WordIn) (l : Nat) : LaneOut := .pred (!i.pred i.f.a l)
/-- PMOV (R112). -/
def pmovOut (i : WordIn) (l : Nat) : LaneOut := .pred (i.pred i.f.a l)

/-- The value of MOVI (R110). -/
def moviVal (f : FMovi) : W64 := if f.sel.val = 1 then f.imm.signExtend 64 else f.imm.setWidth 64

/-- The destination kind of MOVI (R110). -/
def moviKind (f : FMovi) : DstKind := if f.sel.val = 0 then .v else .s

/-- What MOVI needs. -/
def moviNeeds (f : FMovi) (w : Weft) : Needs :=
  let dregs := dstRegs (moviKind f) f.dst.val f.nwb
  { regs := dregs, half2 := [], latch := [], routes := [], keys := if w.act f.guard != w.bundle then dregs else [] }

/-- The operation of MOVI. -/
def moviPart (f : FMovi) (w : Weft) : Part where
  opc := 0x023
  half := false
  act := w.act f.guard
  dst := f.dst.val
  nwb := f.nwb
  dk := moviKind f
  carry := none
  anyLane := true
  uniform := true
  fields := []
  uses := fun _ => []
  out := fun _ => { val := moviVal f }

/-- MOVI (R110): a v destination in every acting lane, or an s destination once per issue that has an acting lane. -/
def execMovi (f : FMovi) (s : State) : Out := s.runPrep (fun w => ⟨moviNeeds f w, (moviPart f w).eff w⟩)

/-- ICMP (R108). -/
def execIcmp (f : F3) (s : State) : Out := runF3With .icmp f none (Sem.lanewise icmpOut) s
/-- SEL (R108). -/
def execSel (f : F3) (s : State) : Out := runF3With .sel f none (Sem.lanewise selOut) s
/-- MOV (R109). -/
def execMov (f : F3) (s : State) : Out := runF3With .mov f none (Sem.lanewise movOut) s
/-- LSTK (R111). -/
def execLstk (f : F3) (s : State) : Out := runF3With .lstk f none (Sem.lanewise lstkOut) s
/-- PAND (R112). -/
def execPand (f : F3) (s : State) : Out := runF3With .pand f none (Sem.lanewise pandOut) s
/-- POR (R112). -/
def execPor (f : F3) (s : State) : Out := runF3With .por f none (Sem.lanewise porOut) s
/-- PXOR (R112). -/
def execPxor (f : F3) (s : State) : Out := runF3With .pxor f none (Sem.lanewise pxorOut) s
/-- PNOT (R112). -/
def execPnot (f : F3) (s : State) : Out := runF3With .pnot f none (Sem.lanewise pnotOut) s
/-- PMOV (R112). -/
def execPmov (f : F3) (s : State) : Out := runF3With .pmov f none (Sem.lanewise pmovOut) s

end Sys2Proof.Machine
end

