-- ==== Sys2Proof/Machine/Pair.lean ====
section
/-! DEFINITION. Pair words (R32 to R35, R48, R49) and ROUTEX words (R28). -/
namespace Sys2Proof.Machine

/-- The meaning of each F3 opcode, for the words that carry it behind a ROUTEX or in a pair. -/
def semOf : F3Op → Sem
  | .iadd => Sem.lanewise iaddOut
  | .iaddc => Sem.lanewise iaddcOut
  | .isub => Sem.lanewise isubOut
  | .isubb => Sem.lanewise isubbOut
  | .imul => Sem.lanewise imulOut
  | .imulh => Sem.lanewise imulhOut
  | .imulhu => Sem.lanewise imulhuOut
  | .imad => Sem.lanewise imadOut
  | .imadw => Sem.lanewise imadwOut
  | .iadd64 => Sem.lanewise iadd64Out
  | .ineg => Sem.lanewise inegOut
  | .iabs => Sem.lanewise iabsOut
  | .imin => Sem.lanewise iminOut
  | .imax => Sem.lanewise imaxOut
  | .iminu => Sem.lanewise iminuOut
  | .imaxu => Sem.lanewise imaxuOut
  | .and => Sem.lanewise andOut
  | .or => Sem.lanewise orOut
  | .xor => Sem.lanewise xorOut
  | .andn => Sem.lanewise andnOut
  | .not => Sem.lanewise notOut
  | .shl => Sem.lanewise shlOut
  | .shr => Sem.lanewise shrOut
  | .sar => Sem.lanewise sarOut
  | .rotl => Sem.lanewise rotlOut
  | .funnel => Sem.lanewise funnelOut
  | .bfx => Sem.lanewise bfxOut
  | .bfxu => Sem.lanewise bfxuOut
  | .bfi => Sem.lanewise bfiOut
  | .popc => Sem.lanewise popcOut
  | .clz => Sem.lanewise clzOut
  | .brev => Sem.lanewise brevOut
  | .icmp => Sem.lanewise icmpOut
  | .sel => Sem.lanewise selOut
  | .mov => Sem.lanewise movOut
  | .lea => Sem.lanewise leaOut
  | .lstk => Sem.lanewise lstkOut
  | .dot4i8 => Sem.lanewise dot4i8Out
  | .dot4i8Sat => Sem.lanewise dot4i8SatOut
  | .dot8i4 => Sem.lanewise dot8i4Out
  | .dot8i4Sat => Sem.lanewise dot8i4SatOut
  | .pand => Sem.lanewise pandOut
  | .por => Sem.lanewise porOut
  | .pxor => Sem.lanewise pxorOut
  | .pnot => Sem.lanewise pnotOut
  | .pmov => Sem.lanewise pmovOut
  | .fadd => Sem.lanewise faddOut
  | .fsub => Sem.lanewise fsubOut
  | .fmul => Sem.lanewise fmulOut
  | .fmin => Sem.lanewise fminOut
  | .fmax => Sem.lanewise fmaxOut
  | .fabs => Sem.lanewise fabsOut
  | .fneg => Sem.lanewise fnegOut
  | .fcmp => Sem.lanewise fcmpOut
  | .fclass => Sem.lanewise fclassOut
  | .frnd => Sem.lanewise frndOut
  | .fscale => Sem.lanewise fscaleOut
  | .fexpn => Sem.lanewise fexpnOut
  | .hadd2 => Sem.lanewise hadd2Out
  | .hmul2 => Sem.lanewise hmul2Out
  | .fcvt => Sem.lanewise fcvtOut
  | .qcvt => ⟨qcvtOut, blockUses⟩
  | .scalex => ⟨scalexOut, blockUses⟩
  | .i2f => Sem.lanewise i2fOut
  | .f2i => Sem.lanewise f2iOut
  | .ffmaRne => Sem.lanewise ffmaRneOut
  | .ffmaRz => Sem.lanewise ffmaRzOut
  | .ffmaRd => Sem.lanewise ffmaRdOut
  | .ffmaRu => Sem.lanewise ffmaRuOut
  | .hfma2F16Rne => Sem.lanewise hfma2F16RneOut
  | .hfma2F16Rz => Sem.lanewise hfma2F16RzOut
  | .hfma2F16Rd => Sem.lanewise hfma2F16RdOut
  | .hfma2F16Ru => Sem.lanewise hfma2F16RuOut
  | .hfma2Bf16Rne => Sem.lanewise hfma2Bf16RneOut
  | .hfma2Bf16Rz => Sem.lanewise hfma2Bf16RzOut
  | .hfma2Bf16Rd => Sem.lanewise hfma2Bf16RdOut
  | .hfma2Bf16Ru => Sem.lanewise hfma2Bf16RuOut
  | .fdot2F16Rne => Sem.lanewise fdot2F16RneOut
  | .fdot2F16Rz => Sem.lanewise fdot2F16RzOut
  | .fdot2F16Rd => Sem.lanewise fdot2F16RdOut
  | .fdot2F16Ru => Sem.lanewise fdot2F16RuOut
  | .fdot2Bf16Rne => Sem.lanewise fdot2Bf16RneOut
  | .fdot2Bf16Rz => Sem.lanewise fdot2Bf16RzOut
  | .fdot2Bf16Rd => Sem.lanewise fdot2Bf16RdOut
  | .fdot2Bf16Ru => Sem.lanewise fdot2Bf16RuOut
  | .rcp => Sem.lanewise rcpOut
  | .rsq => Sem.lanewise rsqOut
  | .sqrt => Sem.lanewise sqrtOut
  | .exp2 => Sem.lanewise exp2Out
  | .log2 => Sem.lanewise log2Out
  | .sin => Sem.lanewise sinOut
  | .cos => Sem.lanewise cosOut
  | .tanh => Sem.lanewise tanhOut
  | .sigm => Sem.lanewise sigmOut
  | .erf => Sem.lanewise erfOut
  | .qswap => ⟨qswapOut, fun i l => [qswapLane i l]⟩
  | .qbcst => ⟨qbcstOut, fun i l => [qbcstLane i l]⟩
  | .vote => Sem.lanewise voteOut
  | .ballot => Sem.lanewise ballotOut
  | .lanemask => Sem.lanewise lanemaskOut
  | .racq | .rrel => Sem.lanewise (fun _ _ => {})

/-- ROUTEX with its F3 word (R28): one word of 16 bytes. -/
def execRoutex (fx : FX) (op : F3Op) (f : F3) (s : State) : Out :=
  match op with
  | .racq => runRacq 2 s
  | .rrel => runRrel 2 s
  | op => runF3With op f (some fx) (semOf op) s

/-- The F3 word that a pair half acts as (R49): A is the destination and B the source, or A the source where only one is
read. -/
def halfWord (p : PairOp) (op : F3Op) (h : Half) : F3 :=
  let two := op.info.b != .none
  {
    dst := h.dst, nwb := false
    a := .op (if two then .v h.dst else h.src)
    b := if two then .op h.src else .none
    c := .none, rnd := 0, sat := false, ext := p.ext
    guard := ⟨false, h.p⟩, target := .none, route := .identity }

/-- A half's source as a field, with its short route (R33). -/
def halfSource (w : Weft) (k : SrcKind) (f : F3) (h : Half) : FieldRead :=
  ⟨h.src, k == .i64, srcFmt f k, fun l => some (shortSource h.route.val w.width l), none⟩

/-- The result of an s form (R48). -/
def sFormVal (p : PairOp) (a b : W64) : W64 :=
  match p with
  | .sIadd => a + b
  | .sIsub => a - b
  | .sAnd => a &&& b
  | .sOr => a ||| b
  | .sXor => a ^^^ b
  | .sShl => a <<< (b.toNat % 64)
  | .sShr => a >>> (b.toNat % 64)
  | _ => b

/-- One half of a pair: what it needs and what it does. -/
structure HalfRun where
  regs : List Nat
  depth : Option Nat
  keys : List Nat
  eff : Weft → Eff

/-- A half in the v forms. -/
def halfV (w : Weft) (second : Bool) (p : PairOp) (op : F3Op) (h : Half) : HalfRun :=
  let f := halfWord p op h
  let two := op.info.b != .none
  let src := halfSource w (if two then op.info.b else op.info.a) f h
  let dst : FieldRead := ⟨.v h.dst, false, srcFmt f op.info.a, fun l => some l, none⟩
  let fields := if two then [dst, src] else [src]
  let act := w.act f.guard
  let i : WordIn := ⟨f, w, (if two then dst else src).value w, src.value w, fun _ => 0, w.nonHelpers act⟩
  let sem := semOf op
  {
    regs := h.dst.val :: src.regs
    depth := src.depth
    keys := src.keys ++ (if two || act != w.bundle then [h.dst.val] else [])
    eff := fun w =>
      (Part.eff {
        opc := p.popc, half := second, act := act, dst := h.dst.val, nwb := false, dk := .v, carry := none
        anyLane := false, uniform := true, fields := fields, uses := sem.uses i, out := sem.out i } w) }

/-- A half in the s forms (R49): once per weft, when the guard is true in the lowest lane of the bundle that is not a
helper; a latch source is read there too (DESIGN CHOICE; log 26). Its write is made by every lane whose guard is true, and is
lost where they all trap (R35; log 26). -/
def halfS (_ : Weft) (second : Bool) (p : PairOp) (h : Half) : HalfRun :=
  let src : FieldRead := ⟨h.src, true, .s32, fun l => some l, none⟩
  {
    regs := []
    depth := src.depth
    keys := src.keys ++ (if p == .sMov then [] else [256 + h.dst.val])
    eff := fun w =>
      match w.lowest w.bundle with
      | none => {}
      | some l =>
        let acting := w.nonHelpers (w.act ⟨false, h.p⟩)
        if (w.guardMask ⟨false, h.p⟩).getLsbD l
        then
          let marks := src.marks w l ++ (if p == .sMov then [] else (w.mark (256 + h.dst.val) 0).toList)
          match marks.foldl (fun a c => pickCause a (some c)) none with
          | none => { s := [(h.dst.val, sFormVal p (w.sget h.dst.val) (src.value w l), acting)] }
          | some c => { lanes := acting.map (fun l => { lane := l, cause := some { c with half := second } }) }
        else {} }

/-- A half of a pair. -/
def halfRun (w : Weft) (second : Bool) (p : PairOp) (h : Half) : HalfRun :=
  match p.acts with
  | some op => halfV w second p op h
  | none => halfS w second p h

/-- What a pair needs. -/
def pairNeeds (p : PairOp) (h : Half) (q : PairOp) (k : Half) (w : Weft) : Needs :=
  let x := halfRun w false p h
  let y := halfRun w true q k
  {
    regs := x.regs
    half2 := y.regs
    latch := x.depth.toList.map (fun d => (4, d)) ++ y.depth.toList.map (fun d => (5, d))
    routes := []
    keys := x.keys ++ y.keys }

/-- What a pair does. -/
def pairEff (p : PairOp) (h : Half) (q : PairOp) (k : Half) (w : Weft) : Eff :=
  Eff.both w.flags w.width ((halfRun w false p h).eff w) ((halfRun w true q k).eff w)

/-- Run a pair (R35): both halves read their sources as they stood before the word, and it traps as a whole. -/
def runPair (p : PairOp) (h : Half) (q : PairOp) (k : Half) (s : State) : Out :=
  s.runPrep (fun w => ⟨pairNeeds p h q k w, pairEff p h q k w⟩)

/-- The pair half iadd first (R48). -/
def execPairIadd (h : Half) (op : PairOp) (k : Half) (s : State) : Out := runPair .iadd h op k s
/-- The pair half isub first (R48). -/
def execPairIsub (h : Half) (op : PairOp) (k : Half) (s : State) : Out := runPair .isub h op k s
/-- The pair half imul first (R48). -/
def execPairImul (h : Half) (op : PairOp) (k : Half) (s : State) : Out := runPair .imul h op k s
/-- The pair half imin first (R48). -/
def execPairImin (h : Half) (op : PairOp) (k : Half) (s : State) : Out := runPair .imin h op k s
/-- The pair half imax first (R48). -/
def execPairImax (h : Half) (op : PairOp) (k : Half) (s : State) : Out := runPair .imax h op k s
/-- The pair half iminu first (R48). -/
def execPairIminu (h : Half) (op : PairOp) (k : Half) (s : State) : Out := runPair .iminu h op k s
/-- The pair half imaxu first (R48). -/
def execPairImaxu (h : Half) (op : PairOp) (k : Half) (s : State) : Out := runPair .imaxu h op k s
/-- The pair half and first (R48). -/
def execPairAnd (h : Half) (op : PairOp) (k : Half) (s : State) : Out := runPair .and h op k s
/-- The pair half or first (R48). -/
def execPairOr (h : Half) (op : PairOp) (k : Half) (s : State) : Out := runPair .or h op k s
/-- The pair half xor first (R48). -/
def execPairXor (h : Half) (op : PairOp) (k : Half) (s : State) : Out := runPair .xor h op k s
/-- The pair half andn first (R48). -/
def execPairAndn (h : Half) (op : PairOp) (k : Half) (s : State) : Out := runPair .andn h op k s
/-- The pair half shl first (R48). -/
def execPairShl (h : Half) (op : PairOp) (k : Half) (s : State) : Out := runPair .shl h op k s
/-- The pair half shr first (R48). -/
def execPairShr (h : Half) (op : PairOp) (k : Half) (s : State) : Out := runPair .shr h op k s
/-- The pair half sar first (R48). -/
def execPairSar (h : Half) (op : PairOp) (k : Half) (s : State) : Out := runPair .sar h op k s
/-- The pair half mov first (R48). -/
def execPairMov (h : Half) (op : PairOp) (k : Half) (s : State) : Out := runPair .mov h op k s
/-- The pair half fadd first (R48). -/
def execPairFadd (h : Half) (op : PairOp) (k : Half) (s : State) : Out := runPair .fadd h op k s
/-- The pair half fsub first (R48). -/
def execPairFsub (h : Half) (op : PairOp) (k : Half) (s : State) : Out := runPair .fsub h op k s
/-- The pair half fmul first (R48). -/
def execPairFmul (h : Half) (op : PairOp) (k : Half) (s : State) : Out := runPair .fmul h op k s
/-- The pair half fmin first (R48). -/
def execPairFmin (h : Half) (op : PairOp) (k : Half) (s : State) : Out := runPair .fmin h op k s
/-- The pair half fmax first (R48). -/
def execPairFmax (h : Half) (op : PairOp) (k : Half) (s : State) : Out := runPair .fmax h op k s
/-- The pair half hadd2F16 first (R48). -/
def execPairHadd2F16 (h : Half) (op : PairOp) (k : Half) (s : State) : Out := runPair .hadd2F16 h op k s
/-- The pair half hmul2F16 first (R48). -/
def execPairHmul2F16 (h : Half) (op : PairOp) (k : Half) (s : State) : Out := runPair .hmul2F16 h op k s
/-- The pair half hadd2Bf16 first (R48). -/
def execPairHadd2Bf16 (h : Half) (op : PairOp) (k : Half) (s : State) : Out := runPair .hadd2Bf16 h op k s
/-- The pair half hmul2Bf16 first (R48). -/
def execPairHmul2Bf16 (h : Half) (op : PairOp) (k : Half) (s : State) : Out := runPair .hmul2Bf16 h op k s
/-- The pair half fabs first (R48). -/
def execPairFabs (h : Half) (op : PairOp) (k : Half) (s : State) : Out := runPair .fabs h op k s
/-- The pair half fneg first (R48). -/
def execPairFneg (h : Half) (op : PairOp) (k : Half) (s : State) : Out := runPair .fneg h op k s
/-- The pair half sIadd first (R48). -/
def execPairSIadd (h : Half) (op : PairOp) (k : Half) (s : State) : Out := runPair .sIadd h op k s
/-- The pair half sIsub first (R48). -/
def execPairSIsub (h : Half) (op : PairOp) (k : Half) (s : State) : Out := runPair .sIsub h op k s
/-- The pair half sAnd first (R48). -/
def execPairSAnd (h : Half) (op : PairOp) (k : Half) (s : State) : Out := runPair .sAnd h op k s
/-- The pair half sOr first (R48). -/
def execPairSOr (h : Half) (op : PairOp) (k : Half) (s : State) : Out := runPair .sOr h op k s
/-- The pair half sXor first (R48). -/
def execPairSXor (h : Half) (op : PairOp) (k : Half) (s : State) : Out := runPair .sXor h op k s
/-- The pair half sShl first (R48). -/
def execPairSShl (h : Half) (op : PairOp) (k : Half) (s : State) : Out := runPair .sShl h op k s
/-- The pair half sShr first (R48). -/
def execPairSShr (h : Half) (op : PairOp) (k : Half) (s : State) : Out := runPair .sShr h op k s
/-- The pair half sMov first (R48). -/
def execPairSMov (h : Half) (op : PairOp) (k : Half) (s : State) : Out := runPair .sMov h op k s

end Sys2Proof.Machine
end

