-- ==== Sys2Proof/Machine/System.lean ====
section
/-! DEFINITION. The system instructions (R265 to R271), PPOINT (R298), PROBE (R326), and the events of system registers and
band stops. -/
namespace Sys2Proof.Machine

/-- What a system register reads in a lane (R270). -/
def State.sysRead (s : State) (i : Nat) (bd : Band) (w : Weft) (lane : Nat) (r : SysReg) : W64 :=
  let l := w.lane lane
  match r with
  | .tcause => l.tcause
  | .tdet0 => (l.tdet.setWidth 32).setWidth 64
  | .tdet1 => ((l.tdet >>> 32).setWidth 32).setWidth 64
  | .tdet2 => ((l.tdet >>> 64).setWidth 32).setWidth 64
  | .trappc => l.trappc
  | .tresume => l.tresume
  | .flags => w.flags
  | .rsseed => 0
  | .hangk => w.hangk
  | .lane => BitVec.ofNat 64 lane
  | .helper => if l.helper then 1 else 0
  | .weft => BitVec.ofNat 64 i
  | .width => BitVec.ofNat 64 w.width
  | .bandx => BitVec.ofNat 64 bd.x
  | .bandy => BitVec.ofNat 64 bd.y
  | .bandz => BitVec.ofNat 64 bd.z
  | .gangpos => BitVec.ofNat 64 bd.gangPos
  | .core => BitVec.ofNat 64 bd.core
  | .ctx => BitVec.ofNat 64 bd.ctx
  | .part => BitVec.ofNat 64 bd.part
  | .bkey => ((s.ctx? bd.ctx).map (fun c => c.bkey)).getD 0
  | .wlast => w.wlast
  | .cycle => s.cycleOf bd.core + Config.freeStall s.freeCtr

/-- The destination of MFSR as a v register and whether it is a pair. -/
def MfsrDst.vreg : MfsrDst → Option (Nat × Bool)
  | .v32 n => some (n.val, false)
  | .v64 n => some (2 * n.val, true)
  | .s _ => none

/-- What MFSR needs. -/
def mfsrNeeds (d : MfsrDst) (g : Guard) (w : Weft) : Needs :=
  let regs := match MfsrDst.vreg d with
    | some (r, wide) => if wide then [r, r + 1] else [r]
    | none => []
  { Needs.none with regs := regs, keys := if w.act g != w.bundle then regs else [] }

/-- MFSR (R271). -/
def execMfsr (d : MfsrDst) (sr : SysReg) (g : Guard) (s : State) : Out :=
  match s.current with
  | none => .refused .noBundle
  | some (_, _, _, w0) =>
    let act := w0.act g
    let needs := mfsrNeeds d g w0
    s.issue needs (fun b i bd w =>
      let acting := laneList w.width act
      let val := fun l => s.sysRead i bd w l sr
      let eff : Eff := match d, MfsrDst.vreg d with
        | .s n, _ => { s := (w.nonHelpers act).head?.toList.map (fun l => (n.val, val l, [l])) }
        | _, some (r, wide) =>
          {
            lanes := acting.map (fun l =>
              { lane := l
                v := (r, (val l).setWidth 32) :: (if wide then [(r + 1, ((val l) >>> 32).setWidth 32)] else []) })
            pushes := [⟨r, wide, false, acting.map (fun l => (l, if wide then val l else low32 (val l)))⟩] }
        | _, none => {}
      .next (s.tick.finish b i bd w [] eff))

/-- A system register that MTSR writes in each lane (R270). -/
def SysReg.perLane : SysReg → Bool
  | .tresume => true
  | .rsseed => true
  | _ => false

/-- A lane's system register takes a value: sr.tresume only inside a handler (R257), the seed as R86 states. -/
def Lane.sysWrite (l : Lane) (lane : Nat) (r : SysReg) (x : W64) : Lane :=
  match r with
  | .tresume => if l.group = 0 then l else { l with tresume := x }
  | .rsseed => { l with rs := lfsrSeed lane (x.setWidth 32) }
  | _ => l

/-- A weft's system register takes a value (R93, R75); a write to any other register is ignored (R11). -/
def Weft.sysWrite (w : Weft) (r : SysReg) (x : W64) : Weft :=
  match r with
  | .flags => { w with flags := x &&& flagsMask }
  | .hangk => { w with hangk := x &&& 63 }
  | _ => w

/-- MTSR (R271). -/
def execMtsr (w64 : Bool) (a : Operand) (sr : SysReg) (g : Guard) (s : State) : Out :=
  let fd := feField w64 a
  let needs := feNeeds [(1, fd)] []
  s.issue needs (fun b i bd w =>
    let act := w.act g
    let acting := laneList w.width act
    let low := (w.nonHelpers act).head?
    let from_ := fun l => if SysReg.perLane sr then some l else low
    let cause := fun l => ((from_ l).toList.flatMap (fun u => fd.marks w u)).foldl (fun c x => pickCause c (some x)) none
    let bad := acting.filterMap (fun l => (cause l).map (fun c => ({ lane := l, cause := some c } : LaneEff)))
    let s := s.finish b i bd w needs.latch { lanes := bad }
    if !bad.isEmpty && (w.chainFor (needs.latch.map (fun r => r.2))).isSome then .next s else
    let ok := acting.filter (fun l => (cause l).isNone)
    if SysReg.perLane sr then
      .next (s.modWeft b i (fun v => ok.foldl (fun v l => v.modLane l (fun y => y.sysWrite l sr (fd.value w l))) v))
    else
      match low with
      | some l => if ok.contains l then .next (s.modWeft b i (fun v => v.sysWrite sr (fd.value w l))) else .next s
      | none => .next s)

/-- The seeds of a write to sr.rsseed reach the lanes of the current weft (R86). -/
def execRsseedWrite (seeds : List (Nat × W32)) (s : State) : Out :=
  match s.cur.bind (fun c => (s.weft? c.1 c.2).map (fun _ => c)) with
  | none => .refused (.notPending "RSSEED_WRITE")
  | some (b, i) =>
    .next (s.modWeft b i (fun w =>
      seeds.foldl (fun w x => w.modLane x.1 (fun l => l.sysWrite x.1 .rsseed (x.2.setWidth 64))) w))

/-- ERET (R265). -/
def execEret (s : State) : Out :=
  s.issue Needs.none (fun b i bd w =>
    if w.bundleLanes.any (fun l => (w.lane l).group == 0) then
      .next (s.finish b i bd w [] { lanes := sameCause (w.nonHelpers w.bundle) ⟨17, 1, 0, false⟩ })
    else
      let s := s.finish b i bd w [] {}
      .next (s.modWeft b i (fun v => { v.modLanes w.bundle Lane.eret with reform := true })))

/-- A software trap (R266): raised in the acting lanes that are not helpers; ERET continues after the word. -/
def State.softTrap (s : State) (b i : Nat) (bd : Band) (w : Weft) (lanes : List Nat) (c : Cause) : State :=
  let s := (s.countCore bd w).modWeft b i (fun v => v.apply { lanes := sameCause lanes c } none)
  s.trapWeft b i (lanes.map (fun l => (l, c))) w.pc (w.pc + 8) false

/-- TRAPI (R266). -/
def execTrapi (g : Guard) (imm : W32) (s : State) : Out :=
  s.issue Needs.none (fun b i bd w =>
    .next (s.softTrap b i bd w (w.nonHelpers (w.act g)) ⟨17, 0, imm.setWidth 96, false⟩))

/-- Whether a partition has debug enabled (R267). -/
def State.debugOn (s : State) (part : Nat) : Bool := ((SMap.find? s.parts part).map (fun p => p.debug)).getD false

/-- BKPT (R267, R268): under debug enable the lanes stand at the word with their breakpoint records, and the band stops. -/
def execBkpt (g : Guard) (imm : W32) (s : State) : Out :=
  s.issue Needs.none (fun b i bd w =>
    let lanes := w.nonHelpers (w.act g)
    let c : Cause := ⟨16, 0, imm.setWidth 96, false⟩
    if !s.debugOn bd.part then .next (s.softTrap b i bd w lanes c)
    else if lanes.isEmpty then .next (s.finish b i bd w [] {}) else
    let mark : W64 := BitVec.ofNat 64 (imm.toNat * 2 ^ 32 + 16)
    let s := (s.countCore bd w).modWeft b i (fun v =>
      let v := v.apply { lanes := sameCause lanes c } none
      lanes.foldl (fun v l => v.modLane l (fun y => { y with bkpt := mark })) v)
    let s := if bd.stopped then s else s.logEvent (trapEvent bd 10 c false)
    .next (s.stopBand b (some i)))

/-- The lanes of a weft that stand at a BKPT go on after it (R267), and the weft issues again. -/
def Weft.unfreeze (w : Weft) : Weft :=
  { w with
    frozen := false
    slack := 0
    reform := true
    lanes := w.lanes.map (fun l => if l.bkpt = 0 then l else { l with pc := l.pc + 8, bkpt := 0 }) }

/-- The traps of group 19 that waited for the host are delivered, word by word (R264). -/
def State.deliver (s : State) (b i : Nat) (late : List LateTrap) : State :=
  let words := (late.map (fun t => (t.run, t.trappc, t.resume, t.chain))).eraseDups
  words.foldl (fun s x =>
    let mine := late.filter (fun t => t.run == x.1)
    s.enterTraps b i x.1 (mine.map (fun t => (t.lane, t.cause))) x.2.1 x.2.2.1 x.2.2.2) s

/-- BAND_RESUME (R264, R267). -/
def execBandResume (band : Nat) (s : State) : Out :=
  match s.band? band with
  | none => .refused (.notPending "BAND_RESUME")
  | some bd =>
    if !bd.stopped || bd.state == .retired then .refused (.notPending "BAND_RESUME") else
    let late := bd.wefts.mapIdx (fun i w => (i, w.late))
    let s := s.modBand band (fun x =>
      { x with stopped := false, wefts := x.wefts.map (fun w => { w.unfreeze with late := [] }) })
    .next (late.foldl (fun s e => s.deliver band e.1 e.2) s)

/-- The groups of eight registers with a register that awaits a far reply or is marked failed (R300). -/
def Weft.pendingGroups (w : Weft) (bd : Band) : W32 :=
  (List.range 32).foldl (fun m g => if w.keepsGroup bd g then m ||| BitVec.ofNat 32 (2 ^ g) else m) 0

/-- PPOINT (R298): with a save pending and the whole weft in the bundle, the weft stops here. Its record names the registers that
await a reply now as live, so that a reply which lands before the image is written is in the image (R300, R305). -/
def execPpoint (f : FPpoint) (s : State) : Out :=
  s.issue Needs.none (fun b i bd w =>
    let whole := (List.range w.width).all (fun l =>
      (w.lane l).state == .exited || (w.lane l).state == .unlaunched || w.bundle.getLsbD l)
    let s := s.finish b i bd w [] { words := 2 }
    if bd.save.isSome && whole then .next (s.modWeft b i (fun v => { v with stop := some (.ppoint { f with live := f.live ||| v.pendingGroups bd }) })) else .next s)

/-- PROBE (R326): its result lands in the s register when the probe returns. -/
def execProbe (dst : Fin 64) (a : Operand) (kind : Fin 4) (g : Guard) (s : State) : Out :=
  let fd := feField true a
  let needs := feNeeds [(1, fd)] []
  runOnce g needs [fd] (fun s b i bd w lanes chk =>
    let r := FarReq.make (.probe b i dst.val) (.probe kind.val) bd (fd.value w (lanes.headD 0)) 1 .segment
    let s' := s.finish b i bd w needs.latch {}
    chk none (fun _ => .next ((s'.modWeft b i (fun v => { v with await := v.await ++ [⟨256 + dst.val, 0, s'.stamp⟩] })).sendReq r))) s

end Sys2Proof.Machine
end

