-- ==== Sys2Proof/Machine/Dispatch.lean ====
section
/-! DEFINITION. The dispatcher: one arm for each constructor of Instr. -/
namespace Sys2Proof.Machine

/-- What an instruction or event does. -/
def exec (i : Instr) (s : State) : Host.Outcome State Fault Refusal :=
  match i with
  | .iadd f => Sys2Proof.Machine.execIadd f s
  | .iaddc f => Sys2Proof.Machine.execIaddc f s
  | .isub f => Sys2Proof.Machine.execIsub f s
  | .isubb f => Sys2Proof.Machine.execIsubb f s
  | .imul f => Sys2Proof.Machine.execImul f s
  | .imulh f => Sys2Proof.Machine.execImulh f s
  | .imulhu f => Sys2Proof.Machine.execImulhu f s
  | .imad f => Sys2Proof.Machine.execImad f s
  | .imadw f => Sys2Proof.Machine.execImadw f s
  | .iadd64 f => Sys2Proof.Machine.execIadd64 f s
  | .ineg f => Sys2Proof.Machine.execIneg f s
  | .iabs f => Sys2Proof.Machine.execIabs f s
  | .imin f => Sys2Proof.Machine.execImin f s
  | .imax f => Sys2Proof.Machine.execImax f s
  | .iminu f => Sys2Proof.Machine.execIminu f s
  | .imaxu f => Sys2Proof.Machine.execImaxu f s
  | .and f => Sys2Proof.Machine.execAnd f s
  | .or f => Sys2Proof.Machine.execOr f s
  | .xor f => Sys2Proof.Machine.execXor f s
  | .andn f => Sys2Proof.Machine.execAndn f s
  | .not f => Sys2Proof.Machine.execNot f s
  | .shl f => Sys2Proof.Machine.execShl f s
  | .shr f => Sys2Proof.Machine.execShr f s
  | .sar f => Sys2Proof.Machine.execSar f s
  | .rotl f => Sys2Proof.Machine.execRotl f s
  | .funnel f => Sys2Proof.Machine.execFunnel f s
  | .bfx f => Sys2Proof.Machine.execBfx f s
  | .bfxu f => Sys2Proof.Machine.execBfxu f s
  | .bfi f => Sys2Proof.Machine.execBfi f s
  | .popc f => Sys2Proof.Machine.execPopc f s
  | .clz f => Sys2Proof.Machine.execClz f s
  | .brev f => Sys2Proof.Machine.execBrev f s
  | .icmp f => Sys2Proof.Machine.execIcmp f s
  | .sel f => Sys2Proof.Machine.execSel f s
  | .mov f => Sys2Proof.Machine.execMov f s
  | .movi f => Sys2Proof.Machine.execMovi f s
  | .lea f => Sys2Proof.Machine.execLea f s
  | .lstk f => Sys2Proof.Machine.execLstk f s
  | .dot4i8 f => Sys2Proof.Machine.execDot4i8 f s
  | .dot4i8Sat f => Sys2Proof.Machine.execDot4i8Sat f s
  | .dot8i4 f => Sys2Proof.Machine.execDot8i4 f s
  | .dot8i4Sat f => Sys2Proof.Machine.execDot8i4Sat f s
  | .pand f => Sys2Proof.Machine.execPand f s
  | .por f => Sys2Proof.Machine.execPor f s
  | .pxor f => Sys2Proof.Machine.execPxor f s
  | .pnot f => Sys2Proof.Machine.execPnot f s
  | .pmov f => Sys2Proof.Machine.execPmov f s
  | .iaddImm f => Sys2Proof.Machine.execIaddImm f s
  | .imulImm f => Sys2Proof.Machine.execImulImm f s
  | .andImm f => Sys2Proof.Machine.execAndImm f s
  | .orImm f => Sys2Proof.Machine.execOrImm f s
  | .xorImm f => Sys2Proof.Machine.execXorImm f s
  | .shlImm f => Sys2Proof.Machine.execShlImm f s
  | .shrImm f => Sys2Proof.Machine.execShrImm f s
  | .sarImm f => Sys2Proof.Machine.execSarImm f s
  | .fadd f => Sys2Proof.Machine.execFadd f s
  | .fsub f => Sys2Proof.Machine.execFsub f s
  | .fmul f => Sys2Proof.Machine.execFmul f s
  | .fmin f => Sys2Proof.Machine.execFmin f s
  | .fmax f => Sys2Proof.Machine.execFmax f s
  | .fabs f => Sys2Proof.Machine.execFabs f s
  | .fneg f => Sys2Proof.Machine.execFneg f s
  | .fcmp f => Sys2Proof.Machine.execFcmp f s
  | .fclass f => Sys2Proof.Machine.execFclass f s
  | .frnd f => Sys2Proof.Machine.execFrnd f s
  | .fscale f => Sys2Proof.Machine.execFscale f s
  | .fexpn f => Sys2Proof.Machine.execFexpn f s
  | .hadd2 f => Sys2Proof.Machine.execHadd2 f s
  | .hmul2 f => Sys2Proof.Machine.execHmul2 f s
  | .fcvt f => Sys2Proof.Machine.execFcvt f s
  | .qcvt f => Sys2Proof.Machine.execQcvt f s
  | .scalex f => Sys2Proof.Machine.execScalex f s
  | .i2f f => Sys2Proof.Machine.execI2f f s
  | .f2i f => Sys2Proof.Machine.execF2i f s
  | .ffmaRne f => Sys2Proof.Machine.execFfmaRne f s
  | .ffmaRz f => Sys2Proof.Machine.execFfmaRz f s
  | .ffmaRd f => Sys2Proof.Machine.execFfmaRd f s
  | .ffmaRu f => Sys2Proof.Machine.execFfmaRu f s
  | .hfma2F16Rne f => Sys2Proof.Machine.execHfma2F16Rne f s
  | .hfma2F16Rz f => Sys2Proof.Machine.execHfma2F16Rz f s
  | .hfma2F16Rd f => Sys2Proof.Machine.execHfma2F16Rd f s
  | .hfma2F16Ru f => Sys2Proof.Machine.execHfma2F16Ru f s
  | .hfma2Bf16Rne f => Sys2Proof.Machine.execHfma2Bf16Rne f s
  | .hfma2Bf16Rz f => Sys2Proof.Machine.execHfma2Bf16Rz f s
  | .hfma2Bf16Rd f => Sys2Proof.Machine.execHfma2Bf16Rd f s
  | .hfma2Bf16Ru f => Sys2Proof.Machine.execHfma2Bf16Ru f s
  | .fdot2F16Rne f => Sys2Proof.Machine.execFdot2F16Rne f s
  | .fdot2F16Rz f => Sys2Proof.Machine.execFdot2F16Rz f s
  | .fdot2F16Rd f => Sys2Proof.Machine.execFdot2F16Rd f s
  | .fdot2F16Ru f => Sys2Proof.Machine.execFdot2F16Ru f s
  | .fdot2Bf16Rne f => Sys2Proof.Machine.execFdot2Bf16Rne f s
  | .fdot2Bf16Rz f => Sys2Proof.Machine.execFdot2Bf16Rz f s
  | .fdot2Bf16Rd f => Sys2Proof.Machine.execFdot2Bf16Rd f s
  | .fdot2Bf16Ru f => Sys2Proof.Machine.execFdot2Bf16Ru f s
  | .faddImm f => Sys2Proof.Machine.execFaddImm f s
  | .fmulImm f => Sys2Proof.Machine.execFmulImm f s
  | .rcp f => Sys2Proof.Machine.execRcp f s
  | .rsq f => Sys2Proof.Machine.execRsq f s
  | .sqrt f => Sys2Proof.Machine.execSqrt f s
  | .exp2 f => Sys2Proof.Machine.execExp2 f s
  | .log2 f => Sys2Proof.Machine.execLog2 f s
  | .sin f => Sys2Proof.Machine.execSin f s
  | .cos f => Sys2Proof.Machine.execCos f s
  | .tanh f => Sys2Proof.Machine.execTanh f s
  | .sigm f => Sys2Proof.Machine.execSigm f s
  | .erf f => Sys2Proof.Machine.execErf f s
  | .qswap f => Sys2Proof.Machine.execQswap f s
  | .qbcst f => Sys2Proof.Machine.execQbcst f s
  | .vote f => Sys2Proof.Machine.execVote f s
  | .ballot f => Sys2Proof.Machine.execBallot f s
  | .lanemask f => Sys2Proof.Machine.execLanemask f s
  | .bra f => Sys2Proof.Machine.execBra f s
  | .brx f => Sys2Proof.Machine.execBrx f s
  | .call f => Sys2Proof.Machine.execCall f s
  | .callx f => Sys2Proof.Machine.execCallx f s
  | .ret f => Sys2Proof.Machine.execRet f s
  | .rbset f => Sys2Proof.Machine.execRbset f s
  | .rbwait f => Sys2Proof.Machine.execRbwait f s
  | .loop f => Sys2Proof.Machine.execLoop f s
  | .exit f => Sys2Proof.Machine.execExit f s
  | .yield f => Sys2Proof.Machine.execYield f s
  | .nop f => Sys2Proof.Machine.execNop f s
  | .ld f => Sys2Proof.Machine.execLd f s
  | .st f => Sys2Proof.Machine.execSt f s
  | .ldu f => Sys2Proof.Machine.execLdu f s
  | .stu f => Sys2Proof.Machine.execStu f s
  | .aadd f => Sys2Proof.Machine.execAadd f s
  | .afadd f => Sys2Proof.Machine.execAfadd f s
  | .amin f => Sys2Proof.Machine.execAmin f s
  | .amax f => Sys2Proof.Machine.execAmax f s
  | .aand f => Sys2Proof.Machine.execAand f s
  | .aor f => Sys2Proof.Machine.execAor f s
  | .axor f => Sys2Proof.Machine.execAxor f s
  | .axchg f => Sys2Proof.Machine.execAxchg f s
  | .acas f => Sys2Proof.Machine.execAcas f s
  | .ainc f => Sys2Proof.Machine.execAinc f s
  | .racq => Sys2Proof.Machine.execRacq s
  | .rrel => Sys2Proof.Machine.execRrel s
  | .phase sc => Sys2Proof.Machine.execPhase sc s
  | .fenceX p q => Sys2Proof.Machine.execFenceX p q s
  | .bar n ph g => Sys2Proof.Machine.execBar n ph g s
  | .gbar n ph g => Sys2Proof.Machine.execGbar n ph g s
  | .bara dst n ph gang g => Sys2Proof.Machine.execBara dst n ph gang g s
  | .barw tok n ph gang g => Sys2Proof.Machine.execBarw tok n ph gang g s
  | .itset it part a b g => Sys2Proof.Machine.execItset it part a b g s
  | .itld it a die g => Sys2Proof.Machine.execItld it a die g s
  | .tcopy ctr d a0 cls g => Sys2Proof.Machine.execTcopy ctr d a0 cls g s
  | .fload f => Sys2Proof.Machine.execFload f s
  | .fstore f => Sys2Proof.Machine.execFstore f s
  | .fatom f => Sys2Proof.Machine.execFatom f s
  | .cwait ctr a test g => Sys2Proof.Machine.execCwait ctr a test g s
  | .cadd ctr a g => Sys2Proof.Machine.execCadd ctr a g s
  | .cset ctr a g => Sys2Proof.Machine.execCset ctr a g s
  | .chain f => Sys2Proof.Machine.execChain f s
  | .fill ctr d pat w64 g => Sys2Proof.Machine.execFill ctr d pat w64 g s
  | .mldw a fmt sm mc g => Sys2Proof.Machine.execMldw a fmt sm mc g s
  | .mloop act ctl scale tile mc row0 g => Sys2Proof.Machine.execMloop act ctl scale tile mc row0 g s
  | .mwait tile g => Sys2Proof.Machine.execMwait tile g s
  | .mepi f => Sys2Proof.Machine.execMepi f s
  | .mzero tile int g => Sys2Proof.Machine.execMzero tile int g s
  | .mrd f => Sys2Proof.Machine.execMrd f s
  | .wred f => Sys2Proof.Machine.execWred f s
  | .adjb f => Sys2Proof.Machine.execAdjb f s
  | .rcopy ctr ch d a0 wait g => Sys2Proof.Machine.execRcopy ctr ch d a0 wait g s
  | .tcopyc f => Sys2Proof.Machine.execTcopyc f s
  | .coll dst key g => Sys2Proof.Machine.execColl dst key g s
  | .collw dst tk g => Sys2Proof.Machine.execCollw dst tk g s
  | .collc dst tk g => Sys2Proof.Machine.execCollc dst tk g s
  | .mfsr d sr g => Sys2Proof.Machine.execMfsr d sr g s
  | .mtsr w64 a sr g => Sys2Proof.Machine.execMtsr w64 a sr g s
  | .eret => Sys2Proof.Machine.execEret s
  | .trapi g imm => Sys2Proof.Machine.execTrapi g imm s
  | .bkpt g imm => Sys2Proof.Machine.execBkpt g imm s
  | .ppoint f => Sys2Proof.Machine.execPpoint f s
  | .launch dst a die g => Sys2Proof.Machine.execLaunch dst a die g s
  | .probe dst a kind g => Sys2Proof.Machine.execProbe dst a kind g s
  | .routex fx op f => Sys2Proof.Machine.execRoutex fx op f s
  | .pairIadd h op k => Sys2Proof.Machine.execPairIadd h op k s
  | .pairIsub h op k => Sys2Proof.Machine.execPairIsub h op k s
  | .pairImul h op k => Sys2Proof.Machine.execPairImul h op k s
  | .pairImin h op k => Sys2Proof.Machine.execPairImin h op k s
  | .pairImax h op k => Sys2Proof.Machine.execPairImax h op k s
  | .pairIminu h op k => Sys2Proof.Machine.execPairIminu h op k s
  | .pairImaxu h op k => Sys2Proof.Machine.execPairImaxu h op k s
  | .pairAnd h op k => Sys2Proof.Machine.execPairAnd h op k s
  | .pairOr h op k => Sys2Proof.Machine.execPairOr h op k s
  | .pairXor h op k => Sys2Proof.Machine.execPairXor h op k s
  | .pairAndn h op k => Sys2Proof.Machine.execPairAndn h op k s
  | .pairShl h op k => Sys2Proof.Machine.execPairShl h op k s
  | .pairShr h op k => Sys2Proof.Machine.execPairShr h op k s
  | .pairSar h op k => Sys2Proof.Machine.execPairSar h op k s
  | .pairMov h op k => Sys2Proof.Machine.execPairMov h op k s
  | .pairFadd h op k => Sys2Proof.Machine.execPairFadd h op k s
  | .pairFsub h op k => Sys2Proof.Machine.execPairFsub h op k s
  | .pairFmul h op k => Sys2Proof.Machine.execPairFmul h op k s
  | .pairFmin h op k => Sys2Proof.Machine.execPairFmin h op k s
  | .pairFmax h op k => Sys2Proof.Machine.execPairFmax h op k s
  | .pairHadd2F16 h op k => Sys2Proof.Machine.execPairHadd2F16 h op k s
  | .pairHmul2F16 h op k => Sys2Proof.Machine.execPairHmul2F16 h op k s
  | .pairHadd2Bf16 h op k => Sys2Proof.Machine.execPairHadd2Bf16 h op k s
  | .pairHmul2Bf16 h op k => Sys2Proof.Machine.execPairHmul2Bf16 h op k s
  | .pairFabs h op k => Sys2Proof.Machine.execPairFabs h op k s
  | .pairFneg h op k => Sys2Proof.Machine.execPairFneg h op k s
  | .pairSIadd h op k => Sys2Proof.Machine.execPairSIadd h op k s
  | .pairSIsub h op k => Sys2Proof.Machine.execPairSIsub h op k s
  | .pairSAnd h op k => Sys2Proof.Machine.execPairSAnd h op k s
  | .pairSOr h op k => Sys2Proof.Machine.execPairSOr h op k s
  | .pairSXor h op k => Sys2Proof.Machine.execPairSXor h op k s
  | .pairSShl h op k => Sys2Proof.Machine.execPairSShl h op k s
  | .pairSShr h op k => Sys2Proof.Machine.execPairSShr h op k s
  | .pairSMov h op k => Sys2Proof.Machine.execPairSMov h op k s
  | .intervalPoint => Sys2Proof.Machine.execIntervalPoint s
  | .weftTimesliceSwitch slot => Sys2Proof.Machine.execWeftTimesliceSwitch slot s
  | .bandResume band => Sys2Proof.Machine.execBandResume band s
  | .rsseedWrite seeds => Sys2Proof.Machine.execRsseedWrite seeds s
  | .registerBlockGrant core => Sys2Proof.Machine.execRegisterBlockGrant core s
  | .presenceBitSet cmd place line => Sys2Proof.Machine.execPresenceBitSet cmd place line s
  | .farReplyLand req ans => Sys2Proof.Machine.execFarReplyLand req ans s
  | .fatomReply req ans => Sys2Proof.Machine.execFatomReply req ans s
  | .fstoreComplete req ans => Sys2Proof.Machine.execFstoreComplete req ans s
  | .engineCommandStart cmd => Sys2Proof.Machine.execEngineCommandStart cmd s
  | .engineBytesLand cmd what => Sys2Proof.Machine.execEngineBytesLand cmd what s
  | .engineCommandComplete cmd => Sys2Proof.Machine.execEngineCommandComplete cmd s
  | .engineCommandError cmd err => Sys2Proof.Machine.execEngineCommandError cmd err s
  | .pageInResume who ok => Sys2Proof.Machine.execPageInResume who ok s
  | .phaseComplete band weft => Sys2Proof.Machine.execPhaseComplete band weft s
  | .fenceComplete band weft => Sys2Proof.Machine.execFenceComplete band weft s
  | .matrixCommandStart cmd => Sys2Proof.Machine.execMatrixCommandStart cmd s
  | .matrixCommandComplete cmd => Sys2Proof.Machine.execMatrixCommandComplete cmd s
  | .matrixExecutionError cmd => Sys2Proof.Machine.execMatrixExecutionError cmd s
  | .accumulatorClaim core band => Sys2Proof.Machine.execAccumulatorClaim core band s
  | .matrixResumeClaim core band => Sys2Proof.Machine.execMatrixResumeClaim core band s
  | .weftRetire band weft => Sys2Proof.Machine.execWeftRetire band weft s
  | .bandRetire band => Sys2Proof.Machine.execBandRetire band s
  | .launchPortFirstHalf part port off data => Sys2Proof.Machine.execLaunchPortFirstHalf part port off data s
  | .launchPortSecondHalf part port off data => Sys2Proof.Machine.execLaunchPortSecondHalf part port off data s
  | .launchCounterWrite n v => Sys2Proof.Machine.execLaunchCounterWrite n v s
  | .schedulerSelection part => Sys2Proof.Machine.execSchedulerSelection part s
  | .gangBypassTimeout launch => Sys2Proof.Machine.execGangBypassTimeout launch s
  | .placementWaitExpiry part queue => Sys2Proof.Machine.execPlacementWaitExpiry part queue s
  | .commRaiseStart port => Sys2Proof.Machine.execCommRaiseStart port s
  | .commRaiseEnd port => Sys2Proof.Machine.execCommRaiseEnd port s
  | .launchAbort launch => Sys2Proof.Machine.execLaunchAbort launch s
  | .saveRequest byHost ctx band => Sys2Proof.Machine.execSaveRequest byHost ctx band s
  | .saveDeadlineExpiry band => Sys2Proof.Machine.execSaveDeadlineExpiry band s
  | .saveStart band => Sys2Proof.Machine.execSaveStart band s
  | .saveComplete band => Sys2Proof.Machine.execSaveComplete band s
  | .flushRequest who band => Sys2Proof.Machine.execFlushRequest who band s
  | .contextCreate c => Sys2Proof.Machine.execContextCreate c s
  | .contextDestroy ctx => Sys2Proof.Machine.execContextDestroy ctx s
  | .farRequestSegmentStage req => Sys2Proof.Machine.execFarRequestSegmentStage req s
  | .ualinkInboundRequest q => Sys2Proof.Machine.execUalinkInboundRequest q s
  | .regionStageLookup req => Sys2Proof.Machine.execRegionStageLookup req s
  | .blockStageAccess req => Sys2Proof.Machine.execBlockStageAccess req s
  | .atsTranslationResponse req ans => Sys2Proof.Machine.execAtsTranslationResponse req ans s
  | .priResponse req ok => Sys2Proof.Machine.execPriResponse req ok s
  | .atsInvalidateRequest pasid lo hi => Sys2Proof.Machine.execAtsInvalidateRequest pasid lo hi s
  | .holdQueueRetry req => Sys2Proof.Machine.execHoldQueueRetry req s
  | .xlcmdSet die stage part => Sys2Proof.Machine.execXlcmdSet die stage part s
  | .xlcmdMove die stage part => Sys2Proof.Machine.execXlcmdMove die stage part s
  | .xlcmdRevoke die stage part => Sys2Proof.Machine.execXlcmdRevoke die stage part s
  | .xlcmdClear die stage part => Sys2Proof.Machine.execXlcmdClear die stage part s
  | .xlcmdRetire die stage part => Sys2Proof.Machine.execXlcmdRetire die stage part s
  | .buoyReturn buoy => Sys2Proof.Machine.execBuoyReturn buoy s
  | .moveCopyDone die => Sys2Proof.Machine.execMoveCopyDone die s
  | .moveCopyError die uncorrected => Sys2Proof.Machine.execMoveCopyError die uncorrected s
  | .peerTimeout req => Sys2Proof.Machine.execPeerTimeout req s
  | .creditReapportion port used => Sys2Proof.Machine.execCreditReapportion port used s
  | .tokenBucketTick port => Sys2Proof.Machine.execTokenBucketTick port s
  | .requestEgress port msg => Sys2Proof.Machine.execRequestEgress port msg s
  | .channelPageWrite ch d0 => Sys2Proof.Machine.execChannelPageWrite ch d0 s
  | .channelItemStart ch => Sys2Proof.Machine.execChannelItemStart ch s
  | .channelItemComplete ch => Sys2Proof.Machine.execChannelItemComplete ch s
  | .channelItemError ch err => Sys2Proof.Machine.execChannelItemError ch err s
  | .communicatorRegister num members watermark => Sys2Proof.Machine.execCommunicatorRegister num members watermark s
  | .beaconKeyRequest comm call acc ask => Sys2Proof.Machine.execBeaconKeyRequest comm call acc ask s
  | .collTicketLand ctx slot number => Sys2Proof.Machine.execCollTicketLand ctx slot number s
  | .collectiveRankStart ctx slot number => Sys2Proof.Machine.execCollectiveRankStart ctx slot number s
  | .bankAdderCombine ctx slot rank elem vals => Sys2Proof.Machine.execBankAdderCombine ctx slot rank elem vals s
  | .rankStateReport number rank state => Sys2Proof.Machine.execRankStateReport number rank state s
  | .beaconCancel number by_ answer => Sys2Proof.Machine.execBeaconCancel number by_ answer s
  | .collectiveTimeout number => Sys2Proof.Machine.execCollectiveTimeout number s
  | .memberLossAbort number => Sys2Proof.Machine.execMemberLossAbort number s
  | .transferErrorAbort number own => Sys2Proof.Machine.execTransferErrorAbort number own s
  | .collectiveAbortReceived number part reason => Sys2Proof.Machine.execCollectiveAbortReceived number part reason s
  | .beaconHeartbeat => Sys2Proof.Machine.execBeaconHeartbeat s
  | .standbyTakeover => Sys2Proof.Machine.execStandbyTakeover s
  | .beaconPromoteCommand => Sys2Proof.Machine.execBeaconPromoteCommand s
  | .lanternRequestRetry req id => Sys2Proof.Machine.execLanternRequestRetry req id s
  | .beaconLoss => Sys2Proof.Machine.execBeaconLoss s
  | .patrolScrub unit index addr badSymbols => Sys2Proof.Machine.execPatrolScrub unit index addr badSymbols s
  | .berWindowEnd port counts => Sys2Proof.Machine.execBerWindowEnd port counts s
  | .linkWidthSwitch port => Sys2Proof.Machine.execLinkWidthSwitch port s
  | .partnerWidthRequest port lanes => Sys2Proof.Machine.execPartnerWidthRequest port lanes s
  | .partnerWidthRefusal port => Sys2Proof.Machine.execPartnerWidthRefusal port s
  | .laneRetrainDone port lane => Sys2Proof.Machine.execLaneRetrainDone port lane s
  | .laneRetrainFail port lane => Sys2Proof.Machine.execLaneRetrainFail port lane s
  | .hbmScheduleDecision stack chan => Sys2Proof.Machine.execHbmScheduleDecision stack chan s
  | .pallocAllocate stack part chan bank row cnt => Sys2Proof.Machine.execPallocAllocate stack part chan bank row cnt s
  | .pallocGuard stack chan bank row cnt => Sys2Proof.Machine.execPallocGuard stack chan bank row cnt s
  | .pallocFree stack chan bank row cnt => Sys2Proof.Machine.execPallocFree stack chan bank row cnt s
  | .pallocQuery stack chan bank row => Sys2Proof.Machine.execPallocQuery stack chan bank row s
  | .hbmCrcWindow stack count => Sys2Proof.Machine.execHbmCrcWindow stack count s
  | .hbmRetrainRequest stack => Sys2Proof.Machine.execHbmRetrainRequest stack s
  | .hbmRetrainDeadline stack => Sys2Proof.Machine.execHbmRetrainDeadline stack s
  | .hbmRetrainDone stack micros => Sys2Proof.Machine.execHbmRetrainDone stack micros s
  | .packageReset => Sys2Proof.Machine.execPackageReset s
  | .firmwareImageLoad kind header payload => Sys2Proof.Machine.execFirmwareImageLoad kind header payload s
  | .svnRaise kind svn => Sys2Proof.Machine.execSvnRaise kind svn s
  | .attestationRequest nonce => Sys2Proof.Machine.execAttestationRequest nonce s
  | .partitionReset part => Sys2Proof.Machine.execPartitionReset part s
  | .powerControlTick pavg iavg tj => Sys2Proof.Machine.execPowerControlTick pavg iavg tj s
  | .currentStep amps => Sys2Proof.Machine.execCurrentStep amps s
  | .thermalWarn die tj => Sys2Proof.Machine.execThermalWarn die tj s
  | .thermalThrottle die tj => Sys2Proof.Machine.execThermalThrottle die tj s
  | .thermalShutdown die tj => Sys2Proof.Machine.execThermalShutdown die tj s
  | .keeperRegisterWrite r v => Sys2Proof.Machine.execKeeperRegisterWrite r v s
  | .nearFarSideReplyLand band weft reply => Sys2Proof.Machine.execNearFarSideReplyLand band weft reply s
  | .linkLayerReplay port => Sys2Proof.Machine.execLinkLayerReplay port s
  | .creditReturn port vc n => Sys2Proof.Machine.execCreditReturn port vc n s
  | .communicatorRemove num => Sys2Proof.Machine.execCommunicatorRemove num s
  | .partitionForm p => Sys2Proof.Machine.execPartitionForm p s
  | .cxlHostWrite addr data => Sys2Proof.Machine.execCxlHostWrite addr data s

end Sys2Proof.Machine
end

