-- ==== Sys2Proof/Machine/Load.lean ====
section
/-! DEFINITION. A program placed from outside the machine (log 9): one band of one weft on core 0, in partition 0 and
context 0, about to fetch at code address 0. -/
namespace Sys2Proof.Machine

/-- The record of the band that runs a placed instruction: width 16, one weft, 256 base registers, the whole band scratchpad
and 4096 spill bytes a lane. -/
def loadRecord : LRec :=
  [0, 0, BitVec.ofNat 64 (32 * 2 ^ 32 + 2 ^ 8), BitVec.ofNat 64 (64 * 2 ^ 20 + Config.bandPad), 0, 0, 0, 0, 0, 0, 0, 0, 0, 0, 0, 0]

/-- The translation tables of the placed code: segment 0 at address 0, region 0 at 0x1000, block 0 at 0x2000, which leads to
row 2 of bank 0 of stack 0, and the code there. -/
def loadTables (m : Mem) (code : List Byte) : Mem :=
  let m := Mem.write m 0 (leBytes 8 (2 ^ 60 + 15 * 2 ^ 54) ++ leBytes 8 0x1000)
  let m := Mem.write m 0x1000 (leBytes 8 (2 ^ 60) ++ leBytes 8 0x2000)
  let m := Mem.write m 0x2000 (leBytes 8 (2 ^ 60 + 2 * 2 ^ 20))
  Mem.write m 0x4000 code

/-- Place the words of one instruction, least significant byte first, where the next step fetches. -/
def State.placeProgram (s : State) (w : Nat) : State :=
  let part : Partition := ⟨[0], false, [], [], 63, false⟩
  let ctx : Context := ⟨0, 0, 4096, 0, [0], 2 ^ 20, 2 ^ 20, 0, 0, [], [], [], []⟩
  {
    (s.kset (.pseg 0) 0).kset .bootst (maskBits 63 63) with
    turns := [.slot 0 0]
    cur := none
    stamp := max s.stamp 1
    parts := SMap.insert s.parts 0 part
    ctxs := SMap.insert s.ctxs 0 ctx
    hbm := loadTables s.hbm (leBytes 24 w)
    tags := SMap.set (SMap.set (SMap.set s.tags 31 0 0) 31 1 0) 31 2 0
    bands := SMap.insert s.bands 0 (mkBand loadRecord 0 0 0 0 0 0 s.clock s.now [])
    gangs := SMap.insert s.gangs 0 ⟨[0], []⟩
    cores := SMap.set s.cores Core.idle 0 { s.core 0 with serving := SMap.insert (s.core 0).serving 0 (0, 0) } }

end Sys2Proof.Machine
end

