-- ==== Sys2Proof/Machine/Pending.lean ====
section
/-! DEFINITION. The events that the package's own agents may have ready, in the order in which a step looks for one (log 2). A
listed event whose conditions do not hold is passed over. What comes from outside the package is never listed. -/
namespace Sys2Proof.Machine

/-- An event that may be ready, as its meaning. -/
abbrev Ready := State → Out

/-- The events of engine commands and channels. -/
def State.engineReady (s : State) : List Ready :=
  s.cmds.flatMap (fun e =>
    e.2.lines.map (fun l =>
      let place := match l.2.place with
        | .band b => 2 * b
        | .die c d => 2 * (4 * c + d) + 1
        | _ => 1
      execPresenceBitSet e.1 place l.2.line)
    ++ [execEngineCommandComplete e.1, execEngineCommandError e.1 .own, execEngineBytesLand e.1 (.work 0), execEngineCommandStart e.1])
  ++ s.chans.flatMap (fun e => if e.2.items.isEmpty then [] else
    [execChannelItemComplete e.1, execChannelItemError e.1 .own, execChannelItemStart e.1])

/-- How a request that has ended on this device goes back to its requester (R205, R223, R224). -/
def FarReq.ready (id : Nat) (r : FarReq) : List Ready :=
  match r.who with
  | .engine c => [execEngineBytesLand c (.answer id .here)]
  | _ => [execFarReplyLand id .here, execFatomReply id .here, execFstoreComplete id .here]

/-- The next event of a far request (R312 to R322, R373). -/
def State.reqReady (s : State) (id : Nat) (r : FarReq) : List Ready :=
  match r.stage with
  | .segment => [execFarRequestSegmentStage id]
  | .region _ _ => [execRegionStageLookup id]
  | .block _ _ _ _ => [execBlockStageAccess id]
  | .channel st ch _ _ _ => [execHbmScheduleDecision st ch]
  | .retry k => if s.heldAt k r < 256 then [execHoldQueueRetry id] else []
  | .egress p => [execRequestEgress p (.req id), execPeerTimeout id]
  | .sent _ => [execPeerTimeout id]
  | .performed _ | .stored _ | .failed _ => r.ready id
  | .probed _ => [execFarReplyLand id .here]
  | .respond _ => match r.who with
    | .peer _ _ p => [execRequestEgress p (.req id)]
    | _ => []
  | _ => []

/-- The events of a weft. -/
def Weft.ready (b i : Nat) (w : Weft) : List Ready :=
  w.replies.map (fun r => execNearFarSideReplyLand b i r.id)
    ++ (if w.phase.isSome then [execPhaseComplete b i] else []) ++ (if w.fences.isEmpty then [] else [execFenceComplete b i])
    ++ (if w.isOver then [execWeftRetire b i] else [])

/-- The events of a band. -/
def Band.ready (b : Nat) (bd : Band) : List Ready :=
  (bd.wefts.mapIdx (fun i w => w.ready b i)).flatten
    ++ (if bd.mq.isEmpty then [] else [execMatrixResumeClaim bd.core b]) ++ [execAccumulatorClaim bd.core b]
    ++ bd.mq.flatMap (fun m => [execMatrixCommandStart m.id, execMatrixCommandComplete m.id, execMatrixExecutionError m.id])
    ++ (match bd.save with
      | some v => [execFlushRequest v.flushWho b, execSaveDeadlineExpiry b, execSaveStart b]
      | none => [])
    ++ (if bd.state == .saving then [execSaveComplete b] else []) ++ [execBandRetire b]

/-- The events of this device's tickets and of the beacon's numbers that need nothing from outside (R337 to R345). -/
def State.collEvents (s : State) : List Ready :=
  let here := s.beaconTable
  let tickets := s.ctxs.flatMap (fun c => c.2.tickets.flatMap (fun t =>
    match t.2.number, s.keyNumber t.2.comm t.2.call with
    | none, none => if here then [execBeaconKeyRequest t.2.comm t.2.call s.accel ⟨c.2.part, none⟩] else []
    | none, some (n, _) => if here then [execCollTicketLand c.1 t.1 (BitVec.ofNat 48 n)] else []
    | some n, _ => [execCollectiveRankStart c.1 t.1 n, execTransferErrorAbort n (some (c.1, t.1, .own))]))
  let cancels := if here then s.cancels.map (fun e => execBeaconCancel e.2.number (some e.1) 0) else []
  let numbers := s.numbers.flatMap (fun e =>
    let n := BitVec.ofNat 48 e.1
    let ranks := (List.range e.2.ranks.length).filter (fun r =>
      (((SMap.find? s.comms e.2.comm).bind (fun c => c.members[r]?)).map (fun m => m.acc == s.accel)).getD false)
    if !here || e.2.state == .done then [] else
    (if e.2.mine.any (fun x => x.2 == .aborted 5) then [execTransferErrorAbort n none] else [])
      ++ (s.myParts e.2.comm).map (fun p => execCollectiveAbortReceived n p e.2.reason)
      ++ ranks.flatMap (fun r => [execRankStateReport n r 1, execRankStateReport n r 2, execRankStateReport n r 3, execRankStateReport n r 4])
      ++ (if s.beaconRuns then [execCollectiveTimeout n] else []))
  tickets ++ cancels ++ numbers ++ (if s.beaconRuns then [execBeaconHeartbeat] else []) ++ [execStandbyTakeover]

/-- The events of ports, stacks and translation commands. -/
def State.unitReady (s : State) : List Ready :=
  s.ports.flatMap (fun e => [execTokenBucketTick e.1, execCommRaiseEnd e.1, execCommRaiseStart e.1])
    ++ s.hbmIf.flatMap (fun e => if e.2.requested.isSome then [execHbmRetrainRequest e.1, execHbmRetrainDeadline e.1] else [])
    ++ s.buoys.map (fun e => execBuoyReturn e.1) ++ s.xl.flatMap (fun e => [execMoveCopyDone e.1, execMoveCopyError e.1 false])
    ++ s.cores.flatMap (fun e => if e.2.grants.isEmpty then [] else [execRegisterBlockGrant e.1])
    ++ s.launches.map (fun e => execGangBypassTimeout e.1) ++ s.parts.map (fun e => execSchedulerSelection e.1)
    ++ s.parts.flatMap (fun e => e.2.queues.map (fun q => execPlacementWaitExpiry e.1 q.1))
    ++ (s.parts.filter (fun e => e.2.resetting)).map (fun e => execPartitionReset e.1)

/-- The time slices that may be over (R63). -/
def State.sliceReady (s : State) : List Ready := s.activeSlots.map (fun x => execWeftTimesliceSwitch (4 * x.1 + x.2))

/-- The events that may be ready. -/
def State.pending (s : State) : List Ready :=
  s.engineReady ++ s.reqs.flatMap (fun e => s.reqReady e.1 e.2) ++ s.bands.flatMap (fun e => e.2.ready e.1) ++ s.collEvents
    ++ s.unitReady ++ s.sliceReady

end Sys2Proof.Machine
end

