-- ==== Sys2Proof/Machine/Step.lean ====
section
/-! DEFINITION. One step of the package: the next word of an issue slot, or the next event (log 2). -/
namespace Sys2Proof.Machine

/-- One step. -/
def step (s : State) : Host.Outcome State Fault Refusal := s.advance exec State.pending State.prioOf State.chance

/-- The state with one instruction placed where the next step fetches (log 9). -/
def State.withFetchWord (s : State) (nbits w : Nat) : State := s.placeProgram (w % 2 ^ nbits)

end Sys2Proof.Machine
end

