-- ==== Sys2Proof/Safety.lean ====
section
/-! DEFINITION. What the statements are said in: a step that goes on, a weft that stands at a word, what a word leaves
alone, and the canonical form of memory. -/
namespace Sys2Proof.Safety
open Sys2Proof.Machine

/-- `exec i s` answers a next state, of which `P` holds. -/
def Goes (i : Instr) (s : State) (P : State → Prop) : Prop := ∃ t, exec i s = .next t ∧ P t

/-- Weft `i` of band `b` is the weft that issues and stands before a word whose needs are `n`: its bundle is formed, the
word passes the decode-time checks of groups 7, 3 and 4 (R36), and no register or latch entry that it reads awaits a reply
(R63, R65). -/
structure Issues (s : State) (b i : Nat) (bd : Band) (w : Weft) (n : Needs) : Prop where
  current : s.current = some (b, i, bd, w)
  checks : preCheck bd w n = none
  awaits : w.awaits n.keys = false
  latches : w.latchAwaits n.latch = false

/-- No register of the weft is marked failed (R217) and no exception is enabled (R96): its lane words raise nothing. -/
structure Calm (w : Weft) : Prop where
  failed : w.failed = []
  enables : enables w.flags = 0

/-- A lane acts: it lies in the bundle and its guard is true (R20). -/
def Acts (w : Weft) (g : Guard) (l : Nat) : Prop := l < w.width ∧ (w.act g).getLsbD l = true

/-- The lowest acting lane that is not a helper: the lane that a word which acts once reads its operands from. -/
def Leads (w : Weft) (g : Guard) (l : Nat) : Prop := (w.nonHelpers (w.act g)).head? = some l

/-- Every lane of the bundle stands `n` bytes further on. -/
def Moved (w w' : Weft) (n : Nat) : Prop :=
  ∀ l, l < w.lanes.length → w.bundle.getLsbD l = true → (w'.lane l).pc = (w.lane l).pc + BitVec.ofNat 64 n

/-- Every lane stands where it stood. -/
def Stays (w w' : Weft) : Prop := ∀ l, (w'.lane l).pc = (w.lane l).pc

/-- A 32-bit result (R21, R23): each acting lane has it in the destination, but under nwb, and in the newest latch entry. -/
def Result32 (w w' : Weft) (g : Guard) (dst : Nat) (nwb : Bool) (val : Nat → W32) : Prop :=
  ∀ l, Acts w g l →
    w'.vget dst l = (if nwb then w.vget dst l else val l) ∧ w'.latchVal 0 l = (val l).setWidth 64

/-- A 64-bit result in a v pair (R21, R23). -/
def Result64 (w w' : Weft) (g : Guard) (dst : Nat) (nwb : Bool) (val : Nat → W64) : Prop :=
  ∀ l, Acts w g l →
    w'.vget64 dst l = (if nwb then w.vget64 dst l else val l) ∧ w'.latchVal 0 l = val l

/-- A predicate result: each acting lane's bit is the result, every other lane's is what it was (R13). -/
def ResultP (w w' : Weft) (g : Guard) (dst : Nat) (val : Nat → Bool) : Prop :=
  (∀ l, Acts w g l → (w'.pget dst).getLsbD l = val l) ∧
    ∀ l, l < 64 → (w.act g).getLsbD l = false → (w'.pget dst).getLsbD l = (w.pget dst).getLsbD l

/-- The weft at (b, i) after a step. -/
def Now (t : State) (b i : Nat) (P : Weft → Prop) : Prop := ∃ w, t.weft? b i = some w ∧ P w

/-- What no lane word that traps nowhere changes: everything outside its own weft but the core's cycle count. -/
structure OnlyWeft (s t : State) (b i : Nat) : Prop where
  rest : t = { s with bands := t.bands, cycle := t.cycle }
  bands : ∀ c, c ≠ b → t.band? c = s.band? c
  band : ∀ bd, s.band? b = some bd → ∃ ws, t.band? b = some { bd with wefts := ws } ∧
    ∀ j, j ≠ i → ws[j]? = bd.wefts[j]?

/-- Byte `a` of a place reads as before. -/
def SameByte (s t : State) (p : Place) (a : Nat) : Prop := Mem.get (t.mem p) a = Mem.get (s.mem p) a

/-- Every byte of every near and far memory reads as before. -/
def SameMemory (s t : State) : Prop := ∀ p a, SameByte s t p a

/-- The memories of the package and of the host are in canonical form. -/
def MemoryWf (s : State) : Prop := Mem.wf s.hbm = true ∧ Mem.wf s.host = true

end Sys2Proof.Safety
end

