-- ==== Sys2Proof/Certificates/Slice0/Obligations.lean ====
section
/-! DEFINITION. The statements for the provers, with the tables of results that they are said in. -/
open Sys2Proof Sys2Proof.Machine Sys2Proof.Safety

namespace Sys2Proof.Claims

/-- What an F3 row of a table of results says: the opcode, its constructor, and its value from the sources A, B and C. -/
structure Row32 where
  op : F3Op
  ins : F3 → Instr
  val : F3 → W32 → W32 → W32 → W32

/-- The 32-bit result of an F3 word in a lane. -/
def Row32.at_ (r : Row32) (f : F3) (w : Weft) (l : Nat) : W32 :=
  let i := f3In r.op f none w
  r.val f (i.a32 l) (i.b32 l) (i.c32 l)

/-- x held between -2^31 and 2^31 - 1 (R92). -/
def sat32 (x : Int) : W32 := BitVec.ofInt 32 (max (-2 ^ 31) (min (2 ^ 31 - 1) x))

/-- The .sat form's value, or the wrapped one (R102, R103). -/
def orSat (f : F3) (x : Int) : W32 := if f.sat then sat32 x else BitVec.ofInt 32 x

/-- The word of given bits. -/
def word32 (p : Nat → Bool) : W32 := BitVec.ofNat 32 ((List.range 32).foldl (fun a k => a + if p k then 2 ^ k else 0) 0)

/-- The number of one bits. -/
def ones (a : W32) : Nat := ((List.range 32).filter (fun k => a.getLsbD k)).length

/-- A bit field of `wid` bits from `pos`, clipped at bit 31 (R107). -/
def fieldWid (pos wid : Nat) : Nat := min (min wid 32) (32 - pos)

/-- The field that a BFX reads, as a number. -/
def fieldNat (a b c : W32) : Nat := a.toNat / 2 ^ (b.toNat % 32) % 2 ^ fieldWid (b.toNat % 32) (c.toNat % 64)

/-- The results of R103 and R107. -/
def intRows : List Row32 := [
  ⟨.iadd, .iadd, fun f a b _ => orSat f (a.toInt + b.toInt)⟩,
  ⟨.isub, .isub, fun f a b _ => orSat f (a.toInt - b.toInt)⟩,
  ⟨.imul, .imul, fun _ a b _ => a * b⟩,
  ⟨.imulh, .imulh, fun _ a b _ => BitVec.ofInt 32 (a.toInt * b.toInt / 2 ^ 32)⟩,
  ⟨.imulhu, .imulhu, fun _ a b _ => BitVec.ofNat 32 (a.toNat * b.toNat / 2 ^ 32)⟩,
  ⟨.imad, .imad, fun _ a b c => a * b + c⟩,
  ⟨.ineg, .ineg, fun f a _ _ => orSat f (-a.toInt)⟩,
  ⟨.iabs, .iabs, fun f a _ _ => orSat f (max a.toInt (-a.toInt))⟩,
  ⟨.imin, .imin, fun _ a b _ => BitVec.ofInt 32 (min a.toInt b.toInt)⟩,
  ⟨.imax, .imax, fun _ a b _ => BitVec.ofInt 32 (max a.toInt b.toInt)⟩,
  ⟨.iminu, .iminu, fun _ a b _ => BitVec.ofNat 32 (min a.toNat b.toNat)⟩,
  ⟨.imaxu, .imaxu, fun _ a b _ => BitVec.ofNat 32 (max a.toNat b.toNat)⟩,
  ⟨.and, .and, fun _ a b _ => a &&& b⟩,
  ⟨.or, .or, fun _ a b _ => a ||| b⟩,
  ⟨.xor, .xor, fun _ a b _ => a ^^^ b⟩,
  ⟨.andn, .andn, fun _ a b _ => a &&& ~~~b⟩,
  ⟨.not, .not, fun _ a _ _ => ~~~a⟩,
  ⟨.shl, .shl, fun _ a b _ => a <<< b.toNat⟩,
  ⟨.shr, .shr, fun _ a b _ => a >>> b.toNat⟩,
  ⟨.sar, .sar, fun _ a b _ => BitVec.ofInt 32 (a.toInt / 2 ^ min b.toNat 31)⟩,
  ⟨.rotl, .rotl, fun _ a b _ => a.rotateLeft (b.toNat % 32)⟩,
  ⟨.funnel, .funnel, fun _ a b c => ((a ++ b) >>> (c.toNat % 32)).setWidth 32⟩,
  ⟨.bfxu, .bfxu, fun _ a b c => BitVec.ofNat 32 (fieldNat a b c)⟩,
  ⟨.bfx, .bfx, fun _ a b c =>
    let n := fieldWid (b.toNat % 32) (c.toNat % 64)
    if n = 0 then 0 else BitVec.ofInt 32 (Int.bmod (fieldNat a b c) (2 ^ n))⟩,
  ⟨.bfi, .bfi, fun _ a b c =>
    let pos := c.toNat % 32
    let n := fieldWid pos (c.toNat / 256 % 64)
    word32 (fun k => if pos ≤ k ∧ k < pos + n then a.getLsbD (k - pos) else b.getLsbD k)⟩,
  ⟨.popc, .popc, fun _ a _ _ => BitVec.ofNat 32 (ones a)⟩,
  ⟨.clz, .clz, fun _ a _ _ => BitVec.ofNat 32 (32 - (if a = 0 then 0 else Nat.log2 a.toNat + 1))⟩,
  ⟨.brev, .brev, fun _ a _ _ => a.reverse⟩ ]

/-- Element k of packed elements of a format. -/
def elemOf (f : Fmt) (x : W32) (k : Nat) : Int := f.toInt (x.toNat / 2 ^ (f.width * k))

/-- A dot product without saturation (R106): the wrapped sum. -/
def dotWrap (f : Fmt) (a b c : W32) : W32 :=
  BitVec.ofInt 32 ((List.range (32 / f.width)).foldl (fun t k => t + elemOf f a k * elemOf f b k) c.toInt)

/-- A dot product with saturation at every step (R106). -/
def dotSat (f : Fmt) (a b c : W32) : W32 :=
  (List.range (32 / f.width)).foldl (fun (t : W32) k => sat32 (t.toInt + elemOf f a k * elemOf f b k)) c

/-- The results of R106. -/
def dotRows : List Row32 := [
  ⟨.dot4i8, .dot4i8, fun _ => dotWrap .s8⟩, ⟨.dot8i4, .dot8i4, fun _ => dotWrap .s4⟩,
  ⟨.dot4i8Sat, .dot4i8Sat, fun _ => dotSat .s8⟩, ⟨.dot8i4Sat, .dot8i4Sat, fun _ => dotSat .s4⟩ ]

/-- The rounding mode of a word's modifier field (R84). -/
def rndOf (f : F3) : Rnd := Rnd.ofCode f.rnd.val

/-- A result's encoding. -/
def bitsOf (r : Res) : W32 := BitVec.ofNat 32 r.bits

/-- Two halves, each by a function of the halves of the sources (R134). -/
def byHalf (g : Nat → Nat → Nat → Res) (a b c : W32) : W32 :=
  BitVec.ofNat 32 ((g (a.toNat / 65536) (b.toNat / 65536) (c.toNat / 65536)).bits * 65536
    + (g (a.toNat % 65536) (b.toNat % 65536) (c.toNat % 65536)).bits)

/-- The type of the halves of HADD2 and HMUL2. -/
def halfOf (f : F3) : FInfo := if f.ext.val % 2 = 1 then .bf16 else .f16

/-- The results of R127 to R134 that one operation of the arithmetic gives. -/
def floatRows : List Row32 := [
  ⟨.fadd, .fadd, fun f a b _ => bitsOf (FInfo.f32.fadd (rndOf f) a.toNat b.toNat)⟩,
  ⟨.fsub, .fsub, fun f a b _ => bitsOf (FInfo.f32.fsub (rndOf f) a.toNat b.toNat)⟩,
  ⟨.fmul, .fmul, fun f a b _ => bitsOf (FInfo.f32.fmul (rndOf f) a.toNat b.toNat)⟩,
  ⟨.fmin, .fmin, fun _ a b _ => bitsOf (fminmax false a.toNat b.toNat)⟩,
  ⟨.fmax, .fmax, fun _ a b _ => bitsOf (fminmax true a.toNat b.toNat)⟩,
  ⟨.fabs, .fabs, fun _ a _ _ =>
    if (FInfo.f32.unpack a.toNat).isNan then 0x7FC00000 else a &&& 0x7FFFFFFF⟩,
  ⟨.fneg, .fneg, fun _ a _ _ =>
    if (FInfo.f32.unpack a.toNat).isNan then 0x7FC00000 else a ^^^ 0x80000000⟩,
  ⟨.fclass, .fclass, fun _ a _ _ => fclass a.toNat⟩,
  ⟨.frnd, .frnd, fun f a _ _ => bitsOf (frnd (rndOf f) a.toNat)⟩,
  ⟨.fscale, .fscale, fun f a b _ => bitsOf (fscale (rndOf f) a.toNat b.toInt)⟩,
  ⟨.fexpn, .fexpn, fun _ a _ _ => (fexpn a.toNat).1⟩,
  ⟨.hadd2, .hadd2, fun f a b c => byHalf (fun x y _ => (halfOf f).fadd (rndOf f) x y) a b c⟩,
  ⟨.hmul2, .hmul2, fun f a b c => byHalf (fun x y _ => (halfOf f).fmul (rndOf f) x y) a b c⟩,
  ⟨.ffmaRne, .ffmaRne, fun _ a b c => bitsOf (FInfo.f32.fma .rne a.toNat b.toNat c.toNat)⟩,
  ⟨.ffmaRz, .ffmaRz, fun _ a b c => bitsOf (FInfo.f32.fma .rz a.toNat b.toNat c.toNat)⟩,
  ⟨.ffmaRd, .ffmaRd, fun _ a b c => bitsOf (FInfo.f32.fma .rd a.toNat b.toNat c.toNat)⟩,
  ⟨.ffmaRu, .ffmaRu, fun _ a b c => bitsOf (FInfo.f32.fma .ru a.toNat b.toNat c.toNat)⟩,
  ⟨.hfma2F16Rne, .hfma2F16Rne, fun _ => byHalf (FInfo.f16.fma .rne)⟩,
  ⟨.hfma2F16Rz, .hfma2F16Rz, fun _ => byHalf (FInfo.f16.fma .rz)⟩,
  ⟨.hfma2F16Rd, .hfma2F16Rd, fun _ => byHalf (FInfo.f16.fma .rd)⟩,
  ⟨.hfma2F16Ru, .hfma2F16Ru, fun _ => byHalf (FInfo.f16.fma .ru)⟩,
  ⟨.hfma2Bf16Rne, .hfma2Bf16Rne, fun _ => byHalf (FInfo.bf16.fma .rne)⟩,
  ⟨.hfma2Bf16Rz, .hfma2Bf16Rz, fun _ => byHalf (FInfo.bf16.fma .rz)⟩,
  ⟨.hfma2Bf16Rd, .hfma2Bf16Rd, fun _ => byHalf (FInfo.bf16.fma .rd)⟩,
  ⟨.hfma2Bf16Ru, .hfma2Bf16Ru, fun _ => byHalf (FInfo.bf16.fma .ru)⟩,
  ⟨.fdot2F16Rne, .fdot2F16Rne, fun _ a b c => bitsOf (fdot2 .f16 .rne a.toNat b.toNat c.toNat)⟩,
  ⟨.fdot2F16Rz, .fdot2F16Rz, fun _ a b c => bitsOf (fdot2 .f16 .rz a.toNat b.toNat c.toNat)⟩,
  ⟨.fdot2F16Rd, .fdot2F16Rd, fun _ a b c => bitsOf (fdot2 .f16 .rd a.toNat b.toNat c.toNat)⟩,
  ⟨.fdot2F16Ru, .fdot2F16Ru, fun _ a b c => bitsOf (fdot2 .f16 .ru a.toNat b.toNat c.toNat)⟩,
  ⟨.fdot2Bf16Rne, .fdot2Bf16Rne, fun _ a b c => bitsOf (fdot2 .bf16 .rne a.toNat b.toNat c.toNat)⟩,
  ⟨.fdot2Bf16Rz, .fdot2Bf16Rz, fun _ a b c => bitsOf (fdot2 .bf16 .rz a.toNat b.toNat c.toNat)⟩,
  ⟨.fdot2Bf16Rd, .fdot2Bf16Rd, fun _ a b c => bitsOf (fdot2 .bf16 .rd a.toNat b.toNat c.toNat)⟩,
  ⟨.fdot2Bf16Ru, .fdot2Bf16Ru, fun _ a b c => bitsOf (fdot2 .bf16 .ru a.toNat b.toNat c.toNat)⟩ ]

/-- The special functions (R142). -/
def specialRows : List Row32 :=
  let row := fun (op : F3Op) (mk : F3 → Instr) (fn : SFn) => (⟨op, mk, fun f a _ _ => bitsOf (fn.eval (rndOf f) a.toNat)⟩ : Row32)
  [row .rcp .rcp .rcp, row .rsq .rsq .rsq, row .sqrt .sqrt .sqrt, row .exp2 .exp2 .exp2, row .log2 .log2 .log2,
   row .sin .sin .sin, row .cos .cos .cos, row .tanh .tanh .tanh, row .sigm .sigm .sigm, row .erf .erf .erf]

/-- A row of 64-bit results. -/
structure Row64 where
  op : F3Op
  ins : F3 → Instr
  val : F3 → W64 → W64 → W64 → W64

/-- R105: IMADW, IADD64 and LEA write v pairs. Narrow sources come zero-extended to 64 bits. -/
def wideRows : List Row64 := [
  ⟨.imadw, .imadw, fun _ a b c => BitVec.ofInt 64 ((a.setWidth 32).toInt * (b.setWidth 32).toInt + c.toInt)⟩,
  ⟨.iadd64, .iadd64, fun _ a b _ => a + b⟩,
  ⟨.lea, .lea, fun f a b _ => a + ((b.setWidth 32).signExtend 64 <<< f.ext.val)⟩ ]

/-- A row of predicate results. -/
structure RowP where
  op : F3Op
  ins : F3 → Instr
  val : F3 → Weft → Nat → Bool

/-- Whether every contributing lane (R152), or some of them, holds a predicate. -/
def contributes (w : Weft) (g : Guard) (p : Nat → Bool) : Bool := (w.nonHelpers (w.act g)).all p

/-- The predicate that a source field names. -/
def predOf (w : Weft) (x : Src) (l : Nat) : Bool :=
  match x with
  | .pred p => (w.pget p.val).getLsbD l
  | _ => false

/-- The results of R47, R108, R112, R130 and R153. -/
def predRows : List RowP := [
  ⟨.icmp, .icmp, fun f w l =>
    let x := f3In .icmp f none w
    icmpCond f.ext.val (x.a32 l) (x.b32 l)⟩,
  ⟨.fcmp, .fcmp, fun f w l =>
    let x := f3In .fcmp f none w
    (fcmp f.ext.val (x.a32 l).toNat (x.b32 l).toNat).1⟩,
  ⟨.pand, .pand, fun f w l => predOf w f.a l && predOf w f.b l⟩,
  ⟨.por, .por, fun f w l => predOf w f.a l || predOf w f.b l⟩,
  ⟨.pxor, .pxor, fun f w l => predOf w f.a l ^^ predOf w f.b l⟩,
  ⟨.pnot, .pnot, fun f w l => !predOf w f.a l⟩,
  ⟨.pmov, .pmov, fun f w l => predOf w f.a l⟩,
  ⟨.vote, .vote, fun f w _ =>
    match f.ext.val % 8 with
    | 0 => contributes w f.guard (predOf w f.a)
    | 1 => !contributes w f.guard (fun l => !predOf w f.a l)
    | _ => contributes w f.guard (predOf w f.a) || contributes w f.guard (fun l => !predOf w f.a l)⟩ ]

/-- The quad position that QSWAP reads (R27, R151). -/
def swapLane (f : F3) (l : Nat) : Nat := l / 4 * 4 + (l % 4 ^^^ (f.ext.val + 1))

/-- The result of a word of R108, R109, R151 and R155 that writes 32 bits. -/
def moveRows : List (F3Op × (F3 → Instr) × (F3 → Weft → Nat → W32)) := [
  (.sel, .sel, fun f w l =>
    let x := f3In .sel f none w
    if (w.pget (f.ext.val % 8)).getLsbD l = (f.ext.val / 8 % 2 == 0) then x.a32 l else x.b32 l),
  (.qswap, .qswap, fun f w l => (f3In .qswap f none w).a32 (swapLane f l)),
  (.qbcst, .qbcst, fun f w l => (f3In .qbcst f none w).a32 (l / 4 * 4 + f.ext.val % 4)),
  (.lanemask, .lanemask, fun f w l =>
    let rel := fun (h : Nat) => match f.ext.val % 8 with
      | 0 => decide (h = l) | 1 => decide (h < l) | 2 => decide (h ≤ l) | 3 => decide (l < h) | _ => decide (l ≤ h)
    let from_ := if f.ext.val / 8 % 2 = 1 then 32 else 0
    word32 (fun k => decide (k + from_ < w.width) && rel (k + from_))) ]

/-- The number that LSTK makes (R111). -/
def stackWord (a b c : W32) : W64 :=
  BitVec.ofNat 64 (a.toNat % 2 ^ 16 * 2 ^ 48 + b.toNat % 2 ^ 20 * 2 ^ 28 + c.toNat % 2 ^ 28)

/-- The stochastic-rounding state after some steps (R86). -/
def lfsrAfter : Nat → W32 → W32
  | 0, x => x
  | k + 1, x => lfsrNext (lfsrAfter k x)

/-- The steps that elements of a word take: none but under RS (R86). -/
def rsSteps (f : F3) (n : Nat) : Nat := if rndOf f = .rs then n else 0

/-- The draw of a word's element k in a lane: the state that the element's own step produced (R86). -/
def drawOf (f : F3) (w : Weft) (l k : Nat) : Nat := (lfsrAfter (rsSteps f (k + 1)) (w.lane l).rs).toNat

/-- Element k of a register of elements of some width. -/
def elemAt (wid : Nat) (x : W32) (k : Nat) : Nat := x.toNat / 2 ^ (wid * k) % 2 ^ wid

/-- n elements of some width, element 0 lowest (R82). -/
def packed (wid n : Nat) (e : Nat → Nat) : Nat := (List.range n).foldl (fun a k => a + e k * 2 ^ (wid * k)) 0

/-- The elements that a plain conversion converts in a lane (R136). -/
def cvtCount (d s : Fmt) : Nat := min (32 / s.width) (64 / d.width)

/-- The encoding of element k of a plain conversion (R136, R137): of the n elements at the word's position, where the source
holds more than n. -/
def cvtElem (op : F3Op) (f : F3) (d s : Fmt) (w : Weft) (l k : Nat) : Nat :=
  let n := cvtCount d s
  let from_ := if n < 32 / s.width then f.ext.val % 8 * n else 0
  (convert d s (rndOf f) (drawOf f w l k) f.sat (elemAt s.width ((f3In op f none w).a32 l) (from_ + k))).bits

/-- A register with n elements replaced from its element `from_` on; under nwb the others are zero (R136). -/
def merged (wid from_ n : Nat) (nwb : Bool) (old : W32) (e : Nat → Nat) : W32 :=
  BitVec.ofNat 32 (packed wid (32 / wid) (fun k =>
    if from_ ≤ k ∧ k < from_ + n then e (k - from_) else if nwb then 0 else elemAt wid old k))

/-- The source elements of a lane's block (R139): of the contributing lanes in the aligned group of lanes that it lies in. -/
def blockElems (op : F3Op) (f : F3) (s : Fmt) (w : Weft) (l : Nat) : List Val :=
  let g := min s.width w.width
  ((w.nonHelpers (w.act f.guard)).filter (fun k => k / g == l / g)).flatMap (fun k =>
    (List.range (32 / s.width)).map (fun e => s.value (elemAt s.width ((f3In op f none w).a32 k) e)))

/-- A row of the immediate words. -/
structure RowImm where
  k : SrcKind
  ins : FI → Instr
  val : W32 → W32 → W32

/-- The results of R113 and of the FP32 immediate forms (R127), which round to nearest even. -/
def immRows : List RowImm := [
  ⟨.i32, .iaddImm, fun a x => a + x⟩, ⟨.i32, .imulImm, fun a x => a * x⟩, ⟨.i32, .andImm, fun a x => a &&& x⟩,
  ⟨.i32, .orImm, fun a x => a ||| x⟩, ⟨.i32, .xorImm, fun a x => a ^^^ x⟩, ⟨.i32, .shlImm, fun a x => a <<< x.toNat⟩,
  ⟨.i32, .shrImm, fun a x => a >>> x.toNat⟩, ⟨.i32, .sarImm, fun a x => BitVec.ofInt 32 (a.toInt / 2 ^ min x.toNat 31)⟩,
  ⟨.f32, .faddImm, fun a x => bitsOf (FInfo.f32.fadd .rne a.toNat x.toNat)⟩,
  ⟨.f32, .fmulImm, fun a x => bitsOf (FInfo.f32.fmul .rne a.toNat x.toNat)⟩ ]

/-- The result of a v form of a pair half (R48): `a` is the destination's old value, `b` the source. -/
def pairVal (p : PairOp) (a b : W32) : W32 :=
  match p with
  | .iadd => a + b
  | .isub => a - b
  | .imul => a * b
  | .imin => BitVec.ofInt 32 (min a.toInt b.toInt)
  | .imax => BitVec.ofInt 32 (max a.toInt b.toInt)
  | .iminu => BitVec.ofNat 32 (min a.toNat b.toNat)
  | .imaxu => BitVec.ofNat 32 (max a.toNat b.toNat)
  | .and => a &&& b
  | .or => a ||| b
  | .xor => a ^^^ b
  | .andn => a &&& ~~~b
  | .shl => a <<< b.toNat
  | .shr => a >>> b.toNat
  | .sar => BitVec.ofInt 32 (a.toInt / 2 ^ min b.toNat 31)
  | .fadd => bitsOf (FInfo.f32.fadd .rne a.toNat b.toNat)
  | .fsub => bitsOf (FInfo.f32.fsub .rne a.toNat b.toNat)
  | .fmul => bitsOf (FInfo.f32.fmul .rne a.toNat b.toNat)
  | .fmin => bitsOf (fminmax false a.toNat b.toNat)
  | .fmax => bitsOf (fminmax true a.toNat b.toNat)
  | .hadd2F16 => byHalf (fun x y _ => FInfo.f16.fadd .rne x y) a b 0
  | .hmul2F16 => byHalf (fun x y _ => FInfo.f16.fmul .rne x y) a b 0
  | .hadd2Bf16 => byHalf (fun x y _ => FInfo.bf16.fadd .rne x y) a b 0
  | .hmul2Bf16 => byHalf (fun x y _ => FInfo.bf16.fmul .rne x y) a b 0
  | .fabs => if (FInfo.f32.unpack b.toNat).isNan then 0x7FC00000 else b &&& 0x7FFFFFFF
  | .fneg => if (FInfo.f32.unpack b.toNat).isNan then 0x7FC00000 else b ^^^ 0x80000000
  | _ => b

/-- The result of an s form (R48). -/
def pairSVal (p : PairOp) (a b : W64) : W64 :=
  match p with
  | .sIadd => a + b
  | .sIsub => a - b
  | .sAnd => a &&& b
  | .sOr => a ||| b
  | .sXor => a ^^^ b
  | .sShl => a <<< (b.toNat % 64)
  | .sShr => a >>> (b.toNat % 64)
  | _ => b

/-- What one half has done (R35, R49): a v form in every lane where its predicate is true, from the values before the word
and with its short route (R33). The model's choice (log 26): an s form reads its source in the lowest lane of the bundle that is not
a helper, and acts where its predicate is true there. -/
def HalfDone (w w' : Weft) (p : PairOp) (h : Half) : Prop :=
  match p.acts with
  | some op =>
    let kind := if op.info.b != .none then op.info.b else op.info.a
    ∀ l, Acts w ⟨false, h.p⟩ l → w'.vget h.dst.val l
      = pairVal p (w.vget h.dst.val l) (((halfSource w kind (halfWord p op h) h).value w l).setWidth 32)
  | none => ∀ l, (w.nonHelpers w.bundle).head? = some l → w'.sget h.dst.val
      = if (w.pget h.p.val).getLsbD l
        then pairSVal p (w.sget h.dst.val) ((⟨h.src, true, .s32, fun l => some l, none⟩ : FieldRead).value w l)
        else w.sget h.dst.val

/-- The pair halves with their constructors, the half first. -/
def pairRows : List (PairOp × (Half → PairOp → Half → Instr)) := [
  (.iadd, .pairIadd), (.isub, .pairIsub), (.imul, .pairImul), (.imin, .pairImin), (.imax, .pairImax), (.iminu, .pairIminu),
  (.imaxu, .pairImaxu), (.and, .pairAnd), (.or, .pairOr), (.xor, .pairXor), (.andn, .pairAndn), (.shl, .pairShl),
  (.shr, .pairShr), (.sar, .pairSar), (.mov, .pairMov), (.fadd, .pairFadd), (.fsub, .pairFsub), (.fmul, .pairFmul),
  (.fmin, .pairFmin), (.fmax, .pairFmax), (.hadd2F16, .pairHadd2F16), (.hmul2F16, .pairHmul2F16),
  (.hadd2Bf16, .pairHadd2Bf16), (.hmul2Bf16, .pairHmul2Bf16), (.fabs, .pairFabs), (.fneg, .pairFneg),
  (.sIadd, .pairSIadd), (.sIsub, .pairSIsub), (.sAnd, .pairSAnd), (.sOr, .pairSOr), (.sXor, .pairSXor),
  (.sShl, .pairSShl), (.sShr, .pairSShr), (.sMov, .pairSMov) ]

/-- Where a control word sends its bundle (R60, R114): the acting lanes that `go` names to their targets, the others to the
next word; the weft then forms its bundle anew. -/
def Jumped (w w' : Weft) (g : Guard) (go : Nat → Bool) (target : Nat → W64) : Prop :=
  w'.reform = true ∧ ∀ l, l < w.lanes.length → l < w.width → w.bundle.getLsbD l = true →
    (w'.lane l).pc = if (w.act g).getLsbD l && go l then target l else (w.lane l).pc + 8

/-- The target of an offset (R29): relative to the word, in units of eight bytes. -/
def near (w : Weft) (f : FB) : W64 := w.pc + f.offset.signExtend 64 * 8

/-- A register target (R114): its low three bits are ignored. -/
def aligned (x : W64) : W64 := x &&& 0xFFFFFFFFFFFFFFF8

/-- No two lanes that are not helpers differ in outcome, where the word asks for that (R115). -/
def Uniform (w : Weft) (f : FB) (out : Nat → Option W64) : Prop :=
  f.u = true → ∀ l ∈ w.nonHelpers w.bundle, ∀ k ∈ w.nonHelpers w.bundle, out l = out k

/-- The outcome of a branch in a lane. -/
def out (w : Weft) (g : Guard) (go : Nat → Bool) (target : Nat → W64) (l : Nat) : Option W64 :=
  if (w.act g).getLsbD l && go l then some (target l) else none

/-- The field of an s register as a control word reads it. -/
def sReg (k : Nat) : FieldRead := ⟨.s (Fin.ofNat 64 k), true, .s32, fun l => some l, none⟩

/-- Whether any lane acts. -/
def anyAct (w : Weft) (g : Guard) : Bool := w.act g != 0

/-- A lane has taken a trap (R257, R260): it stands at the handler with its cause, detail, place and place to go on. -/
def InHandler (l : Lane) (entry : W64) (c : Cause) (trappc tresume : W64) : Prop :=
  l.state = .trapped ∧ l.pc = entry ∧ l.tcause = BitVec.ofNat 64 (c.reason * 256 + c.group) ∧ l.tdet = c.detail ∧
    l.trappc = trappc ∧ l.tresume = tresume

/-- A band's trap entry can be fetched (R263). -/
def Handled (s : State) (bd : Band) : Prop := bd.trapEntry ≠ 0 ∧ s.codeReadable bd bd.trapEntry = true

/-- The registers of a weft are what they were. -/
def SameRegs (w w' : Weft) : Prop := w'.v = w.v ∧ w'.s = w.s ∧ w'.p = w.p ∧ w'.flags = w.flags

/-- Two lanes that are not helpers differ in outcome: the lowest one of the bundle, and the lowest that differs from it (R259). -/
structure Apart (w : Weft) (out : Nat → Option W64) (r d : Nat) : Prop where
  first : (w.nonHelpers w.bundle).head? = some r
  other : d ∈ w.nonHelpers w.bundle
  differ : out d ≠ out r
  lowest : ∀ k ∈ w.nonHelpers w.bundle, k < d → out k = out r

/-- The detail of group 2 (R259): the two lanes, and the lanes that would take the transfer. -/
def splitDetail (w : Weft) (out : Nat → Option W64) (r d : Nat) : Detail :=
  BitVec.ofNat 96 (d * 2 ^ 72 + r * 2 ^ 64 + (laneMask ((w.nonHelpers w.bundle).filter (fun k => (out k).isSome))).toNat)

/-- What a control word does: it sends its bundle on; where U asks for one outcome and two lanes differ, it changes no register and
every lane of the bundle enters the handler with group 2 (R115). -/
def Transfers (ins : Instr) (s : State) (b i : Nat) (bd : Band) (w : Weft) (f : FB) (go : Nat → Bool) (target : Nat → W64)
    (more : Weft → Prop) : Prop :=
  (Uniform w f (out w f.guard go target) →
    Goes ins s (fun t => Now t b i (fun w' => Jumped w w' f.guard go target ∧ more w'))) ∧
  (f.u = true → ∀ r d, Apart w (out w f.guard go target) r d → Handled s bd → (∀ l ∈ w.bundleLanes, (w.lane l).group = 0) →
    Goes ins s (fun t => SameMemory s t ∧ Now t b i (fun w' => SameRegs w w' ∧ ∀ l ∈ w.bundleLanes, l < w.lanes.length →
      InHandler (w'.lane l) bd.trapEntry ⟨2, 0, splitDetail w (out w f.guard go target) r d, false⟩ w.pc w.pc)))

/-- The bytes that a near load finds: at home, with its weft's own stores to die scratchpad over them (R190, R197). -/
def nearBytes (s : State) (w : Weft) (n : Nat) : NearLoc → List Byte
  | .spill l off => Mem.read w.spill (l * 4096 + off) n
  | .uspill off => Mem.read w.uspill off n
  | .at_ (.die c d) off => overlay w off (s.homeRead (.die c d) off n)
  | .at_ p off => s.homeRead p off n

/-- The bytes of an access are present (R186), and no earlier value of its place may still be read (R197, R203). -/
def Settled (s : State) (n : Nat) : NearLoc → Prop
  | .at_ p off => s.absentLines p off n = [] ∧ (∀ x ∈ s.hist, x.place ≠ p) ∧
    ∀ id x, p = .band id → s.band? id = some x → x.old = []
  | _ => True

/-- A v register of a lane has a value, or awaits the reply that brings it (R65). -/
def Arrives (w' : Weft) (r l : Nat) (x : W32) : Prop :=
  w'.vget r l = x ∨ ∃ rep ∈ w'.replies, (r * 64 + l, x) ∈ rep.v ∧ (⟨r, l, rep.id⟩ : Await) ∈ w'.await

/-- The part of a loaded value that register k of its destination takes. -/
def partOf (v k : Nat) : W32 := BitVec.ofNat 32 (v / 2 ^ (32 * k))

/-- The v registers outside a destination in the acting lanes are what they were. -/
def OthersKept (w w' : Weft) (g : Guard) (dst n : Nat) : Prop :=
  ∀ r l, l < 64 → ¬(dst ≤ r ∧ r < dst + n ∧ Acts w g l) → w'.vget r l = w.vget r l

/-- Group 6 as R259 lays it out. -/
def nearTrap (write : Bool) (f : FM) (reason : Nat) (a : W64) : Cause :=
  let space := match f.space with
    | .spill => 0
    | .band => 1
    | .die => 2
  ⟨6, reason, BitVec.ofNat 96 ((if write then 2 ^ 69 else 0) + f.size.val * 2 ^ 66 + space * 2 ^ 64 + a.toNat), false⟩

/-- A near address is bad for a reason (R188): it is not aligned, or nothing admits it. -/
def BadAddress (s : State) (b : Nat) (bd : Band) (f : FM) (lane : Option Nat) (a : W64) (write : Bool) (reason : Nat) : Prop :=
  (a.toNat % 2 ^ f.size.val ≠ 0 ∧ reason = 1) ∨ s.nearLoc b bd f.space lane a (2 ^ f.size.val) write = .error reason

/-- R188, R259, R260: a near word all of whose acting lanes have bad addresses changes no register and no memory; each of those lanes
enters the handler with its own cause, and the others of the bundle go on. -/
def AccessTraps (ins : FM → Instr) (word : FM → FMWord) : Prop :=
  ∀ (f : FM) (s : State) (b i : Nat) (bd : Band) (w : Weft) (reason : Nat → Nat),
    Issues s b i bd w (fmNeeds f (word f) w) → Calm w → w.held? .lane (f.space == .die) = false → w.latches = [] → Handled s bd →
    (∀ l, Acts w f.guard l → (w.lane l).helper = false ∧ (w.lane l).group = 0 ∧
      BadAddress s b bd f (some l) (fmAddr f w l) (word f).store (reason l)) →
    Goes (ins f) s (fun t => SameMemory s t ∧ Now t b i (fun w' => SameRegs w w' ∧ ∀ l, l < w.lanes.length →
      (Acts w f.guard l →
        InHandler (w'.lane l) bd.trapEntry (nearTrap (word f).store f (reason l) (fmAddr f w l)) w.pc w.pc) ∧
      (w.bundle.getLsbD l = true → (w.act f.guard).getLsbD l = false → (w'.lane l).pc = (w.lane l).pc + 8)))

/-- R187, R188, R190: a load whose acting lanes all have good addresses gives each the bytes of its address, in a register or
in flight to it, and in the newest latch entry; it changes no memory. -/
def GoodLoads : Prop :=
  ∀ (f : FM) (s : State) (b i : Nat) (bd : Band) (w : Weft) (loc : Nat → NearLoc),
    let n := 2 ^ f.size.val
    let v := fun l => leNat (nearBytes s w n (loc l))
    FM.ok .ld f = true → Issues s b i bd w (fmNeeds f (ldWord f) w) → Calm w → s.flaws = [] → w.held? .lane (f.space == .die) = false →
    (∀ l, Acts w f.guard l → s.nearLoc b bd f.space (some l) (fmAddr f w l) n false = .ok (loc l) ∧ Settled s n (loc l)) →
    Goes (.ld f) s (fun t => SameMemory s t ∧ Now t b i (fun w' => Moved w w' 8 ∧
      (∀ l, Acts w f.guard l → w'.latchVal 0 l = BitVec.ofNat 64 (v l) ∧
        ∀ k, k < sizeRegs f.size.val → Arrives w' (f.data.val + k) l (partOf (v l) k)) ∧
      OthersKept w w' f.guard f.data.val (sizeRegs f.size.val) ∧ w'.s = w.s ∧ w'.p = w.p))

/-- A byte of a place after stores in order, from what it was. -/
def afterStores (sts : List (NearLoc × List Byte)) (p : Place) (a : Nat) (old : Byte) : Byte :=
  sts.foldl (fun v e => match e.1 with
    | .at_ q off => if q = p ∧ off ≤ a ∧ a < off + e.2.length then (e.2[a - off]?).getD v else v
    | _ => v) old

/-- A byte of the spill memory after stores in order, from what it was (R179). -/
def afterSpills (sts : List (NearLoc × List Byte)) (a : Nat) (old : Byte) : Byte :=
  sts.foldl (fun v e => match e.1 with
    | .spill l off => if l * 4096 + off ≤ a ∧ a < l * 4096 + off + e.2.length then (e.2[a - (l * 4096 + off)]?).getD v else v
    | _ => v) old

/-- The die scratchpad a band's own lanes reach (R180). -/
def ownDie (bd : Band) : Place := .die bd.ctx (dieOf bd.core)

/-- The stores of an ST word: of the acting lanes that are not helpers, in lane order (R188, R190). -/
def storesOf (f : FM) (w : Weft) (loc : Nat → NearLoc) : List (NearLoc × List Byte) :=
  (w.nonHelpers (w.act f.guard)).map
    (fun l => (loc l, leBytes (2 ^ f.size.val) (w.regsVal f.data.val (sizeRegs f.size.val) l)))

/-- R187, R189, R190, R196, R197: an ordinary store, or a release store to band or spill space, changes exactly the bytes at its
lanes' addresses, a store to die scratchpad none of them before it is published; no register changes. -/
def PlainStores : Prop :=
  ∀ (f : FM) (s : State) (b i : Nat) (bd : Band) (w : Weft) (loc : Nat → NearLoc),
    let n := 2 ^ f.size.val
    let sts := storesOf f w loc
    FM.ok .st f = true → (f.rel = false ∨ f.space ≠ .die) → Issues s b i bd w (fmNeeds f (stWord f) w) → Calm w →
    w.held? .lane (f.space == .die) = false →
    (∀ l ∈ w.nonHelpers (w.act f.guard), s.nearLoc b bd f.space (some l) (fmAddr f w l) n true = .ok (loc l) ∧
      ∀ p off, loc l = .at_ p off → s.absentLines p off n = []) →
    Goes (.st f) s (fun t => (f.space = .die → SameMemory s t) ∧
      (f.space ≠ .die → ∀ p a, Mem.get (t.mem p) a = afterStores sts p a (Mem.get (s.mem p) a)) ∧
      Now t b i (fun w' => Moved w w' 8 ∧ SameRegs w w' ∧
        w'.wbuf = w.wbuf ++ (if f.space = .die then sts.filterMap (fun e => match e.1 with
          | .at_ _ off => some ⟨off, e.2⟩
          | _ => none) else []) ∧
        ∀ a, Mem.get w'.spill a = afterSpills sts a (Mem.get w.spill a)))

/-- R201: a release store to die scratchpad publishes what its weft has stored there and then writes home. -/
def ReleaseStores : Prop :=
  ∀ (f : FM) (s : State) (b i : Nat) (bd : Band) (w : Weft),
    let n := 2 ^ f.size.val
    let before := w.wbuf.map (fun x => (NearLoc.at_ (ownDie bd) x.addr, x.bytes))
    f.rel = true → f.space = .die → Calm w → w.held? .lane true = false → (s.ctx? bd.ctx).isSome = true →
    (∀ loc : Nat → NearLoc, FM.ok .st f = true → Issues s b i bd w (fmNeeds f (stWord f) w) →
      w.nonHelpers (w.act f.guard) ≠ [] →
      (∀ l ∈ w.nonHelpers (w.act f.guard), s.nearLoc b bd .die (some l) (fmAddr f w l) n true = .ok (loc l) ∧
        ∀ p off, loc l = .at_ p off → s.absentLines p off n = []) →
      Goes (.st f) s (fun t =>
        (∀ p a, Mem.get (t.mem p) a = afterStores (before ++ storesOf f w loc) p a (Mem.get (s.mem p) a)) ∧
        Now t b i (fun w' => Moved w w' 8 ∧ SameRegs w w' ∧ w'.wbuf = []))) ∧
    (∀ (l off : Nat) (p : Place), FM.ok .stu f = true → Issues s b i bd w (uniNeeds f true) → Leads w f.guard l →
      s.nearLoc b bd .die none (fmAddr f w l) n true = .ok (.at_ p off) → s.absentLines p off n = [] →
      Goes (.stu f) s (fun t =>
        (∀ q a, Mem.get (t.mem q) a = afterStores (before ++ [(.at_ p off, leBytes n (w.sget f.data.val).toNat)]) q a
          (Mem.get (s.mem q) a)) ∧
        Now t b i (fun w' => Moved w w' 8 ∧ SameRegs w w' ∧ w'.wbuf = [])))

/-- The memory of every place, byte by byte. -/
abbrev Bytes := Place → Nat → Byte

/-- One lane's atomic (R192): the old value and the memory after it. -/
def atomOnce (op : AtomOp) (f : FM) (w : Weft) (l : Nat) (p : Place) (off : Nat) (m : Bytes) : Nat × Bytes :=
  let k := if f.size.val == 3 then 2 else 1
  let old := leNat ((List.range (4 * k)).map (fun j => m p (off + j)))
  let new := leBytes (4 * k) (atomNew op (f.size.val == 3) old (w.regsVal f.data.val k l) (w.regsVal (f.data.val + k) k l))
  (old, fun q a => if q = p ∧ off ≤ a ∧ a < off + 4 * k then (new[a - off]?).getD 0 else m q a)

/-- The atomics of a word's lanes, in lane order (R193): the old value of each lane and the memory after them. -/
def atomAll (op : AtomOp) (f : FM) (w : Weft) (at_ : Nat → Place × Nat) : List Nat → Bytes → List (Nat × Nat) × Bytes
  | [], m => ([], m)
  | l :: ls, m =>
    let r := atomOnce op f w l (at_ l).1 (at_ l).2 m
    let x := atomAll op f w at_ ls r.2
    ((l, r.1) :: x.1, x.2)

/-- The near atomics with their constructors. -/
def atomRows : List (AtomOp × (FM → Instr)) := [
  (.add, .aadd), (.fadd, .afadd), (.min, .amin), (.max, .amax), (.and, .aand), (.or, .aor), (.xor, .axor), (.xchg, .axchg),
  (.cas, .acas), (.inc, .ainc) ]

/-- What the lanes of a barrier word find when it is not yet complete: one of the lanes it waits for is missing. -/
def Short (s : State) (b i : Nat) (gang : Bool) (n : Nat) (ls : List Nat) : Prop :=
  ∃ c ∈ s.mustArrive b gang, c ∉ (s.barrier b gang n).arrived ∧ ∀ l ∈ ls, arrivalCode gang b i l ≠ c

/-- Every byte of memory after a weft has published what it has stored to die scratchpad, or as it was. -/
def Published (s t : State) (bd : Band) (w : Weft) (ph : Bool) : Prop :=
  ∀ r a, Mem.get (t.mem r) a = if ph
    then afterStores (w.wbuf.map (fun x => (.at_ (ownDie bd) x.addr, x.bytes))) r a (Mem.get (s.mem r) a)
    else Mem.get (s.mem r) a

/-- A lane arrives at a barrier and waits there for the generation to complete; with .gang its weft has published. -/
def Arrived (s t : State) (b i : Nat) (bd : Band) (w : Weft) (gang : Bool) (n : Nat) (ph : Bool) (ls : List Nat) : Prop :=
  Published s t bd w ph ∧ (∀ l ∈ ls, arrivalCode gang b i l ∈ (t.barrier b gang n).arrived) ∧
    (t.barrier b gang n).gen = (s.barrier b gang n).gen

/-- Every launched lane that has not exited has arrived at a barrier, but some lanes of a weft. -/
def AllThere (s : State) (b i : Nat) (gang : Bool) (n : Nat) (ls : List Nat) : Prop :=
  ∀ id ∈ s.barrierBands b gang, ∀ (j l : Nat) (v : Weft), s.weft? id j = some v → l < v.width →
    (v.lane l).state ≠ .unlaunched → (v.lane l).state ≠ .exited →
    arrivalCode gang id j l ∈ (s.barrier b gang n).arrived ∨ (id = b ∧ j = i ∧ l ∈ ls)

/-- A barrier has completed its generation (R207, R208): it counts on and empties, and the lanes of its bands that wait there for a
generation that is now complete may issue again, while the others stay parked. Said of the lanes outside the bundle that issues. -/
def Released (s t : State) (b i : Nat) (w : Weft) (gang : Bool) (n : Nat) : Prop :=
  let gen := (s.barrier b gang n).gen + 1
  (t.barrier b gang n).gen = gen ∧ (t.barrier b gang n).arrived = [] ∧
    ∀ id ∈ s.barrierBands b gang, ∀ (j : Nat) (v : Weft), s.weft? id j = some v → Now t id j (fun v' =>
      ∀ l, l < v.lanes.length → (id = b ∧ j = i → w.bundle.getLsbD l = false) →
        ∀ tok ph, (v.lane l).state = .parked (.barrier gang n tok ph) →
          v'.lane l = if genComplete gen tok then (v.lane l).ready else v.lane l)

/-- The record that an ITSET leaves (R213): the named part replaced and every index zero. -/
def itsetRec (part : ItPart) (a : W64) (lo : W64) (hi : W64) (r : Rec) : Rec :=
  Rec.clearIndex (match part with
    | .base => { r with base := a }
    | .hdr => { r with hdr := a }
    | .dim k => { r with dims := r.dims.modify k.val (fun d => { d with extent := lo.setWidth 32, stride := hi }) }
    | .clr => r)

/-- The fields that an ITSET reads (R213). -/
def itsetFields : ItPart → Operand → Operand → List (Nat × FieldRead)
  | .base, a, _ => [(1, feField true a)]
  | .hdr, a, _ => [(1, feField true a)]
  | .dim _, a, b => [(1, feField false a), (2, feField true b)]
  | .clr, _, _ => []

/-- The record that a command writes: the first. -/
def written (c : CmdSpec) : Rec := (c.recs.head?.map (fun r => r.2)).getD Rec.fresh

/-- The lines whose presence bits a command clears, each with the works that touch it (R185). -/
def clears (s : State) (b : Nat) (bd : Band) (c : CmdSpec) : List (Nat × Line) :=
  if c.kind.presence = true ∧ Rec.space (written c) ≠ 0 then s.planLines b bd (written c) c.todo else []

/-- A command has room (R185, R199, R215): no PHASE holds it back, its engine's queue takes it, and no line that its presence
bits cover carries fifteen copies. -/
structure Room (s : State) (b : Nat) (bd : Band) (w : Weft) (c : CmdSpec) : Prop where
  phase : w.phase = none ∨ ((∀ r ∈ c.recs, Rec.space r.2 = 1) ∧ ∀ x, c.wit = some x → x = 1)
  queue : c.kind.isItem = true ∨ s.engineLoad bd.core c.path < Path.room c.path
  lines : ∀ l ∈ clears s b bd c, s.copiesOn l.2 < 15

/-- A command is queued (R185, R215): under the next number, as decoded, with its records as captured, nothing delivered, and
the lines that it clears absent; every other command is what it was. -/
structure Queued (s t : State) (b i : Nat) (bd : Band) (w : Weft) (c : CmdSpec) : Prop where
  cmd : ∃ m, SMap.find? t.cmds s.stamp = some m ∧ m.band = b ∧ m.weft = i ∧ m.path = c.path ∧ m.ctr = c.ctr ∧
    m.recs = c.recs ∧ m.kind = c.kind ∧ m.snap = w.snap ∧ m.started = false ∧ m.todo = c.todo ∧ m.flight = [] ∧
    m.lines = clears s b bd c ∧ ∀ l ∈ m.lines, t.copiesOn l.2 ≠ 0
  others : ∀ id, id ≠ s.stamp → SMap.find? t.cmds id = SMap.find? s.cmds id
  stamp : t.stamp = s.stamp + 1
  memory : SameMemory s t

/-- A lane's far request (R215, R223, R224) is on its way under a number: to its address, with its data, and the registers that
its reply writes await it. -/
def Requested (s t : State) (b i : Nat) (bd : Band) (w w' : Weft) (x : FarWord) (addr : W64) (l id : Nat) : Prop :=
  (∃ r, SMap.find? t.reqs id = some r ∧ r.who = .lane b i l ∧ r.op = x.op ∧ r.addr = addr ∧ r.len = x.len ∧
    r.data = leBytes (4 * x.reads) (w.regsVal x.dst x.reads l) ∧ r.dst = x.dst ∧ r.ctr = x.ctr ∧ r.ctx = bd.ctx ∧
    r.part = bd.part ∧ r.stage = .segment ∧ r.stamp = id ∧ r.at_ = s.now) ∧
  ∀ k, k < x.writes → (⟨x.dst + k, l, id⟩ : Await) ∈ w'.await

/-- The queue of a band's matrix commands has taken one more, under a number, and the band has the matrix state of its core
(R228, R233). -/
def EnqueuedAs (s t : State) (b i : Nat) (bd : Band) (k : MKind) (id : Nat) : Prop :=
  SameMemory s t ∧ (t.core bd.core).owner = some b ∧ s.stamp ≤ id ∧ id < t.stamp ∧
    ∃ bd', t.band? b = some bd' ∧ bd'.mq = bd.mq ++ [⟨id, i, k, false, 0, [], []⟩]

/-- The queue has taken one more. -/
def Enqueued (s t : State) (b i : Nat) (bd : Band) (k : MKind) : Prop := ∃ id, EnqueuedAs s t b i bd k id

/-- The signed halves of a control double (R240). -/
def loHalf (x : W64) : Int := (x.setWidth 32).toInt

/-- The high half. -/
def hiHalf (x : W64) : Int := ((x >>> 32).setWidth 32).toInt

/-- The keeper has written an event record of some kind, where it logs and has room (R381, R382). -/
def Logged (s t : State) (kind : Nat) : Prop :=
  let n := min (fld (s.kget .evbase) 4 0) 20
  let seq := fld (s.kget .evseq) 31 0
  s.keeperUp = true → 6 ≤ n → (seq + 2 ^ 32 - fld (s.kget .evack) 31 0) % 2 ^ 32 < 2 ^ n →
    fld (t.kget .evseq) 31 0 = (seq + 1) % 2 ^ 32 ∧
      Mem.get t.host (fld (s.kget .evbase) 63 12 * 4096 + 64 * (seq % 2 ^ n) + 5) = BitVec.ofNat 8 kind

/-- A band has stopped (R268). -/
def Stopped (t : State) (b : Nat) : Prop := ∃ bd', t.band? b = some bd' ∧ bd'.stopped = true

/-- The launches in a queue of a partition. -/
def queueOf (s : State) (part q : Nat) : List Nat := ((s.part? part).map (fun p => SMap.get p.queues [] q)).getD []

/-- A counter of a band has risen (R218). -/
def Counted (s t : State) (b c n : Nat) : Prop :=
  ∀ bd, s.band? b = some bd → ∃ bd', t.band? b = some bd' ∧
    (bd'.counter c).toNat % 2 ^ 48 = ((bd.counter c).toNat + n) % 2 ^ 48

/-- A counter of a band has its error bit, with the cause unless it had one before (R217). -/
def CounterFailed (s t : State) (b c : Nat) (x : Cause) : Prop :=
  ∀ bd, s.band? b = some bd → ∃ bd', t.band? b = some bd' ∧ (bd'.counter c).getLsbD 63 = true ∧
    ((bd.counter c).getLsbD 63 = false → SMap.find? bd'.ctrFault c = some x)

/-- The storage of a place is in the package. -/
def Stored (s : State) : Place → Prop
  | .band id => (s.band? id).isSome = true
  | .die c _ => (s.ctx? c).isSome = true
  | .peer _ => False
  | _ => True

/-- The place that PRESENCE_BIT_SET names. -/
def linePlace (n : Nat) : Place := if n % 2 = 0 then .band (n / 2) else .die (n / 8) (n / 2 % 4)

/-- A byte after bytes are written at an address. -/
def afterWrite (at_ : Nat) (bs : List Byte) (a : Nat) (old : Byte) : Byte :=
  if at_ ≤ a ∧ a < at_ + bs.length then (bs[a - at_]?).getD old else old

/-- The elements of a command's next step in one sector of near storage (R205): where each lies, and all of them in whole bytes. -/
structure OutStep (s : State) (c : Cmd) (bd : Band) (sec : Nat) (ks : List Nat) (at_ : Nat → Place × Nat) : Prop where
  works : c.works bd = true ∧ c.flight = [] ∧ c.whole = false ∧ c.loads = [] ∧ c.bits % 8 = 0
  near : Rec.space c.dst ≠ 0
  whole : Fmt.memBits (Rec.fmt c.dst) % 8 = 0
  place : ∀ k ∈ ks, s.nearOf c.band bd (Rec.need c.dst k) true = .ok (at_ k)
  sector : ∀ k ∈ ks, (Rec.addr c.dst k).1.toNat / 32 = sec
  fresh : c.carry = [] ∧ c.made = [] ∧ c.cut = false

/-- The sectors of what a command needs for an element have been read. -/
def HasRead (c : Cmd) (k : Nat) : Prop :=
  ∀ x ∈ c.needs c.got k, ∀ a ∈ sectorsOf x.addr.toNat x.n, (SMap.find? c.got (secKey x.space a)).isSome = true

/-- What a command writes as element k of its walk, from the sectors that it has read: the pattern (R222), the copied element (R221,
R335), the chain's result (R226) or the reduction's (R247). -/
def elemVal (c : Cmd) (k : Nat) : Nat :=
  let f := Rec.fmt c.dst
  match c.kind with
  | .fill pat w64 => patternBits pat w64 (Fmt.memBits f) (Rec.addr c.dst 0).2 k
  | .chain g k0 k1 => (chainElem g k0 k1 ((c.recs.drop 1).map (fun r => elemF32 (Rec.fmt r.2) (Rec.elem r.2 c.got k))) f).bits
  | .wred op last bound _ =>
    (wredEntry op last bound (Rec.fmt c.src) ((List.range c.group).map (fun j => Rec.elem c.src c.got (k * c.group + j)))).bits
  | _ => Rec.elem c.src c.got k

/-- Elements as the stores that write them, in walk order. -/
def elemStores (c : Cmd) (at_ : Nat → Place × Nat) (es : List (Nat × Nat)) : List (NearLoc × List Byte) :=
  es.map (fun e => (.at_ (at_ e.1).1 (at_ e.1).2, leBytes (Fmt.memBits (Rec.fmt c.dst) / 8) e.2))

/-- What ADJB writes for an upstream entry (R255): each contributor's share, or with .acc the sum of a gradient with a share. -/
def adjbVals (c : Cmd) (acc : Bool) (space : Nat) (a h : W64) (k : Nat) : List (Nat × Nat) :=
  (c.routes space a h c.got k).filterMap (fun r =>
    if acc then r.2.map (fun v => (r.1, ((Rec.fmt c.dst).finfo.fadd .rne (Rec.elem c.dst c.got r.1) v).bits))
    else some (r.1, r.2.getD 0))

/-- The witness entry of an upstream entry names a contributor, or says none where its operator may (R254). -/
def GoodEntry (h : W64) (w : Nat) : Prop :=
  let x := WitHdr.of h
  x.op = 2 ∨ (w = ewNone x.ew ∧ x.op = 4) ∨ (w ≠ ewNone x.ew ∧ w < x.g)

/-- A command's first work goes out to near storage: it writes some stores and no other byte, counts some bytes, and is done with the
work. -/
def Writes (s : State) (id : Nat) (c : Cmd) (rest : List Work) (sts : List (NearLoc × List Byte)) (n : Nat) : Prop :=
  Goes (.engineBytesLand id (.work 0)) s (fun t =>
    (∀ p a, Mem.get (t.mem p) a = afterStores sts p a (Mem.get (s.mem p) a)) ∧
    (∃ c', SMap.find? t.cmds id = some c' ∧ c'.todo = rest ∧ c'.flight = []) ∧ Counted s t c.band c.ctr n)

/-- R205, R218, R221, R222, R226, R247, R251, R255, R335: the bytes that a command's works write to near storage. A TCOPY from band
scratchpad, a FILL, a CHAIN, a WRED or an item of a channel writes the elements of a sector, ADJB what an entry routes, and WRED the
marker, the body and the header of its witness. -/
def EngineWrites : Prop :=
  ∀ (s : State) (id : Nat) (c : Cmd) (bd : Band) (rest : List Work) (at_ : Nat → Place × Nat), SMap.find? s.cmds id = some c →
    s.band? c.band = some bd →
    let m := Fmt.memBits (Rec.fmt c.dst)
    (∀ (sec : Nat) (ks : List Nat), c.todo = .out sec ks :: rest → ks ≠ [] → OutStep s c bd sec ks at_ →
      ((∀ acc sp a e h, c.kind ≠ .adjb acc sp a e h) → (∀ k ∈ ks, HasRead c k) →
        ((∃ cls, c.kind = .tcopy cls) ∨ (∃ pat w64, c.kind = .fill pat w64) ∨ ∀ k ∈ ks, SMap.find? c.got (secKey (Rec.space c.dst) (Rec.addr c.dst k).1.toNat) = none) →
        Writes s id c rest (elemStores c at_ (ks.map (fun k => (k, elemVal c k)))) (ks.length * (m / 8))) ∧
      (∀ (cls : Bool) (r : Nat × Rec) (from_ : Nat → Place × Nat), c.kind = .tcopy cls → c.recs.drop 1 = [r] → Rec.space r.2 = 1 →
        Fmt.memBits (Rec.fmt r.2) = m → c.got = [] → s.flaws = [] → (∀ e ∈ s.cmds, e.2.lines = []) → (∀ e ∈ s.bands, e.2.old = []) →
        (∀ k ∈ ks, s.nearOf c.band bd (Rec.need r.2 k) false = .ok (from_ k)) →
        Writes s id c rest (ks.map (fun k => (.at_ (at_ k).1 (at_ k).2, s.homeRead (from_ k).1 (from_ k).2 (m / 8))))
          (ks.length * (m / 8)))) ∧
    (∀ (acc : Bool) (sp : Nat) (a e h ser : W64) (k : Nat), c.kind = .adjb acc sp a e (some (h, ser)) → c.todo = .entry k :: rest →
      OutStep s c bd 0 [] at_ → HasRead c k → GoodEntry h ((WitHdr.of h).entry c.got sp a k) →
      let es := adjbVals c acc sp a h k
      (∀ x ∈ es, s.nearOf c.band bd (Rec.need c.dst x.1) true = .ok (at_ x.1)) → (acc = true → es.length ≤ 1) →
      (∀ x ∈ c.routes sp a h c.got k, Rec.straddles c.dst x.1 = false) →
      Writes s id c rest (elemStores c at_ es) ((WitHdr.of h).g * (m / 8))) ∧
    (∀ (op : Nat) (last : Bool) (bound : W64) (sp : Nat) (a ser : W64) (x : Work) (p : Place) (off : Nat),
      c.kind = .wred op last bound (some (sp, a, ser)) → c.todo = x :: rest → (x = .mark ∨ x = .head ∨ ∃ lo hi, x = .body lo hi) →
      c.works bd = true → c.flight = [] → c.cut = false → c.bits % 8 = 0 → sp ≠ 0 →
      let y := c.witBytes x
      s.nearOf c.band bd ⟨sp, a + BitVec.ofNat 64 y.1, y.2.1.length, Nat.log2 y.2.1.length, false, false⟩ true = .ok (p, off) →
      off % 32 + y.2.1.length ≤ 32 →
      Writes s id c rest [(.at_ p off, y.2.1.map (BitVec.ofNat 8))] (if y.2.2 then y.2.1.length else 0))

/-- R185, R205, R215, R217, R218: an engine command starts; an answer from far memory brings a sector that it reads, or lands the bytes
that it wrote; it sets the presence bits of a line that it has filled, and ends complete, with its records' indexes zero, or in
error. -/
def EngineSteps : Prop :=
  ∀ (s : State) (id : Nat) (c : Cmd) (bd : Band), SMap.find? s.cmds id = some c → s.band? c.band = some bd →
    (∀ (n line : Nat), Stored s (linePlace n) → (0, ⟨linePlace n, line⟩) ∈ c.lines →
      Goes (.presenceBitSet id n line) s (fun t => SameMemory s t ∧
        t.copiesOn ⟨linePlace n, line⟩ = s.copiesOn ⟨linePlace n, line⟩ - 1 ∧
        ∃ c', SMap.find? t.cmds id = some c' ∧ ∀ e ∈ c'.lines, e.2 ≠ ⟨linePlace n, line⟩)) ∧
    (c.started = false → c.kind.isItem = false → bd.enginesRun = true → bd.halted = false →
      s.fenceHolds c.band c.weft c.path c.stamp = false → s.heldBehind c = false →
      Goes (.engineCommandStart id) s (fun t => SameMemory s t ∧ SMap.find? t.cmds id = some { c with started := true, whole := s.selfMeets c })) ∧
    (∀ (q : Nat) (r : FarReq), s.req? q = some r → r.who = .engine id → c.kind.isItem = false →
      (∀ bs, r.op = .load → r.stage = .performed bs → bs.length = 32 →
        Goes (.engineBytesLand id (.answer q .here)) s (fun t => SameMemory s t ∧ t.req? q = none ∧
          ∃ c', SMap.find? t.cmds id = some c' ∧ SMap.find? c'.got (secKey 0 r.addr.toNat) = some bs ∧
            ∀ l ∈ c'.loads, l.1 ≠ q)) ∧
      (∀ phys k rest, r.op = .store → r.stage = .stored phys → r.mask = [] → c.flight = [(q, 8 * k)] → c.bits % 8 = 0 →
        c.todo = .mark :: rest ∨ (∃ sec ks, c.todo = .out sec ks :: rest) →
        Goes (.engineBytesLand id (.answer q .here)) s (fun t => t.req? q = none ∧
          (∀ a, Mem.get t.hbm a = afterWrite phys r.data a (Mem.get s.hbm a)) ∧ Counted s t c.band c.ctr k ∧
          ∃ c', SMap.find? t.cmds id = some c' ∧ c'.flight = [] ∧ c'.todo = rest))) ∧
    (c.started = true → c.kind.isItem = false → c.todo = [] → c.flight = [] → c.lines = [] →
      Goes (.engineCommandComplete id) s (fun t => SameMemory s t ∧ SMap.find? t.cmds id = none ∧
        ∃ bd', t.band? c.band = some bd' ∧
          ∀ e ∈ c.recs, (bd.rec_ e.1).ver = e.2.ver → bd'.rec_ e.1 = Rec.clearIndex (bd.rec_ e.1))) ∧
    (∀ x : Cause, c.works bd = true → c.kind.isItem = false →
      ((∃ q n rest r, c.flight = (q, n) :: rest ∧ s.req? q = some r ∧ r.stage = .failed x) ∨ s.haltOf id c bd = some x) →
      Goes (.engineCommandError id .own) s (fun t => SameMemory s t ∧ SMap.find? t.cmds id = none ∧
        CounterFailed s t c.band c.ctr x))

/-- A far request stands as said. -/
def Req (t : State) (id : Nat) (P : FarReq → Prop) : Prop := ∃ q, t.req? id = some q ∧ P q

/-- A request of this device's bands, no probe: an error ends it as it is. -/
def Plain (r : FarReq) : Prop := r.isProbe = false ∧ (∀ a l p, r.who ≠ .peer a l p) ∧ ∀ j, r.who ≠ .dev j

/-- A request ends in an error. -/
def EndsIn (s t : State) (id : Nat) (c : Cause) : Prop := SameMemory s t ∧ Req t id (fun q => q.stage = .failed c)

/-- The segment entry of a far address (R310, R311): its label lies in the table, the stage can read it, and its doubles. -/
structure SegAt (s : State) (part : Nat) (a : W64) (pa : Nat) (d0 d1 : W64) : Prop where
  size : fld (s.kget (.pseg part)) 4 0 ≤ 16
  label : fld a 63 48 < 2 ^ fld (s.kget (.pseg part)) 4 0
  place : pa = fld (s.kget (.pseg part)) 55 12 * 4096 + 16 * fld a 63 48
  readable : s.tableBad part pa = false
  first : d0 = s.table pa
  second : d1 = s.table (pa + 8)

/-- A well-formed local segment entry (R311), of any state. -/
def LocalSeg (d0 d1 : W64) : Prop :=
  fld d0 63 60 ≤ 4 ∧ fld d0 59 58 = 0 ∧ fld d0 37 32 = 0 ∧ fld d0 31 0 = 0 ∧ fld d1 58 40 = 0 ∧ fld d1 11 0 = 0 ∧ fld d1 63 59 ≤ 20

/-- A well-formed host segment entry. -/
def HostSeg (d0 d1 : W64) : Prop :=
  fld d0 63 60 ≤ 4 ∧ fld d0 59 58 = 1 ∧ fld d0 53 40 = 0 ∧ fld d0 37 32 = 0 ∧ fld d0 31 21 = 0 ∧ fld d1 11 0 = 0

/-- A well-formed peer segment entry of an accelerator. -/
def PeerSeg (accel : Nat) (d0 d1 : W64) : Prop :=
  fld d0 63 60 ≤ 4 ∧ fld d0 59 58 = 2 ∧ fld d0 57 54 = 0 ∧ fld d0 53 40 = 0 ∧ fld d0 37 32 = 0 ∧ fld d0 15 10 = 0 ∧
    fld d1 63 16 = 0 ∧ fld d1 15 0 ≠ 0 ∧ fld d0 9 0 ≠ accel

/-- A segment entry grants the access of a request (R312): by its rights to this partition, or to a source over UALink. -/
def Granted (r : FarReq) (d0 : W64) : Prop :=
  match r.who with
  | .peer acc _ _ => r.access ≠ .fetch ∧ d0.getLsbD (53 - r.access.code) = true ∧ (d0.getLsbD 50 = true ∨ fld d0 49 40 = acc)
  | _ => d0.getLsbD (57 - r.access.code) = true

/-- The ports of a mask that are not down, in ascending order (R313). -/
def portsOf (s : State) (mask : Nat) : List Nat :=
  (List.range 16).filter (fun p => decide (mask / 2 ^ p % 2 = 1) && decide (fld (s.kget (.ptmo p)) 20 20 = 0))

/-- The address and tag that a host segment's request goes out with (R314). -/
def hostVa (d1 a : W64) : Nat := (fld d1 63 12 * 4096 + fld a 47 0) % 2 ^ 64

/-- The tag. -/
def hostTag (d0 : W64) : Nat := if fld d0 20 20 = 1 then fld d0 19 0 + 1 else 0

/-- R310 to R314, R317, R322: the segment stage. A granted request of a local segment goes to the region stage, one of a host
segment to its translation, one of a peer segment to a port; one that meets a moving entry is held, or sent back where the queue
is full; and each fault ends a request with its reason. Where no segment entry is valid, the owner that a cause names is the model's
choice (log 16). -/
def SegmentStage : Prop :=
  ∀ (s : State) (id : Nat) (r : FarReq), s.req? id = some r → r.stage = .segment → s.behindRetry r = false →
    s.stageWaits id r = false →
    let go := Instr.farRequestSegmentStage id
    let k := r.access
    let fault := fun group reason owner => farCause group reason k owner 1 (fld r.addr 63 48) r.addr
    (∀ pa d0 d1, SegAt s r.part r.addr pa d0 d1 →
      (LocalSeg d0 d1 →
        (fld d0 63 60 = 1 → Granted r d0 → Goes go s (fun t => SameMemory s t ∧ Req t id (fun q =>
          q.stage = .region (fld d1 39 0) (fld d1 63 59) ∧ q.home = fld d0 39 38 ∧ q.addr = r.addr ∧ pa ∈ q.passed))) ∧
        (fld d0 63 60 = 2 →
          let held := s.reqs.countP (fun e => e.2.stage == .hold 1 && e.2.home == fld d0 39 38)
          (held < 256 → Goes go s (fun t => SameMemory s t ∧ Req t id (fun q => q.stage = .hold 1 ∧ q.heldOnce = true))) ∧
          (256 ≤ held → Plain r → Goes go s (fun t => SameMemory s t ∧ Req t id (fun q => q.stage = .retry 1))))) ∧
      ((∀ a l p, r.who ≠ .peer a l p) → HostSeg d0 d1 → fld d0 63 60 = 1 → Granted r d0 → r.op.hostAtom = true →
        let va := hostVa d1 r.addr
        let hit := fun (e : AtsEntry) => e.die = fld d0 39 38 ∧ e.tag = hostTag d0 ∧ e.page = va / 4096 ∧ e.kinds / 2 ^ k.code % 2 = 1
        ((∀ e ∈ s.ats, ¬hit e) → Goes go s (fun t => SameMemory s t ∧ Req t id (fun q => q.stage = .ats ∧ q.owner = 1))) ∧
        (∀ e ∈ s.ats, hit e → (∀ x ∈ s.ats, hit x → x = e) → r.isProbe = false →
          Goes go s (fun t => SameMemory s t ∧ Req t id (fun q =>
            q.stage = .host (e.phys * 4096 + va % 4096) va (hostTag d0) ∧ q.owner = 1)))) ∧
      ((∀ a l p, r.who ≠ .peer a l p) → PeerSeg s.accel d0 d1 → fld d0 63 60 = 1 → k ≠ .fetch →
        (r.op.vendor = false ∨ Config.znPeer (fld d0 9 0) = true) →
        let ports := portsOf s (r.via.getD (fld d1 15 0))
        (∀ p, ports[fld r.addr 27 12 % ports.length]? = some p →
          Goes go s (fun t => SameMemory s t ∧ (t.uport p).egress = (s.uport p).egress ++ [id] ∧
            Req t id (fun q => q.stage = .egress p ∧ q.owner = 2 ∧ q.wire = fld d0 31 16))) ∧
        (ports = [] → Plain r → Goes go s (fun t => SameMemory s t ∧
          Req t id (fun q => ∃ c, q.stage = .failed c ∧ c.group = 20 ∧ c.reason = 2)))) ∧
      (Plain r →
        (fld d0 63 60 = 0 →
          (fld (s.kget (.pseg r.part)) 5 5 = 1 → Goes go s (fun t => SameMemory s t ∧ Req t id (fun q => q.stage = .pageIn 1))) ∧
          (fld (s.kget (.pseg r.part)) 5 5 = 0 → Goes go s (fun t => EndsIn s t id (fault 8 2 0)))) ∧
        (LocalSeg d0 d1 ∨ HostSeg d0 d1 →
          (fld d0 63 60 = 3 ∨ fld d0 63 60 = 4 → Goes go s (fun t => EndsIn s t id (fault 9 6 (fld d0 59 58)))) ∧
          (fld d0 63 60 = 1 → ¬Granted r d0 → Goes go s (fun t => EndsIn s t id (fault 9 (k.code + 1) (fld d0 59 58))))) ∧
        (PeerSeg s.accel d0 d1 → fld d0 63 60 = 1 → k = .fetch → Goes go s (fun t => EndsIn s t id (fault 8 11 2))))) ∧
    (Plain r → (16 < fld (s.kget (.pseg r.part)) 4 0 ∨ 2 ^ fld (s.kget (.pseg r.part)) 4 0 ≤ fld r.addr 63 48) →
      Goes go s (fun t => EndsIn s t id (fault 8 1 0)))

/-- R315, R317, R322: the region stage: a valid entry's request goes to the block stage of its stack; one that meets a moving
entry is held; and each fault ends a request with its reason. -/
def RegionStage : Prop :=
  ∀ (s : State) (id rtbase rlog2 : Nat) (r : FarReq), s.req? id = some r → r.stage = .region rtbase rlog2 →
    s.stageWaits id r = false →
    let go := Instr.regionStageLookup id
    let lab := fld r.addr 47 28
    let pa := rtbase + 16 * lab
    let d0 := s.table pa
    let d1 := s.table (pa + 8)
    let fault := fun reason => farCause 8 reason r.access 0 2 lab r.addr
    (lab < 2 ^ rlog2 → s.tableBad r.part pa = false →
      (fld d0 59 56 ≤ 11 → fld d0 52 37 = 0 → fld d0 36 32 ≤ 16 → fld d0 31 0 = 0 → fld d1 63 36 = 0 → fld d1 11 0 = 0 →
        (fld d0 63 60 = 1 → Goes go s (fun t => SameMemory s t ∧ Req t id (fun q =>
          q.stage = .block (fld d0 59 56) (fld d0 55 53) (fld d1 35 0) (fld d0 36 32) ∧ q.addr = r.addr ∧ pa ∈ q.passed))) ∧
        (fld d0 63 60 = 2 → s.heldAt 2 r < 256 → Goes go s (fun t => SameMemory s t ∧ Req t id (fun q =>
          q.stage = .hold 2 ∧ q.heldOnce = true)))) ∧
      (Plain r → fld d0 63 60 = 0 →
        (fld (s.kget (.pseg r.part)) 5 5 = 1 → Goes go s (fun t => SameMemory s t ∧ Req t id (fun q => q.stage = .pageIn 2))) ∧
        (fld (s.kget (.pseg r.part)) 5 5 = 0 → Goes go s (fun t => EndsIn s t id (fault 4))))) ∧
    (Plain r → 2 ^ rlog2 ≤ lab → Goes go s (fun t => EndsIn s t id (fault 3)))

/-- R316, R317, R322, R372: the block stage: a valid entry's request joins its channel at its bank, row and column, with the stamp
that it was issued with; one that meets a moving entry is held; and each fault ends a request with its reason. -/
def BlockStage : Prop :=
  ∀ (s : State) (id stack cgroup btbase blog2 : Nat) (r : FarReq), s.req? id = some r →
    r.stage = .block stack cgroup btbase blog2 → s.stageWaits id r = false →
    let go := Instr.blockStageAccess id
    let lab := fld r.addr 27 12
    let pa := stack * 2 ^ 36 + btbase + 8 * lab
    let d := s.table pa
    let fault := fun reason => farCause 8 reason r.access 0 3 lab r.addr
    (lab < 2 ^ blog2 → s.tableBad r.part pa = false →
      (fld d 59 48 = 0 → fld d 39 20 ≤ 4095 → fld d 18 0 = 0 →
        (fld d 63 60 = 1 → r.isProbe = false → Goes go s (fun t => SameMemory s t ∧ Req t id (fun q =>
          q.stage = .channel stack (4 * cgroup + fld d 47 46) (fld d 45 40) (fld d 39 20) (fld d 19 19 * 4096 + fld r.addr 11 0) ∧
          q.stampD = r.stampD ∧ q.cls = r.cls ∧ pa ∈ q.passed))) ∧
        (fld d 63 60 = 2 → s.heldAt 3 r < 256 → Goes go s (fun t => SameMemory s t ∧ Req t id (fun q =>
          q.stage = .hold 3 ∧ q.heldOnce = true)))) ∧
      (Plain r → fld d 63 60 = 0 →
        (fld (s.kget (.pseg r.part)) 5 5 = 1 → Goes go s (fun t => SameMemory s t ∧ Req t id (fun q => q.stage = .pageIn 3))) ∧
        (fld (s.kget (.pseg r.part)) 5 5 = 0 → Goes go s (fun t => EndsIn s t id (fault 6))))) ∧
    (Plain r → 2 ^ blog2 ≤ lab → Goes go s (fun t => EndsIn s t id (fault 5)))

/-- The label of an address at a stage. -/
def labelAt (stage : Nat) (a : W64) : Nat := if stage = 1 then fld a 63 48 else if stage = 2 then fld a 47 28 else fld a 27 12

/-- R264, R317, R322: a request that was sent back goes to the segment stage again. So does one whose entry the page-in service
has installed; a code fetch is dropped and its lanes go on; where the service refuses, the fault is delivered. -/
def StageReturns : Prop :=
  ∀ (s : State) (id k : Nat) (r : FarReq), s.req? id = some r →
    (r.stage = .retry k →
      Goes (.holdQueueRetry id) s (fun t => SameMemory s t ∧ Req t id (fun q => q.stage = .segment ∧ q.addr = r.addr))) ∧
    (r.stage = .pageIn k →
      let c := farCause 8 (2 * k) r.access 0 k (labelAt k r.addr) r.addr
      ((∀ b i, r.who ≠ .fetch b i) →
        Goes (.pageInResume id true) s (fun t => SameMemory s t ∧ Req t id (fun q => q.stage = .segment ∧ q.addr = r.addr)) ∧
        (Plain r → Goes (.pageInResume id false) s (fun t => EndsIn s t id c)) ∧
        (r.isProbe = true → (∀ a l p, r.who ≠ .peer a l p) → (∀ j, r.who ≠ .dev j) →
          Goes (.pageInResume id false) s (fun t => SameMemory s t ∧
            Req t id (fun q => q.stage = .probed (probeFailed r.owner r.rights r.heldOnce c))))) ∧
      (∀ b i w, r.who = .fetch b i → s.weft? b i = some w →
        Goes (.pageInResume id true) s (fun t => SameMemory s t ∧ t.req? id = none ∧ Now t b i (fun w' => SameRegs w w' ∧
          ∀ l, l < w.lanes.length → w'.lane l = if (w.lane l).state = .parked .code then (w.lane l).ready else w.lane l)) ∧
        (s.codeWaiters r.ctx w r.addr = [] →
          Goes (.pageInResume id false) s (fun t => SameMemory s t ∧ t.req? id = none))))

/-- A request is the one that its channel picks (R373), as it is where it alone stands there and may be performed. -/
def Picked (s : State) (stack chan id : Nat) (r : FarReq) : Prop :=
  s.channelPick stack chan = some (id, r) ∨
    (r.cls ≤ 3 ∧ s.reqBehind r = false ∧ ∀ e ∈ s.reqs, e.2.onChannel stack chan = true → e = (id, r))

/-- A message of some payload has left a port on a virtual channel (R327): its credits are used, one for every 64 bytes of its header of
32 and its payload (the model's choice, log 15). -/
def LeftOn (s t : State) (p vc payload : Nat) : Prop :=
  SMap.get (t.uport p).credits 0 vc = SMap.get (s.uport p).credits 0 vc - (32 + payload + 63) / 64

/-- A port can send a message on a virtual channel: it is up and has the credits (R327). -/
def MaySend (s : State) (p vc payload : Nat) : Prop :=
  s.up = true ∧ s.lanesUp p ≠ 0 ∧ (32 + payload + 63) / 64 ≤ SMap.get (s.uport p).credits 0 vc

/-- A matrix command of a band stands in the machine, and may be worked on: the band runs, has its core's matrix state, and no
pending save stops it at a point of R235. -/
structure Working (s : State) (id b : Nat) (bd : Band) (m : MCmd) : Prop where
  band : s.band? b = some bd
  cmd : s.mcmd? id = some (b, bd, m)
  runs : bd.enginesRun = true
  owner : (s.core bd.core).owner = some b
  goes : bd.savePending = true → m.started = true → m.atStop = false

/-- A fetch of the matrix engine lies in the scratchpad of a band, in lines that are present; no storage error has been found, no
earlier value may be read, and it joins no other fetch (R203, R231, R236, R362). -/
structure FetchAt (s : State) (b : Nat) (bd : Band) (x : MFetch) (k off : Nat) : Prop where
  place : s.matAddr b bd x = .ok (.band k, off)
  present : ∀ e ∈ s.cmds, ∀ y ∈ e.2.lines, y.2 ∉ linesOf (.band k) off x.n
  sound : s.flaws = []
  newest : ∀ e, s.band? k = some e → e.old = []
  alone : x.group = 0 ∨ s.mcast = []

/-- The tile of a core. -/
def tileOf (s : State) (core t : Nat) : Tile := (s.core core).mat.tile t

/-- A launch completion counter has counted a launch (R282). -/
def LaunchCounted (s t : State) (doubles : LRec) (err : Bool) : Prop :=
  fld (LRec.d doubles 7) 12 12 = 1 →
    let c := fld (LRec.d doubles 7) 11 0
    (SMap.get t.lcc 0 c).toNat % 2 ^ 48 = ((SMap.get s.lcc 0 c).toNat + 1) % 2 ^ 48 ∧
      (err = true → (SMap.get t.lcc 0 c).getLsbD 63 = true)

/-- A band as its save takes it: every weft that has not retired has stopped (R299). -/
def haltedBand (bd : Band) : Band :=
  { bd with wefts := bd.wefts.map (fun w => { w with stop := if w.retired then none else w.stop.or (some .full) }) }

/-- The result of a translation command of a die (R318): its code, and the sequence number one on. -/
def XlDone (s t : State) (die result : Nat) : Prop :=
  fld (t.kget (.xlstat die)) 62 60 = result ∧ fld (t.kget (.xlstat die)) 31 0 = (fld (s.kget (.xlstat die)) 31 0 + 1) % 2 ^ 32

/-- A double of HBM. -/
def double (s : State) (a : Nat) : Nat := leNat (Mem.read s.hbm a 8)

/-- The local segment entry on the path of a far address (R311, R318): it is VALID or MOVING, its region table and its size. -/
def PathSeg (s : State) (part : Nat) (a : W64) (rtbase rlog2 : Nat) : Prop :=
  ∃ pa d0 d1, SegAt s part a pa d0 d1 ∧ LocalSeg d0 d1 ∧ (fld d0 63 60 = 1 ∨ fld d0 63 60 = 2) ∧
    rtbase = fld d1 39 0 ∧ rlog2 = fld d1 63 59

/-- A well-formed region entry (R315). -/
def GoodReg (d0 d1 : W64) : Prop :=
  fld d0 63 60 ≤ 2 ∧ fld d0 59 56 ≤ 11 ∧ fld d0 52 37 = 0 ∧ fld d0 36 32 ≤ 16 ∧ fld d0 31 0 = 0 ∧ fld d1 63 36 = 0 ∧ fld d1 11 0 = 0

/-- The region entry on the path of a far address: its stack, channel group, block table and size. -/
def PathReg (s : State) (part : Nat) (a : W64) (stack cgroup btbase blog2 : Nat) : Prop :=
  ∃ rtbase rlog2, PathSeg s part a rtbase rlog2 ∧ fld a 47 28 < 2 ^ rlog2 ∧
    let pa := rtbase + 16 * fld a 47 28
    s.tableBad part pa = false ∧ GoodReg (s.table pa) (s.table (pa + 8)) ∧ fld (s.table pa) 63 60 ≠ 0 ∧
      stack = fld (s.table pa) 59 56 ∧ cgroup = fld (s.table pa) 55 53 ∧ btbase = fld (s.table (pa + 8)) 35 0 ∧
      blog2 = fld (s.table pa) 36 32

/-- The entry that a command of a stage names (R318): its address, and its state field. -/
def EntryAt (s : State) (stage part : Nat) (a : W64) (pa state : Nat) : Prop :=
  fld (s.table pa) 63 60 = state ∧ s.tableBad part pa = false ∧
    ((stage = 1 ∧ fld (s.kget (.pseg part)) 4 0 ≤ 16 ∧ fld a 63 48 < 2 ^ fld (s.kget (.pseg part)) 4 0 ∧
        pa = fld (s.kget (.pseg part)) 55 12 * 4096 + 16 * fld a 63 48) ∨
      (stage = 2 ∧ ∃ rtbase rlog2, PathSeg s part a rtbase rlog2 ∧ fld a 47 28 < 2 ^ rlog2 ∧ pa = rtbase + 16 * fld a 47 28) ∨
      (stage = 3 ∧ ∃ stack cgroup btbase blog2, PathReg s part a stack cgroup btbase blog2 ∧ fld a 27 12 < 2 ^ blog2 ∧
        pa = stack * 2 ^ 36 + btbase + 8 * fld a 27 12))

/-- The HBM address that a block entry names (R309, R316). -/
def blockPlace (stack cgroup : Nat) (d : W64) : Nat :=
  stack * 2 ^ 36 + (4 * cgroup + fld d 47 46) * 2 ^ 31 + fld d 45 40 * 2 ^ 25 + fld d 39 20 * 2 ^ 13 + fld d 19 19 * 4096

/-- The new entry of a command is well formed and VALID, and a block entry names a row of the partition (R318). -/
def NewEntry (s : State) (stage part : Nat) (a d2 d3 : W64) : Prop :=
  fld d2 63 60 = 1 ∧
    ((stage = 1 ∧ (LocalSeg d2 d3 ∨ HostSeg d2 d3 ∨ PeerSeg s.accel d2 d3)) ∨
      (stage = 2 ∧ GoodReg d2 d3) ∨
      (stage = 3 ∧ fld d2 59 48 = 0 ∧ fld d2 39 20 ≤ 4095 ∧ fld d2 18 0 = 0 ∧ ∃ stack cgroup btbase blog2,
        PathReg s part a stack cgroup btbase blog2 ∧ s.tagAt (blockPlace stack cgroup d2) = part))

/-- R318, R319, R323: SET installs its entry; MOVE and CLEAR mark theirs moving, REVOKE marks it revoked, and each sends a buoy;
RETIRE frees a revoked entry; a command at a busy die changes only the rejected bit, and one whose entry is not in the state
that it asks for ends with result 2, or 1 where the entry is moving. -/
def XlStarts : Prop :=
  ∀ (s : State) (die part pa : Nat), die < 4 → s.keeperUp = true →
    let d2 := s.kget (.xlcmd die 2)
    let d3 := s.kget (.xlcmd die 3)
    let addr := s.kget (.xlcmd die 0)
    let marked := fun (op stage mark : Nat) (t : State) => double t pa / 2 ^ 60 = mark ∧
      double t pa % 2 ^ 60 = (s.table pa).toNat % 2 ^ 60 ∧ fld (t.kget (.xlstat die)) 63 63 = 1 ∧
      (∃ k g, SMap.find? t.xl die = some ⟨op, stage, part, addr, d2, d3, pa, k, g, .draining, false⟩ ∧
        ∀ stack cgroup btbase blog2, stage = 3 → PathReg s part addr stack cgroup btbase blog2 → k = stack ∧ g = cgroup) ∧
      ∃ x, SMap.find? t.buoys s.stamp = some x ∧ x.why = .command die
    (fld (s.kget (.xlstat die)) 63 63 = 1 → ∀ stage,
      ∀ i ∈ [Instr.xlcmdSet die stage part, .xlcmdMove die stage part, .xlcmdRevoke die stage part, .xlcmdClear die stage part,
        .xlcmdRetire die stage part],
      Goes i s (fun t => SameMemory s t ∧ t.xl = s.xl ∧ fld (t.kget (.xlstat die)) 59 59 = 1)) ∧
    (fld (s.kget (.xlstat die)) 63 63 = 0 → part ≤ 19 →
      (∀ stage, EntryAt s stage part addr pa 0 → NewEntry s stage part addr d2 d3 →
        Goes (.xlcmdSet die stage part) s (fun t => XlDone s t die 0 ∧ double t pa = d2.toNat ∧
          (stage ≠ 3 → double t (pa + 8) = d3.toNat))) ∧
      (∀ stage, stage ≠ 2 → EntryAt s stage part addr pa 1 → NewEntry s stage part addr d2 d3 →
        Goes (.xlcmdMove die stage part) s (marked 2 stage 2)) ∧
      (EntryAt s 2 part addr pa 1 → NewEntry s 2 part addr d2 d3 →
        s.coversBad part (RegEnt.of (s.table pa) (s.table (pa + 8))) (RegEnt.of d2 d3) = none →
        s.covers (RegEnt.of (s.table pa) (s.table (pa + 8))) (RegEnt.of d2 d3) = true →
        Goes (.xlcmdMove die 2 part) s (marked 2 2 2)) ∧
      (EntryAt s 1 part addr pa 1 → Goes (.xlcmdRevoke die 1 part) s (marked 3 1 3)) ∧
      (∀ stage, EntryAt s stage part addr pa 1 → Goes (.xlcmdClear die stage part) s (marked 4 stage 2)) ∧
      (EntryAt s 1 part addr pa 4 →
        Goes (.xlcmdRetire die 1 part) s (fun t => XlDone s t die 0 ∧ double t pa / 2 ^ 60 = 0)) ∧
      (∀ stage state, EntryAt s stage part addr pa state →
        (state ≠ 0 → state ≠ 2 → (state ≠ 3 ∨ stage ≠ 1) →
          Goes (.xlcmdSet die stage part) s (fun t => SameMemory s t ∧ XlDone s t die 2)) ∧
        (state = 2 ∨ (state = 3 ∧ stage = 1) → Goes (.xlcmdSet die stage part) s (fun t => SameMemory s t ∧ XlDone s t die 1))))

/-- R319 to R321, R325, R364: when a command's buoy is back, CLEAR, REVOKE and the move of a segment end, and the move of a region or
of a block copies: its requests put each block's bytes in their new place, the new entry is installed once every one has been
performed, and an error, or a label that the new table does not hold, leaves the old entry valid. -/
def XlEnds : Prop :=
  ∀ (s : State) (die : Nat) (c : XlCmd), SMap.find? s.xl die = some c →
    let ended := fun (t : State) => SMap.find? t.xl die = none
    (∀ (id : Nat) (x : Buoy), SMap.find? s.buoys id = some x → x.before = [] → x.why = .command die →
      let copying := fun (t : State) => SameMemory s t ∧ SMap.find? t.buoys id = none ∧
        SMap.find? t.xl die = some { c with phase := .copying }
      (c.op = 2 → c.stage = 1 → Goes (.buoyReturn id) s (fun t => XlDone s t die 0 ∧ ended t ∧
        double t c.entry = c.d2.toNat ∧ double t (c.entry + 8) = c.d3.toNat)) ∧
      (c.op = 2 → c.stage = 2 → Goes (.buoyReturn id) s copying) ∧
      (c.op = 2 → c.stage = 3 →
        Goes (.buoyReturn id) s (fun t => copying t ∧ Req t s.stamp (fun q => q.who = .dev (.copy die (fld c.addr 27 12)) ∧
          q.cls = 3 ∧ q.len = 4096 ∧ q.stage = FarStage.onHbm (blockPlace c.stack c.cgroup (s.table c.entry))))) ∧
      (c.op = 4 → Goes (.buoyReturn id) s (fun t => XlDone s t die 0 ∧ double t c.entry / 2 ^ 60 = 0 ∧ ended t)) ∧
      (c.op = 3 → Goes (.buoyReturn id) s (fun t => XlDone s t die 0 ∧ double t c.entry / 2 ^ 60 = 4 ∧ ended t))) ∧
    (∀ (id label stack chan k ch bank row col : Nat) (r : FarReq), s.req? id = some r → r.who = .dev (.copy die label) →
      Picked s stack chan id r → r.stage = .channel k ch bank row col → (SMap.get s.hbmIf HbmIf.idle stack).running = false →
      s.dead.contains (9, stack) = false →
      let old := k * 2 ^ 36 + ch * 2 ^ 31 + bank * 2 ^ 25 + row * 2 ^ 13 + col
      (∀ new, s.copyRefused die label old r.part = none → s.poisoned old r.len = false → s.newPlace c label = some new →
        Goes (.hbmScheduleDecision stack chan) s (fun t => t.req? id = none ∧ SMap.find? t.xl die = some c ∧
          ∀ a, Mem.get t.hbm a = if new ≤ a ∧ a < new + 4096 then Mem.get s.hbm (old + (a - new)) else Mem.get s.hbm a)) ∧
      (s.copyRefused die label old r.part ≠ none → Goes (.hbmScheduleDecision stack chan) s (fun t => SameMemory s t ∧
        Req t id (fun q => ∃ x, q.stage = .failed x ∧ x.group = 19)))) ∧
    (c.phase = .copying →
      (c.lost = false → s.copies die = [] →
        Goes (.moveCopyDone die) s (fun t => XlDone s t die 0 ∧ ended t ∧ double t c.entry = c.d2.toNat ∧
          (c.stage ≠ 3 → double t (c.entry + 8) = c.d3.toNat))) ∧
      (s.copies die ≠ [] → Goes (.moveCopyError die true) s (fun t => XlDone s t die 4 ∧ ended t ∧ t.copies die = [] ∧
        double t c.entry / 2 ^ 60 = 1)) ∧
      (c.lost = true → Goes (.moveCopyError die false) s (fun t => XlDone s t die 5 ∧ ended t ∧ t.copies die = [] ∧
        double t c.entry / 2 ^ 60 = 1)))

/-- A row's tag after rows from `row` to `row + cnt` were tagged. -/
def tagged (s t : State) (stack chan bank row cnt tag : Nat) : Prop :=
  ∀ r, r < 4096 → t.rowTag stack chan bank r = if row ≤ r ∧ r ≤ row + cnt then tag else s.rowTag stack chan bank r

/-- The bytes of rows read zero and the others are what they were. -/
def zeroed (s t : State) (stack chan bank row cnt : Nat) : Prop :=
  let lo := stack * 2 ^ 36 + chan * 2 ^ 31 + bank * 2 ^ 25 + row * 2 ^ 13
  ∀ a, Mem.get t.hbm a = if lo ≤ a ∧ a < lo + (cnt + 1) * 2 ^ 13 then 0 else Mem.get s.hbm a

/-- The result of palloc (R378). -/
def Palloc (t : State) (stack result tag row : Nat) : Prop :=
  t.kget (.pallocst stack) = BitVec.ofNat 64 (result * 2 ^ 60 + tag * 2 ^ 12 + row)

/-- An item's records resolve as R335 asks: exactly one is far, through a peer segment that names the channel's peer. -/
def ItemOk (s : State) (d0 : W64) (m : Cmd) : Prop :=
  ∃ r pa e0 e1, m.recs.filter (fun x => Rec.space x.2 == 0) = [r] ∧ SegAt s (fld d0 53 49) r.2.base pa e0 e1 ∧ PeerSeg s.accel e0 e1 ∧
    fld e0 63 60 ≠ 0 ∧ fld e0 9 0 = fld d0 41 32

/-- An item's wait is met (R334): it has none, or its channel is not in ERROR and has counted so far. -/
def ItemWaits (s : State) (m : Cmd) : Prop :=
  ∃ k wait, m.kind = .item k wait ∧ ∀ w v, wait = some (w, v) → (s.chan w).state ≠ 2 ∧ ((s.chan w).count - v).toNat < 2 ^ 47

/-- A number stands in the beacon's table as said. -/
def Num (t : State) (n : BitVec 48) (P : BNum → Prop) : Prop := ∃ x, t.number? n = some x ∧ P x

/-- R336 to R338, R342: communicators, whose removal takes their numbers, and a device off the beacon, which takes the numbers that it is
told in order (the model's choices, log 49; a primary decides with its standby's answer, log 31); a key's number, the next one for a new key; the number lands in its ticket and its s
register; the beacon records what the ranks report. Off the beacon a number is as the beacon tells it. -/
def CollNumbers : Prop :=
  ∀ s : State,
    (∀ num members watermark, num < 2 ^ 16 → members ≠ [] → members.length ≤ 1024 → SMap.find? s.comms num = none →
      Goes (.communicatorRegister num members watermark) s (fun t => SameMemory s t ∧
        SMap.find? t.comms num = some ⟨members, watermark⟩)) ∧
    (∀ num, (SMap.find? s.comms num).isSome = true →
      Goes (.communicatorRemove num) s (fun t => SameMemory s t ∧ SMap.find? t.comms num = none ∧ ∀ e ∈ t.numbers, e.2.comm ≠ num)) ∧
    (∀ comm call acc part (c : Comm), SMap.find? s.comms comm = some c → s.beaconLost = false → (s.decides false).isSome = true →
      (⟨acc, part⟩ : Member) ∈ c.members → acc ≠ s.accel →
      let given := fun (told : Option (BitVec 48)) (n : BitVec 48) => Goes (.beaconKeyRequest comm call acc ⟨part, told⟩) s (fun t =>
        SameMemory s t ∧ t.lastNumber = n ∧ Num t n (fun x => x.comm = comm ∧ x.call = call ∧ x.state = .assigned ∧
          x.at_ = s.now ∧ x.ranks = List.replicate c.members.length .idle))
      (∀ x, s.beaconTable = true → s.keyNumber comm call = some x → Goes (.beaconKeyRequest comm call acc ⟨part, none⟩) s (fun t =>
        SameMemory s t ∧ t.numbers = s.numbers ∧ t.lastNumber = s.lastNumber)) ∧
      (s.keyNumber comm call = none → staleCall c.watermark call = false →
        (s.beaconTable = true → s.mayAssign (s.lastNumber + 1) = true → s.number? (s.lastNumber + 1) = none →
          given none (s.lastNumber + 1)) ∧
        (∀ n, s.beaconTable = false → numBefore s.lastNumber n = true → (∃ m ∈ c.members, m.acc = s.accel) → s.number? n = none →
          given (some n) n))) ∧
    (∀ ctx slot number (k : Ticket) (w : Weft), s.ticket? ctx slot = some k → k.number = none → s.beaconLost = false →
      s.up = true → (s.beaconTable = true ∨ s.linked = true) → (∃ e ∈ s.numbers, e.1 = number.toNat ∧ e.2.comm = k.comm ∧ e.2.call = k.call) →
      s.weft? k.band k.weft = some w →
      Goes (.collTicketLand ctx slot number) s (fun t => SameMemory s t ∧
        (∃ x, t.ticket? ctx slot = some x ∧ x.number = some number) ∧
        Now t k.band k.weft (fun w' => w'.sget k.dst = BitVec.ofNat 64 (slot * 2 ^ 48 + number.toNat) ∧
          ∀ y ∈ w'.await, y.req ≠ k.req))) ∧
    (∀ number rank code x c m old r, s.number? number = some x → RankState.ofCode code = some r →
      SMap.find? s.comms x.comm = some c → c.members[rank]? = some m → x.ranks[rank]? = some old → s.beaconTable = true →
      s.beaconLost = false → (s.decides false).isSome = true → old.mayBecome r = true → m.acc ≠ s.accel →
      Goes (.rankStateReport number rank code) s (fun t => SameMemory s t ∧
        Num t number (fun y => y.ranks = x.ranks.set rank r)))

/-- The elements that a transfer writes lie in its band's scratchpad, its source is sound, and no copy holds a line back. -/
structure Placed (s : State) (bd : Band) (r : CollRun) : Prop where
  dst : ∀ k, k < r.len → ∃ y, s.nearOf r.band bd (Rec.need r.dst.2 k) true = .ok y
  lines : ∀ e ∈ s.cmds, e.2.lines = []
  sound : s.flaws = []

/-- A ticket's transfer stands as said. -/
def RunNow (t : State) (ctx slot : Nat) (P : CollRun → Prop) : Prop := ∃ x u, t.ticket? ctx slot = some x ∧ x.run = some u ∧ P u

/-- R337, R343, R344, R354, R371: a rank starts its number where its source can be read, and asks for the source where that is
far; from then on it is started, and goes on once the source has come; a bank adds the contributions of another rank to the elements
of a sector. -/
def CollTransfers : Prop :=
  ∀ (s : State) (ctx slot : Nat) (k : Ticket) (r : CollRun) (bd : Band), s.ticket? ctx slot = some k → k.run = some r →
    k.fin = none → s.band? r.band = some bd → bd.enginesRun = true →
    (∀ n, k.number = some n → r.taken = false →
      (r.started = false → (∀ x, s.number? n = some x → x.state = .assigned ∨ x.state = .running) ∧
        s.myTurn bd.part n = true ∧ s.fenceHolds r.band r.weft .coll r.stamp = false) →
      let since := if r.started then r.since else s.now
      (Placed s bd r → r.wit = none → Rec.space r.src.2 = 1 → (∀ e ∈ s.bands, e.2.old = []) →
        (∀ j, j < Rec.len r.src.2 → ∃ y, s.nearOf r.band bd (Rec.need r.src.2 j) false = .ok y) →
        Goes (.collectiveRankStart ctx slot n) s (fun t => RunNow t ctx slot (fun u =>
          u.started = true ∧ u.taken = true ∧ u.since = since))) ∧
      (s.collRoom r.band bd r = none → r.wit = none → Rec.space r.src.2 = 0 → Rec.len r.src.2 ≠ 0 → r.have_ = [] → r.loads = [] →
        (∃ e, e < r.len ∧ r.final e = false) →
        Goes (.collectiveRankStart ctx slot n) s (fun t => SameMemory s t ∧ Req t s.stamp (fun q => q.who = .coll ctx slot ∧ q.cls = 2) ∧
          RunNow t ctx slot (fun u => u.started = true ∧ u.taken = false ∧ u.since = since ∧ u.loads ≠ []))) ∧
      ∀ r' s1, s.collStart ctx slot r.band bd r = .ok (r', s1) →
        Goes (.collectiveRankStart ctx slot n) s (fun t => RunNow t ctx slot (fun u => u = r'))) ∧
    (∀ rank elem vals, r.taken = true → r.got.length = r.len → s.collStarts r.band bd r elem = true → rank ≠ r.q →
      (r.need elem).contains rank = true → Placed s bd r →
      let ks := s.collChunk r.band bd r elem
      (∀ e ∈ ks, (r.got.getD e []).contains rank = false) → vals.length = ks.length → vals ≠ [] →
      Goes (.bankAdderCombine ctx slot rank elem vals) s (fun t => RunNow t ctx slot (fun u =>
        ∀ e, u.got.getD e [] = if e ∈ ks then r.got.getD e [] ++ [rank] else r.got.getD e [])))

/-- An abort of a number is under way, or over, for a reason (R338). -/
def Aborting (t : State) (n : BitVec 48) (reason : Nat) : Prop :=
  Num t n (fun x => (x.state = .aborting ∨ x.state = .done) ∧ x.reason = reason)

/-- A count of an error counter has gone one up, or stands at its limit (R364). -/
def ErrCounted (s t : State) (unit inst hi lo : Nat) : Prop :=
  fld (t.kget (.errcnt unit inst)) hi lo = min (fld (s.kget (.errcnt unit inst)) hi lo + 1) (2 ^ (hi - lo + 1) - 1)

/-- R361, R362, R364, R365, R371: the scrub of a stack is a request of class 3, whose channel corrects or poisons the codeword; the
scrub of a die's scratchpad counts what it finds. -/
def Scrubs : Prop :=
  ∀ s : State,
    (∀ (index bad : Nat) (addr : W64), index < Config.hbmStacks → addr.toNat / 2 ^ 36 = index →
      fld (s.kget (.pscrub index)) 63 63 = 1 →
      Goes (.patrolScrub 9 index addr bad) s (fun t => SameMemory s t ∧ Req t s.stamp (fun q =>
        q.who = .dev (.scrub addr.toNat bad) ∧ q.cls = 3 ∧ q.stage = FarStage.onHbm addr.toNat))) ∧
    (∀ (id a bad k c : Nat) (r : FarReq), s.req? id = some r → r.who = .dev (.scrub a bad) → Picked s k c id r →
      (SMap.get s.hbmIf HbmIf.idle k).running = false → s.dead.contains (9, k) = false →
      (bad = 1 → Goes (.hbmScheduleDecision k c) s (fun t => t.hbm = s.hbm ∧ t.req? id = none ∧ t.poison = s.poison ∧
        ErrCounted s t 9 (a / 2 ^ 36) 63 32)) ∧
      (2 ≤ bad → Goes (.hbmScheduleDecision k c) s (fun t => t.hbm = s.hbm ∧ t.req? id = none ∧ ⟨a / 64 * 64, none⟩ ∈ t.poison ∧
        ErrCounted s t 9 (a / 2 ^ 36) 31 16))) ∧
    (∀ (die : Nat) (addr : W64), die < 4 → fld (s.kget (.pscrub (12 + die))) 63 63 = 1 →
      Goes (.patrolScrub 3 die addr 1) s (fun t => t.hbm = s.hbm ∧ ErrCounted s t 3 die 63 32) ∧
      Goes (.patrolScrub 3 die addr 2) s (fun t => t.hbm = s.hbm ∧ ErrCounted s t 3 die 31 16))

/-- R327, R361, R362, R364, R366 to R370: a replay counts; an error window is recorded, and a port leaves a pair of lanes with a bad
lane; a width change and retraining go as the port and its partner say. -/
def PortLinks : Prop :=
  ∀ s : State,
    (∀ p, p < Config.ports → s.lanesUp p ≠ 0 →
      Goes (.linkLayerReplay p) s (fun t => t.hbm = s.hbm ∧ ErrCounted s t 0x0B p 63 32) ∧
      (∀ a b c d, a ≤ fld (s.kget (.pberr p)) 43 24 → b ≤ fld (s.kget (.pberr p)) 43 24 → c ≤ fld (s.kget (.pberr p)) 43 24 →
        d ≤ fld (s.kget (.pberr p)) 43 24 → fld (s.kget (.pberr p)) 43 24 ≤ fld (s.kget (.pberr p)) 63 44 →
        Goes (.berWindowEnd p [a, b, c, d]) s (fun t => SameMemory s t ∧ t.lanesUp p = s.lanesUp p ∧
          fld (t.kget (.pberr p)) 19 0 = max (max a b) (max c d) ∧ (t.uport p).want = (s.uport p).want)) ∧
      (∀ a b c d, s.lanesUp p = 15 → a ≤ fld (s.kget (.pberr p)) 63 44 → b ≤ fld (s.kget (.pberr p)) 63 44 →
        fld (s.kget (.pberr p)) 63 44 < c →
        Goes (.berWindowEnd p [a, b, c, d]) s (fun t => t.hbm = s.hbm ∧ (t.uport p).want = some 3)) ∧
      (∀ m, m ∈ [15, 3, 12, 1, 2, 4, 8] → m &&& (s.retraining p ||| s.disabled p) = 0 →
        (s.disabled p = 0 ∨ (lanesOf m).length ≤ (lanesOf (s.lanesUp p)).length) →
        Goes (.partnerWidthRequest p m) s (fun t => SameMemory s t ∧ (t.uport p).want = some m))) ∧
    (∀ p m, (s.uport p).want = some m →
      (m < 16 → s.lanesUp p ≠ 0 → Goes (.linkWidthSwitch p) s (fun t => t.hbm = s.hbm ∧ t.lanesUp p = m ∧ (t.uport p).want = none ∧
        fld (t.kget (.plink p)) 1 0 = widthCode m)) ∧
      (s.lanesUp p < 16 → Goes (.partnerWidthRefusal p) s (fun t => SameMemory s t ∧ t.lanesUp p = 0 ∧ (t.uport p).want = none ∧
        t.retraining p = s.retraining p ||| s.lanesUp p))) ∧
    (∀ p lane, lane < 4 → s.retraining p / 2 ^ lane % 2 = 1 →
      Goes (.laneRetrainDone p lane) s (fun t => t.hbm = s.hbm ∧ t.retraining p / 2 ^ lane % 2 = 0) ∧
      (SMap.get (s.uport p).fails 0 lane < 2 →
        Goes (.laneRetrainFail p lane) s (fun t => SameMemory s t ∧ t.kget (.plink p) = s.kget (.plink p) ∧
          SMap.get (t.uport p).fails 0 lane = SMap.get (s.uport p).fails 0 lane + 1)) ∧
      (2 ≤ SMap.get (s.uport p).fails 0 lane →
        Goes (.laneRetrainFail p lane) s (fun t => t.hbm = s.hbm ∧ t.disabled p / 2 ^ lane % 2 = 1 ∧
          t.retraining p / 2 ^ lane % 2 = 0)))

/-- R380: an HBM interface retrains after a window with too many errors, on request, or at the deadline of a request that waits
for a save; a finished retraining leaves its time. -/
def HbmLinks : Prop :=
  ∀ (s : State) (k : Nat), k < Config.hbmStacks →
    ((s.hbmAt k).running = false →
      (∀ n, n ≤ fld (s.kget (.hbmret k)) 63 48 → Goes (.hbmCrcWindow k n) s (fun t => SameMemory s t ∧ t.hbmIf = s.hbmIf)) ∧
      (∀ n, fld (s.kget (.hbmret k)) 63 48 < n → Goes (.hbmCrcWindow k n) s (fun t => t.hbm = s.hbm ∧ (t.hbmAt k).running = true)) ∧
      (s.keeperUp = true → s.saveStreams k = false → Goes (.hbmRetrainRequest k) s (fun t => SameMemory s t ∧ (t.hbmAt k).running = true)) ∧
      (s.keeperUp = true → s.saveStreams k = true → (s.hbmAt k).requested = none →
        Goes (.hbmRetrainRequest k) s (fun t => SameMemory s t ∧ (t.hbmAt k).running = false ∧ (t.hbmAt k).requested = some s.now)) ∧
      (∀ at_, (s.hbmAt k).requested = some at_ → at_ + 1000000 * fld (s.kget (.hbmret k)) 47 32 ≤ s.now →
        Goes (.hbmRetrainDeadline k) s (fun t => SameMemory s t ∧ (t.hbmAt k).running = true))) ∧
    (∀ us, (s.hbmAt k).running = true → us ≤ 50 → Goes (.hbmRetrainDone k us) s (fun t => t.hbm = s.hbm ∧
      (t.hbmAt k).running = false ∧ fld (t.kget (.hbmret k)) 31 16 = us))

/-- Registers whose writes start a command or change more than themselves. -/
def KReg.special : KReg → Bool
  | .xlcmd _ _ => true
  | .palloc _ => true
  | .psched _ => true
  | .pbeacon => true
  | .pwrlim => true
  | _ => false

/-- Words of the spec's worked encodings with what they decode to. -/
def worked : List (List Nat × Instr) := [
  ([0x1001_0020_1901_E281], .fadd ⟨4, false, .op (.v 2), .op (.v 3), .none, 1, false, 0, Guard.always, .b, .rotate 2 1⟩),
  ([0x8008_02F1_241B_0260], .pairIadd ⟨8, .v 5, 7, 1⟩ .fmul ⟨13, .s 2, 3, 0⟩),
  ([0x3802_A089_A400_0040], .ld ⟨10, .s 4, 2, .band, ⟨true, 2⟩, true, false, 0x40⟩),
  ([0x3001_2000_0000_0003], .bra ⟨false, 0, ⟨true, 1⟩, none, 3⟩),
  ([0x3280_E000_0000_0000], .nop ⟨false, 0, Guard.always, none, 0⟩),
  ([0x4000_0000_0003_9000], .phase .die),
  ([0x4080_0000_0003_9C00], .bar 3 true Guard.always),
  ([0x4880_C020_0003_8000], .tcopy 3 1 0 false Guard.always),
  ([0x4BC0_0000_0003_B000], .mzero 1 true Guard.always),
  ([0x4D42_A080_0003_8000], .coll 10 4 Guard.always),
  ([0x5800_C000_000E_0000], .mfsr (.v32 3) .tcause Guard.always),
  ([0x5880_0000_000E_0000], .eret),
  ([0x5900_0007_0000_0005], .bkpt Guard.always 5),
  ([0x5940_0000_4003_8000, 0x0000_0005_0200_0040], .ppoint ⟨0, 16, 5, 0x80, 4, 0⟩) ]

/-- The v registers that a word writes in its acting lanes. -/
def vDsts (op : F3Op) (f : F3) : List Nat := dstRegs (f.dstKind op) f.dst.val f.nwb

/-- The predicate that a word writes in its acting lanes. -/
def pDsts (op : F3Op) (f : F3) : List Nat :=
  if op = .iaddc ∨ op = .isubb then [f.ext.val] else if f.dstKind op = .p then [f.dst.val] else []

/-- The s register that a word writes. -/
def sDsts (op : F3Op) (f : F3) : List Nat :=
  match f.dstKind op with
  | .s => [f.dst.val]
  | .lstk => [(f.dst.val - 1) / 2]
  | _ => []

/-- What a lane word leaves as it was in its weft: the registers it does not name, and the lanes that do not act; the spill
memory, the system registers that it does not name, the register block; its flags only gain bits (R94); of a lane it changes
the program counter and the stochastic-rounding state. -/
structure Frame (w w' : Weft) (g : Guard) (vs ps ss : List Nat) : Prop where
  v : ∀ r l, l < 64 → (r ∉ vs ∨ ¬Acts w g l) → w'.vget r l = w.vget r l
  p : ∀ r, r ∉ ps → w'.pget r = w.pget r
  pLanes : ∀ r l, l < 64 → ¬Acts w g l → (w'.pget r).getLsbD l = (w.pget r).getLsbD l
  s : ∀ r, r ∉ ss → w'.sget r = w.sget r
  flags : ∃ x : Exc, w'.flags = w.flags ||| x.setWidth 64
  rest : w'.hangk = w.hangk ∧ w'.wlast = w.wlast ∧ w'.ext = w.ext ∧ w'.spill = w.spill ∧ w'.uspill = w.uspill ∧
    w'.wbuf = w.wbuf ∧ w'.rb = w.rb ∧ w'.bundle = w.bundle ∧ w'.lanes.length = w.lanes.length
  lanes : ∀ l, { w'.lane l with pc := 0, rs := 0 } = { w.lane l with pc := 0, rs := 0 }

/-- An F3 word that may raise exceptions: those of each of its elements in a lane, element 0 first. -/
structure ExcRow where
  op : F3Op
  ins : F3 → Instr
  exc : F3 → Weft → Nat → List Exc

/-- The exceptions of a word by its sources. -/
def excOf (op : F3Op) (ins : F3 → Instr) (g : F3 → Nat → Nat → Nat → List Exc) : ExcRow :=
  ⟨op, ins, fun f w l =>
    let x := f3In op f none w
    g f (x.a32 l).toNat (x.b32 l).toNat (x.c32 l).toNat⟩

/-- The exceptions of a word on two halves. -/
def excHalf (op : F3Op) (ins : F3 → Instr) (g : F3 → Nat → Nat → Nat → Res) : ExcRow :=
  excOf op ins (fun f a b c => [(g f (a % 65536) (b % 65536) (c % 65536)).exc, (g f (a / 65536) (b / 65536) (c / 65536)).exc])

/-- The exceptions of a word with one result. -/
def excOne (op : F3Op) (ins : F3 → Instr) (g : F3 → Nat → Nat → Nat → Exc) : ExcRow := excOf op ins (fun f a b c => [g f a b c])

/-- SAT where a sum leaves the range of 32 bits (R92, R102). -/
def excSat (on : Bool) (x : Int) : Exc := if on && (decide (x < -2 ^ 31) || decide (2 ^ 31 ≤ x)) then Exc.sat else 0

/-- SAT where a step of a saturating dot product leaves the range (R106). -/
def excDot (f : Fmt) (a b c : Nat) : Exc :=
  ((List.range (32 / f.width)).foldl (fun (t : W32 × Exc) k =>
    let x := t.1.toInt + elemOf f (BitVec.ofNat 32 a) k * elemOf f (BitVec.ofNat 32 b) k
    (sat32 x, t.2 ||| excSat true x)) (BitVec.ofNat 32 c, 0)).2

/-- The exceptions of a plain conversion (R136): its elements are numbered as those of the register that it takes or fills in part. -/
def excCvt (op : F3Op) (ins : F3 → Instr) : ExcRow :=
  ⟨op, ins, fun f w l =>
    let d := f.fmts.1
    let s := f.fmts.2
    let n := cvtCount d s
    let before := if n < 32 / s.width ∨ n * d.width < 32 then f.ext.val % 8 * n else 0
    List.replicate before 0 ++ (List.range n).map (fun k =>
      let from_ := if n < 32 / s.width then f.ext.val % 8 * n else 0
      (convert d s (rndOf f) (drawOf f w l k) f.sat (elemAt s.width ((f3In op f none w).a32 l) (from_ + k))).exc)⟩

/-- The exceptions of QCVT (R140). -/
def excQcvt (f : F3) (w : Weft) (l : Nat) : List Exc :=
  let d := f.fmts.1
  let s := f.fmts.2
  (List.range (32 / s.width)).map (fun k => (quantElem d (rndOf f) (drawOf f w l k) (sharedScale d (blockElems .qcvt f s w l))
    (s.value (elemAt s.width ((f3In .qcvt f none w).a32 l) k))).exc)

/-- The F3 words that may raise exceptions. -/
def excRows : List ExcRow := [
  excOne .fadd .fadd (fun f a b _ => (FInfo.f32.fadd (rndOf f) a b).exc),
  excOne .fsub .fsub (fun f a b _ => (FInfo.f32.fsub (rndOf f) a b).exc),
  excOne .fmul .fmul (fun f a b _ => (FInfo.f32.fmul (rndOf f) a b).exc),
  excOne .fmin .fmin (fun _ a b _ => (fminmax false a b).exc), excOne .fmax .fmax (fun _ a b _ => (fminmax true a b).exc),
  excOne .fcmp .fcmp (fun f a b _ => (fcmp f.ext.val a b).2), excOne .frnd .frnd (fun f a _ _ => (frnd (rndOf f) a).exc),
  excOne .fscale .fscale (fun f a b _ => (fscale (rndOf f) a (BitVec.ofNat 32 b).toInt).exc),
  excOne .fexpn .fexpn (fun _ a _ _ => (fexpn a).2),
  excOne .ffmaRne .ffmaRne (fun _ a b c => (FInfo.f32.fma .rne a b c).exc),
  excOne .ffmaRz .ffmaRz (fun _ a b c => (FInfo.f32.fma .rz a b c).exc),
  excOne .ffmaRd .ffmaRd (fun _ a b c => (FInfo.f32.fma .rd a b c).exc),
  excOne .ffmaRu .ffmaRu (fun _ a b c => (FInfo.f32.fma .ru a b c).exc),
  excHalf .hadd2 .hadd2 (fun f a b _ => (halfOf f).fadd (rndOf f) a b),
  excHalf .hmul2 .hmul2 (fun f a b _ => (halfOf f).fmul (rndOf f) a b),
  excHalf .hfma2F16Rne .hfma2F16Rne (fun _ => FInfo.f16.fma .rne), excHalf .hfma2F16Rz .hfma2F16Rz (fun _ => FInfo.f16.fma .rz),
  excHalf .hfma2F16Rd .hfma2F16Rd (fun _ => FInfo.f16.fma .rd), excHalf .hfma2F16Ru .hfma2F16Ru (fun _ => FInfo.f16.fma .ru),
  excHalf .hfma2Bf16Rne .hfma2Bf16Rne (fun _ => FInfo.bf16.fma .rne), excHalf .hfma2Bf16Rz .hfma2Bf16Rz (fun _ => FInfo.bf16.fma .rz),
  excHalf .hfma2Bf16Rd .hfma2Bf16Rd (fun _ => FInfo.bf16.fma .rd), excHalf .hfma2Bf16Ru .hfma2Bf16Ru (fun _ => FInfo.bf16.fma .ru) ] ++
  [(F3Op.fdot2F16Rne, Instr.fdot2F16Rne, FInfo.f16, Rnd.rne), (.fdot2F16Rz, .fdot2F16Rz, .f16, .rz), (.fdot2F16Rd, .fdot2F16Rd, .f16, .rd),
    (.fdot2F16Ru, .fdot2F16Ru, .f16, .ru), (.fdot2Bf16Rne, .fdot2Bf16Rne, .bf16, .rne), (.fdot2Bf16Rz, .fdot2Bf16Rz, .bf16, .rz),
    (.fdot2Bf16Rd, .fdot2Bf16Rd, .bf16, .rd), (.fdot2Bf16Ru, .fdot2Bf16Ru, .bf16, .ru)].map
      (fun r => excOne r.1 r.2.1 (fun _ a b c => (fdot2 r.2.2.1 r.2.2.2 a b c).exc)) ++
  [(F3Op.rcp, Instr.rcp, SFn.rcp), (.rsq, .rsq, .rsq), (.sqrt, .sqrt, .sqrt), (.exp2, .exp2, .exp2), (.log2, .log2, .log2),
    (.sin, .sin, .sin), (.cos, .cos, .cos), (.tanh, .tanh, .tanh), (.sigm, .sigm, .sigm), (.erf, .erf, .erf)].map
      (fun r => excOne r.1 r.2.1 (fun f a _ _ => (r.2.2.eval (rndOf f) a).exc)) ++ [
  excOne .iadd .iadd (fun f a b _ => excSat f.sat ((BitVec.ofNat 32 a).toInt + (BitVec.ofNat 32 b).toInt)),
  excOne .isub .isub (fun f a b _ => excSat f.sat ((BitVec.ofNat 32 a).toInt - (BitVec.ofNat 32 b).toInt)),
  excOne .ineg .ineg (fun f a _ _ => excSat f.sat (-(BitVec.ofNat 32 a).toInt)),
  excOne .iabs .iabs (fun f a _ _ => excSat f.sat (max (BitVec.ofNat 32 a).toInt (-(BitVec.ofNat 32 a).toInt))),
  excOne .dot4i8Sat .dot4i8Sat (fun _ a b c => excDot .s8 a b c), excOne .dot8i4Sat .dot8i4Sat (fun _ a b c => excDot .s4 a b c),
  excCvt .fcvt .fcvt, excCvt .i2f .i2f, excCvt .f2i .f2i, ⟨.qcvt, .qcvt, excQcvt⟩,
  ⟨.scalex, .scalex, fun f w l => [if sharedScale f.fmts.1 (blockElems .scalex f f.fmts.2 w l) = .bad then Exc.iv else 0]⟩ ]

/-- The bit that the class of an FP32 number sets (R131). -/
def classBit (a : W32) : Nat :=
  let e := a.toNat / 2 ^ 23 % 256
  let m := a.toNat % 2 ^ 23
  let neg := a.getLsbD 31
  if e = 255 then (if m = 0 then (if neg then 0 else 7) else if a.getLsbD 22 then 9 else 8)
  else if e = 0 then (if m = 0 then (if neg then 3 else 4) else if neg then 2 else 5)
  else if neg then 1 else 6

end Sys2Proof.Claims

open Sys2Proof.Claims

/-- R103, R106, R107, R23: the integer words and the dot products write their results. Exceptions enabled or registers marked
failed are other statements' matter. -/
def Obligations.IntegerWords : Prop :=
  ∀ r ∈ intRows ++ dotRows, ∀ (f : F3) (s : State) (b i : Nat) (bd : Band) (w : Weft),
    Issues s b i bd w (f3Needs r.op f none w) → Calm w →
    Goes (r.ins f) s (fun t => OnlyWeft s t b i ∧
      Now t b i (fun w' => Result32 w w' f.guard f.dst.val f.nwb (r.at_ f w) ∧ Moved w w' 8))

/-- R127 to R135, R142: the floating-point words write the values that the arithmetic gives, and the special functions those of
the model's arithmetic (their precision is the model's choice, log 10). -/
def Obligations.FloatWords : Prop :=
  ∀ r ∈ floatRows ++ specialRows, ∀ (f : F3) (s : State) (b i : Nat) (bd : Band) (w : Weft),
    Issues s b i bd w (f3Needs r.op f none w) → Calm w →
    Goes (r.ins f) s (fun t => OnlyWeft s t b i ∧
      Now t b i (fun w' => Result32 w w' f.guard f.dst.val f.nwb (r.at_ f w) ∧ Moved w w' 8))

/-- R105: the 64-bit integer words write their results. -/
def Obligations.WideWords : Prop :=
  ∀ r ∈ wideRows, ∀ (f : F3) (s : State) (b i : Nat) (bd : Band) (w : Weft),
    Issues s b i bd w (f3Needs r.op f none w) → Calm w →
    Goes (r.ins f) s (fun t => OnlyWeft s t b i ∧
      Now t b i (fun w' => Result64 w w' f.guard f.dst.val f.nwb (fun l =>
        let x := f3In r.op f none w
        r.val f (x.a l) (x.b l) (x.c l)) ∧ Moved w w' 8))

/-- R104: IADDC and ISUBB write the sum or difference with the carry predicate, and the new carry in the same predicate; the
code 7 for it and a nonzero [22:21] are reserved. -/
def Obligations.CarryWords : Prop :=
  (∀ w, w < 2 ^ 64 → bits w 63 54 = F3Op.iaddc.info.opc ∨ bits w 63 54 = F3Op.isubb.info.opc →
    (bits w 22 21 ≠ 0 ∨ bits w 20 18 = 7) → ∃ r d, decodeWords [w] = .bad r d) ∧
  ∀ (sub : Bool) (f : F3) (s : State) (b i : Nat) (bd : Band) (w : Weft), f.ext.val < 7 →
    let op := if sub then F3Op.isubb else F3Op.iaddc
    let x := f3In op f none w
    let k := fun l => ((w.pget f.ext.val).getLsbD l).toNat
    let sum := fun l => (x.a32 l).toNat + (x.b32 l).toNat + k l
    let diff := fun l => ((x.a32 l).toNat : Int) - (x.b32 l).toNat - k l
    Issues s b i bd w (f3Needs op f none w) → w.failed = [] →
    Goes (if sub then .isubb f else .iaddc f) s (fun t => OnlyWeft s t b i ∧
      Now t b i (fun w' =>
        Result32 w w' f.guard f.dst.val f.nwb (fun l => if sub then BitVec.ofInt 32 (diff l) else BitVec.ofNat 32 (sum l))
          ∧ ResultP w w' f.guard f.ext.val (fun l => if sub then decide (diff l < 0) else decide (2 ^ 32 ≤ sum l))
          ∧ Moved w w' 8))

/-- R108, R112, R130, R153: the words with a predicate destination write their results. -/
def Obligations.PredicateWords : Prop :=
  ∀ r ∈ predRows, ∀ (f : F3) (s : State) (b i : Nat) (bd : Band) (w : Weft), f.dst.val < 7 →
    Issues s b i bd w (f3Needs r.op f none w) → Calm w →
    Goes (r.ins f) s (fun t => OnlyWeft s t b i ∧
      Now t b i (fun w' => ResultP w w' f.guard f.dst.val (r.val f w) ∧ Moved w w' 8))

/-- R108, R151, R155: SEL, the quad exchanges and LANEMASK write their results. QSWAP's codes are below 3 (R151). -/
def Obligations.MoveWords : Prop :=
  ∀ r ∈ moveRows, ∀ (f : F3) (s : State) (b i : Nat) (bd : Band) (w : Weft), (r.1 = .qswap → f.ext.val < 3) → w.width ≤ 64 →
    Issues s b i bd w (f3Needs r.1 f none w) → Calm w →
    Goes (r.2.1 f) s (fun t => OnlyWeft s t b i ∧
      Now t b i (fun w' => Result32 w w' f.guard f.dst.val f.nwb (r.2.2 f w) ∧ Moved w w' 8))

/-- R109, R110, R111, R154: MOV, MOVI, LSTK and BALLOT write the register that their fields name: MOV a v register, a v pair
or an s register, MOVI a v or an s register, LSTK a v pair or an s register, and BALLOT an s register. An s register takes
the value of the lowest acting lane that is not a helper; BALLOT and MOVI write where any lane acts. -/
def Obligations.ScalarWords : Prop :=
  ∀ (f : F3) (m : FMovi) (s : State) (b i : Nat) (bd : Band) (w : Weft), Calm w →
    (Issues s b i bd w (f3Needs .mov f none w) →
      Goes (.mov f) s (fun t => Now t b i (fun w' => Moved w w' 8 ∧
        (f.ext.val = 0 → Result32 w w' f.guard f.dst.val f.nwb (fun l => (f3In .mov f none w).a32 l)) ∧
        (f.ext.val = 2 → Result64 w w' f.guard f.dst.val f.nwb (fun l => (f3In .mov f none w).a l)) ∧
        (f.ext.val = 1 ∨ f.ext.val = 3 → ∀ l, Leads w f.guard l → w'.sget f.dst.val = (f3In .mov f none w).a l)))) ∧
    (Issues s b i bd w (moviNeeds m w) →
      Goes (.movi m) s (fun t => Now t b i (fun w' => Moved w w' 8 ∧
        (m.sel.val = 0 → Result32 w w' m.guard m.dst.val m.nwb (fun _ => m.imm)) ∧
        (m.sel.val = 1 → ∀ l, Acts w m.guard l → w'.sget m.dst.val = m.imm.signExtend 64) ∧
        (m.sel.val = 2 → ∀ l, Acts w m.guard l → w'.sget m.dst.val = m.imm.setWidth 64)))) ∧
    (Issues s b i bd w (f3Needs .lstk f none w) →
      let x := f3In .lstk f none w
      let v := fun l => stackWord (x.a32 l) (x.b32 l) (x.c32 l)
      Goes (.lstk f) s (fun t => Now t b i (fun w' => Moved w w' 8 ∧
        (f.dst.val % 2 = 0 → Result64 w w' f.guard f.dst.val f.nwb v) ∧
        (f.dst.val % 2 = 1 → ∀ l, Leads w f.guard l → w'.sget ((f.dst.val - 1) / 2) = v l)))) ∧
    (Issues s b i bd w (f3Needs .ballot f none w) →
      Goes (.ballot f) s (fun t => Now t b i (fun w' => Moved w w' 8 ∧
        ∀ l, Acts w f.guard l → ∀ h, h < 64 →
          (w'.sget f.dst.val).getLsbD h
            = ((w.nonHelpers (w.act f.guard)).contains h && predOf w f.a h))))

/-- R136 to R141: the conversions write their results. FCVT, I2F and F2I convert n elements in each lane: they fill a v pair or
a v register, or replace the n elements at the word's position, the other bits of the register keeping their value. QCVT writes
a block's elements and its scale, SCALEX the scale alone. Under RS each element takes one step of the lane's state (R86). -/
def Obligations.ConversionWords : Prop :=
  (∀ r ∈ [(F3Op.fcvt, Instr.fcvt), (.i2f, .i2f), (.f2i, .f2i)],
    ∀ (f : F3) (d s' : Fmt) (s : State) (b i : Nat) (bd : Band) (w : Weft),
    f.b = .fmt d s' → fmtPairOk r.1 d s' = true → f.ext.val % 8 < convP d s' →
    Issues s b i bd w (f3Needs r.1 f none w) → Calm w →
    let n := cvtCount d s'
    let e := cvtElem r.1 f d s' w
    Goes (r.2 f) s (fun t => OnlyWeft s t b i ∧
      Now t b i (fun w' => Moved w w' 8 ∧
        (n * d.width = 64 → Result64 w w' f.guard f.dst.val f.nwb (fun l => BitVec.ofNat 64 (packed d.width n (e l)))) ∧
        (n * d.width = 32 → Result32 w w' f.guard f.dst.val f.nwb (fun l => BitVec.ofNat 32 (packed d.width n (e l)))) ∧
        (n * d.width < 32 → Result32 w w' f.guard f.dst.val f.nwb (fun l =>
          merged d.width (f.ext.val % 8 * n) n f.nwb (w.vget f.dst.val l) (e l))) ∧
        ∀ l, Acts w f.guard l → (w'.lane l).rs = lfsrAfter (rsSteps f n) (w.lane l).rs))) ∧
  (∀ (f : F3) (d s' : Fmt) (s : State) (b i : Nat) (bd : Band) (w : Weft),
    f.b = .fmt d s' → fmtPairOk .qcvt d s' = true →
    Issues s b i bd w (f3Needs .qcvt f none w) → Calm w →
    let n := 32 / s'.width
    let scale := fun l => sharedScale d (blockElems .qcvt f s' w l)
    let e := fun l k => (quantElem d (rndOf f) (drawOf f w l k) (scale l)
      (s'.value (elemAt s'.width ((f3In .qcvt f none w).a32 l) k))).bits
    Goes (.qcvt f) s (fun t => OnlyWeft s t b i ∧
      Now t b i (fun w' => Moved w w' 8 ∧
        Result32 w w' f.guard f.dst.val f.nwb (fun l =>
          BitVec.ofNat 32 ((scale l).code * 2 ^ 24 + packed d.width n (e l))) ∧
        ∀ l, Acts w f.guard l → (w'.lane l).rs = lfsrAfter (rsSteps f n) (w.lane l).rs))) ∧
  ∀ (f : F3) (d s' : Fmt) (s : State) (b i : Nat) (bd : Band) (w : Weft),
    f.b = .fmt d s' → fmtPairOk .scalex d s' = true →
    Issues s b i bd w (f3Needs .scalex f none w) → Calm w →
    Goes (.scalex f) s (fun t => OnlyWeft s t b i ∧
      Now t b i (fun w' => Moved w w' 8 ∧
        Result32 w w' f.guard f.dst.val f.nwb (fun l =>
          BitVec.ofNat 32 (sharedScale d (blockElems .scalex f s' w l)).code)))

/-- R113, R127: the immediate words write their results. -/
def Obligations.ImmediateWords : Prop :=
  ∀ r ∈ immRows, ∀ (f : FI) (s : State) (b i : Nat) (bd : Band) (w : Weft),
    Issues s b i bd w (fiNeeds r.k f w) → Calm w →
    Goes (r.ins f) s (fun t => OnlyWeft s t b i ∧
      Now t b i (fun w' => Result32 w w' f.guard f.dst.val f.nwb (fun l => r.val ((fiIn r.k f w).a32 l) f.imm) ∧ Moved w w' 8))

/-- R35, R48, R49: a pair does both halves, whichever halves they are; which lane decides an s form is the model's choice (log 26).
The latch entries that they push are not said here. -/
def Obligations.PairWords : Prop :=
  ∀ r ∈ pairRows, ∀ (h : Half) (q : PairOp) (k : Half) (s : State) (b i : Nat) (bd : Band) (w : Weft),
    pairOk r.1 h q k = true → w.width ≤ 64 → Issues s b i bd w (pairNeeds r.1 h q k w) → Calm w →
    Goes (r.2 h q k) s (fun t => OnlyWeft s t b i ∧
      Now t b i (fun w' => HalfDone w w' r.1 h ∧ HalfDone w w' q k ∧ Moved w w' 8))

/-- R28: a ROUTEX word and its F3 word are one word of 16 bytes: the integer, dot-product and floating-point words write
the results that they write without it, from sources that all three routes reach. -/
def Obligations.RoutexWord : Prop :=
  ∀ r ∈ intRows ++ dotRows ++ floatRows, ∀ (fx : FX) (f : F3) (s : State) (b i : Nat) (bd : Band) (w : Weft),
    Issues s b i bd w (f3Needs r.op f (some fx) w) → Calm w →
    let x := f3In r.op f (some fx) w
    Goes (.routex fx r.op f) s (fun t => OnlyWeft s t b i ∧
      Now t b i (fun w' => Result32 w w' f.guard f.dst.val f.nwb (fun l => r.val f (x.a32 l) (x.b32 l) (x.c32 l)) ∧ Moved w w' 16))

/-- R114 to R119, R259: branches, calls, returns and loops. CALL and CALLX write the return address in s(k), the address of the word
after them, when a lane takes the transfer; LOOP takes one from its counter and goes back while it is not zero. A word that asks for
one outcome and meets two traps. -/
def Obligations.BranchWords : Prop :=
  ∀ (f : FB) (s : State) (b i : Nat) (bd : Band) (w : Weft), Calm w → w.width ≤ 64 →
    (let all := fun _ => true
     let none_ := fun (_ : Weft) => True
     (Issues s b i bd w Needs.none → Transfers (.bra f) s b i bd w f all (fun _ => near w f) none_) ∧
     (∀ n : Fin 256, f.operand = some (.v n) → Issues s b i bd w (ctlNeeds [⟨.v n, true, .s32, fun l => some l, none⟩]) →
      Transfers (.brx f) s b i bd w f all (fun l => aligned (w.vget64 n.val l)) none_) ∧
     (∀ n : Fin 64, f.operand = some (.s n) →
      let back := fun (w' : Weft) => w'.sget n.val = if anyAct w f.guard then w.pc + 8 else w.sget n.val
      (Issues s b i bd w (ctlNeeds [sReg n.val]) →
        Transfers (.brx f) s b i bd w f all (fun _ => aligned (w.sget n.val)) none_ ∧
        Transfers (.ret f) s b i bd w f all (fun _ => aligned (w.sget n.val)) none_) ∧
      (Issues s b i bd w Needs.none → Transfers (.call f) s b i bd w f all (fun _ => near w f) back) ∧
      (n.val < 63 → Issues s b i bd w (ctlNeeds [sReg (n.val + 1)]) →
        Transfers (.callx f) s b i bd w f all (fun _ => aligned (w.sget (n.val + 1))) back))) ∧
    (∀ n : Fin 256, f.operand = some (.v n) → Issues s b i bd w (ctlNeeds [⟨.v n, false, .s32, fun l => some l, none⟩]) →
      Transfers (.loop f) s b i bd w f (fun l => decide (w.vget n.val l ≠ 1)) (fun _ => near w f) (fun w' =>
        ∀ l, Acts w f.guard l → w'.vget n.val l = w.vget n.val l - 1)) ∧
    (∀ n : Fin 64, f.operand = some (.s n) → Issues s b i bd w (ctlNeeds [sReg n.val]) →
      Transfers (.loop f) s b i bd w f (fun _ => decide (w.sget n.val ≠ 1)) (fun _ => near w f) (fun w' =>
        w'.sget n.val = if anyAct w f.guard then w.sget n.val - 1 else w.sget n.val))

/-- R120, R121, R123, R124: EXIT makes its acting lanes exited; YIELD marks them; NOP only goes on; RBSET arms its barrier for
the acting lanes and those that wait there; RBWAIT makes the acting members wait, the other lanes go on, and where every member
then waits or has exited the barrier releases those that wait to the join address. -/
def Obligations.LaneStateWords : Prop :=
  ∀ (f : FB) (s : State) (b i : Nat) (bd : Band) (w : Weft), Issues s b i bd w Needs.none →
    Goes (.exit f) s (fun t => Now t b i (fun w' => w'.reform = true ∧
      ∀ l, l < w.lanes.length → (w.act f.guard).getLsbD l = true → (w'.lane l).state = .exited)) ∧
    Goes (.yield f) s (fun t => OnlyWeft s t b i ∧ Now t b i (fun w' => Moved w w' 8 ∧ w'.reform = true ∧
      ∀ l, l < w.lanes.length → (w.act f.guard).getLsbD l = true → (w'.lane l).yield = true)) ∧
    Goes (.nop f) s (fun t => OnlyWeft s t b i ∧ Now t b i (fun w' => Moved w w' 8 ∧ w'.v = w.v ∧ w'.s = w.s ∧ w'.p = w.p)) ∧
    Goes (.rbset f) s (fun t => OnlyWeft s t b i ∧ Now t b i (fun w' => Moved w w' 8 ∧
      ∃ x, SMap.find? w'.rb f.aux.val = some x ∧ x.join = near w f ∧
        ∀ l, l < w.width → l < 64 → (x.members.getLsbD l = true ↔
          (w.act f.guard).getLsbD l = true ∨ (w.lane l).state = .waiting f.aux))) ∧
    (w.width ≤ w.lanes.length → Goes (.rbwait f) s (fun t => OnlyWeft s t b i ∧ Now t b i (fun w' => w'.reform = true ∧
      let on := fun l => (w'.lane l).pc = (w.lane l).pc + 8 ∧ (w'.lane l).state = (w.lane l).state
      (SMap.find? w.rb f.aux.val = none → ∀ l, l < w.lanes.length → w.bundle.getLsbD l = true → on l) ∧
      ∀ x, SMap.find? w.rb f.aux.val = some x →
        let arrives := fun l => (w.act f.guard).getLsbD l = true ∧ x.members.getLsbD l = true
        let waits := fun l => arrives l ∨ (w.lane l).state = .waiting f.aux
        let full := ∀ l, l < w.width → x.members.getLsbD l = true → waits l ∨ (w.lane l).state = .exited
        (full → SMap.find? w'.rb f.aux.val = none ∧ ∀ l, l < w.lanes.length → waits l →
          (w'.lane l).state = (if (w.lane l).run = 0 then .live else .trapped) ∧ (w'.lane l).pc = x.join) ∧
        (¬full → SMap.find? w'.rb f.aux.val = some x ∧ ∀ l, l < w.lanes.length → arrives l → (w'.lane l).state = .waiting f.aux) ∧
        ∀ l, l < w.lanes.length → w.bundle.getLsbD l = true → ¬waits l → on l)))

/-- R187, R188, R190: a load gives its lanes the bytes of their addresses, and traps the lanes whose addresses are bad. Lines that are
absent, storage errors that a check has found (R362) and older values that may still be read are other statements' matter. -/
def Obligations.NearLoads : Prop := GoodLoads ∧ AccessTraps .ld ldWord

/-- R187, R188, R189, R190, R196, R197, R201: what ordinary stores and release stores change: the bytes at their lanes' addresses, or
those that the weft stored to die scratchpad before and publishes now; a bad address traps its lane. -/
def Obligations.NearStores : Prop := PlainStores ∧ ReleaseStores ∧ AccessTraps .st stWord

/-- R188, R189, R191, R196: LDU reads once and writes its s register or puts the value in flight to it; STU stores once; a bad address
traps every acting lane that is not a helper. -/
def Obligations.UniformWords : Prop :=
  ∀ (f : FM) (s : State) (b i : Nat) (bd : Band) (w : Weft) (l : Nat) (loc : NearLoc),
    let n := 2 ^ f.size.val
    Calm w → w.held? .lane (f.space == .die) = false → Leads w f.guard l →
    (∀ e ∈ [(Instr.ldu, false), (.stu, true)], ∀ reason : Nat, Issues s b i bd w (uniNeeds f e.2) → w.latches = [] → Handled s bd →
      (∀ k ∈ w.nonHelpers (w.act f.guard), (w.lane k).group = 0) → BadAddress s b bd f none (fmAddr f w l) e.2 reason →
      Goes (e.1 f) s (fun t => SameMemory s t ∧ Now t b i (fun w' => SameRegs w w' ∧
        ∀ k ∈ w.nonHelpers (w.act f.guard), k < w.lanes.length →
          InHandler (w'.lane k) bd.trapEntry (nearTrap e.2 f reason (fmAddr f w l)) w.pc w.pc))) ∧
    (FM.ok .ldu f = true → Issues s b i bd w (uniNeeds f false) → s.flaws = [] → Settled s n loc →
      s.nearLoc b bd f.space none (fmAddr f w l) n false = .ok loc →
      let x := BitVec.ofNat 64 (leNat (nearBytes s w n loc))
      Goes (.ldu f) s (fun t => SameMemory s t ∧ Now t b i (fun w' => Moved w w' 8 ∧ w'.v = w.v ∧ w'.p = w.p ∧
        (∀ r, r ≠ f.data.val → w'.sget r = w.sget r) ∧
        (w'.sget f.data.val = x ∨ ∃ rep ∈ w'.replies, rep.s = some (f.data.val, x))))) ∧
    (FM.ok .stu f = true → (f.rel = false ∨ f.space ≠ .die) → Issues s b i bd w (uniNeeds f true) →
      s.nearLoc b bd f.space none (fmAddr f w l) n true = .ok loc →
      (∀ p off, loc = .at_ p off → s.absentLines p off n = []) →
      let st := (loc, leBytes n (w.sget f.data.val).toNat)
      Goes (.stu f) s (fun t => (f.space = .die → SameMemory s t) ∧
        (f.space ≠ .die → ∀ p a, Mem.get (t.mem p) a = afterStores [st] p a (Mem.get (s.mem p) a)) ∧
        Now t b i (fun w' => Moved w w' 8 ∧ SameRegs w w' ∧
          (f.space = .die → ∃ off, w'.wbuf = w.wbuf ++ [⟨off, st.2⟩] ∧ loc = .at_ (ownDie bd) off) ∧
          ∀ a, Mem.get w'.uspill a = match loc with
            | .uspill off => if off ≤ a ∧ a < off + n then (st.2[a - off]?).getD 0 else Mem.get w.uspill a
            | _ => Mem.get w.uspill a)))

/-- R188, R192, R193, R200: a near atomic of the acting lanes that are not helpers, in lane order, each on what the one before it
left; every lane gets the old value that it found, and one whose address is bad traps. -/
def Obligations.NearAtomics : Prop :=
  ∀ r ∈ atomRows, AccessTraps r.2 (atomWord r.1) ∧ ∀ (f : FM) (s : State) (b i : Nat) (bd : Band) (w : Weft) (at_ : Nat → Place × Nat),
    let n := if f.size.val == 3 then 8 else 4
    let ls := w.nonHelpers (w.act f.guard)
    let x := atomAll r.1 f w at_ ls (fun p a => Mem.get (s.mem p) a)
    WellFormed (r.2 f) = true → Issues s b i bd w (fmNeeds f (atomWord r.1 f) w) → Calm w → s.flaws = [] → w.wbuf = [] →
    w.held? .lane (f.space == .die) = false →
    (∀ l ∈ ls, s.nearLoc b bd f.space (some l) (fmAddr f w l) n true = .ok (.at_ (at_ l).1 (at_ l).2) ∧
      s.absentLines (at_ l).1 (at_ l).2 n = []) →
    Goes (r.2 f) s (fun t => (∀ p a, Mem.get (t.mem p) a = x.2 p a) ∧ Now t b i (fun w' => Moved w w' 8 ∧
      (∀ e ∈ x.1, w'.latchVal 0 e.1 = BitVec.ofNat 64 e.2 ∧
        ∀ k, k < sizeRegs f.size.val → Arrives w' (f.data.val + k) e.1 (partOf e.2 k)) ∧
      OthersKept w w' f.guard f.data.val (sizeRegs f.size.val) ∧ w'.s = w.s ∧ w'.p = w.p))

/-- R174, R176: RACQ takes the extended block at once where nobody waits before it and the pool holds it, and nothing changes
where the weft has it; otherwise the bundle parks at the next word and the weft joins the queue. RREL gives the block back.
A grant gives it to the weft at the head of the queue. -/
def Obligations.RegisterBlocks : Prop :=
  (∀ (s : State) (b i : Nat) (bd : Band) (w : Weft), Issues s b i bd w Needs.none →
    (w.ext = true → Goes .racq s (fun t => OnlyWeft s t b i ∧ Now t b i (fun w' => Moved w w' 8 ∧ w'.v = w.v ∧ w'.ext = true))) ∧
    (w.ext = false → (s.core bd.core).grants = [] → bd.extCost w ≤ s.pool bd.core →
      Goes .racq s (fun t => OnlyWeft s t b i ∧ Now t b i (fun w' => Moved w w' 8 ∧ w'.ext = true ∧
        ∀ r l, l < 64 → w'.vget r l = if r < 8 * bd.base8 then w.vget r l else 0))) ∧
    (w.ext = false → ((s.core bd.core).grants ≠ [] ∨ s.pool bd.core < bd.extCost w) →
      Goes .racq s (fun t => (t.core bd.core).grants = (s.core bd.core).grants ++ [(b, i, w.bundle)] ∧
        Now t b i (fun w' => w'.reform = true ∧ ∀ l, l < w.lanes.length → w.bundle.getLsbD l = true →
          (w'.lane l).state = .parked .block ∧ (w'.lane l).pc = w.pc + 8))) ∧
    (w.ext = false → Goes .rrel s (fun t => OnlyWeft s t b i ∧ Now t b i (fun w' => Moved w w' 8 ∧ w'.v = w.v))) ∧
    (w.ext = true → (s.core bd.core).grants = [] → Goes .rrel s (fun t => OnlyWeft s t b i ∧
      Now t b i (fun w' => Moved w w' 8 ∧ w'.ext = false ∧
        (∀ y ∈ w'.await, y ∈ w.await ∧ (y.key < 8 * bd.base8 ∨ 256 ≤ y.key)) ∧
        ∀ r l, l < 64 → w'.vget r l = if r < 8 * bd.base8 then w.vget r l else 0)))) ∧
  ∀ (s : State) (core b i : Nat) (m : W64) (rest : List (Nat × Nat × W64)) (bd : Band) (w : Weft),
    (s.core core).grants = (b, i, m) :: rest → s.band? b = some bd → s.weft? b i = some w → w.ext = false →
    bd.extCost w ≤ s.pool core →
    Goes (.registerBlockGrant core) s (fun t => (t.core core).grants = rest ∧ Now t b i (fun w' => w'.ext = true ∧
      ∀ l, l < w.lanes.length → (w.lane l).state = .parked .block →
        w'.lane l = if m.getLsbD l then (w.lane l).ready else w.lane l))

/-- R199, R203, R204, R217: PHASE and FENCE.X begin, and complete when what they wait for has ended. PHASE and a FENCE.X of
the copy path issue when no bare store is outstanding and no error is held: they wait for the stores, and raise the error. -/
def Obligations.Ordering : Prop :=
  (∀ (s : State) (b i : Nat) (bd : Band) (w : Weft) (sc : Scope) (p q : Path),
    Issues s b i bd w Needs.none →
    (w.phase = none → s.bareStores b i = false → w.held = none →
      Goes (.phase sc) s (fun t => OnlyWeft s t b i ∧ Now t b i (fun w' => Moved w w' 8 ∧ SameRegs w w' ∧
        ∃ ph, w'.phase = some ph ∧ ph.scope = sc ∧ ph.before = s.stamp ∧ ph.refresh = true ∧ ph.launch = none))) ∧
    (w.phase = none → s.bareStores b i = true → w.begun = false →
      Goes (.phase sc) s (fun t => OnlyWeft s t b i ∧ Now t b i (fun w' => SameRegs w w' ∧ w'.lanes = w.lanes ∧ w'.begun = true))) ∧
    (∀ c, w.phase = none → s.bareStores b i = false → w.held = some c → c.half = false → w.latches = [] → Handled s bd →
      w.nonHelpers w.bundle ≠ [] → (∀ l ∈ w.nonHelpers w.bundle, (w.lane l).group = 0) →
      Goes (.phase sc) s (fun t => SameMemory s t ∧ Now t b i (fun w' => SameRegs w w' ∧ w'.held = none ∧ w'.phase = none ∧
        ∀ l ∈ w.nonHelpers w.bundle, l < w.lanes.length → InHandler (w'.lane l) bd.trapEntry c w.pc w.pc))) ∧
    ((p = .copy ∨ q = .copy → s.bareStores b i = false ∧ w.held = none) → (s.ctx? bd.ctx).isSome = true →
      let lane := p = .lane ∨ q = .lane
      Goes (.fenceX p q) s (fun t =>
        (∀ r a, Mem.get (t.mem r) a = if lane
          then afterStores (w.wbuf.map (fun x => (.at_ (ownDie bd) x.addr, x.bytes))) r a (Mem.get (s.mem r) a)
          else Mem.get (s.mem r) a) ∧
        Now t b i (fun w' => Moved w w' 8 ∧ SameRegs w w' ∧ (lane → w'.wbuf = []) ∧ w'.fences = w.fences ++ [⟨s.stamp, p, q, s.stamp⟩])))) ∧
  ∀ (s : State) (b i : Nat) (bd : Band) (w : Weft), s.band? b = some bd → s.weft? b i = some w →
    (∀ ph, w.phase = some ph → ph.launch = none → s.phaseBusy b i bd ph = false → (s.ctx? bd.ctx).isSome = true →
      Goes (.phaseComplete b i) s (fun t =>
        (∀ r a, Mem.get (t.mem r) a
          = afterStores (w.wbuf.map (fun x => (.at_ (ownDie bd) x.addr, x.bytes))) r a (Mem.get (s.mem r) a)) ∧
        Now t b i (fun w' => w'.phase = none ∧ w'.wbuf = [] ∧ (ph.refresh = true → s.clock < w'.snap ∧ w'.snap = t.clock)))) ∧
    (∀ f rest, w.fences = f :: rest → s.pathBusy b i bd w f.before f.p = false → s.pathBusy b i bd w f.before f.q = false →
      Goes (.fenceComplete b i) s (fun t => SameMemory s t ∧ Now t b i (fun w' => w'.fences = rest ∧ SameRegs w w')))

/-- R207, R208: BAR and GBAR park their acting lanes until the barrier's generation completes, BARA gives the generation that
it joined as a token, BARW goes on where the token's generation is complete and parks the lane where it is not. An arrival
that another lane still keeps waiting is said here; one that completes the barrier is said by `BarrierRelease`. -/
def Obligations.BarrierWords : Prop :=
  ∀ (s : State) (b i : Nat) (bd : Band) (w : Weft) (g : Guard) (ph : Bool),
    let ls := laneList w.width (w.act g)
    (s.ctx? bd.ctx).isSome = true → (SMap.find? s.gangs bd.gang).isSome = true →
    (Issues s b i bd w Needs.none → w.phase = none → ls ≠ [] →
      (∀ n : Fin 16, Short s b i false n.val ls →
        Goes (.bar n ph g) s (fun t => Arrived s t b i bd w false n.val ph ls ∧
          Now t b i (fun w' => SameRegs w w' ∧ w'.reform = true ∧ ∀ l ∈ ls, l < w.lanes.length →
            (w'.lane l).state = .parked (.barrier false n.val (s.barrier b false n.val).gen ph) ∧
              (w'.lane l).pc = w.pc + 8))) ∧
      (∀ n : Fin 4, Short s b i true n.val ls →
        Goes (.gbar n ph g) s (fun t => Arrived s t b i bd w true n.val ph ls ∧
          Now t b i (fun w' => SameRegs w w' ∧ w'.reform = true ∧ ∀ l ∈ ls, l < w.lanes.length →
            (w'.lane l).state = .parked (.barrier true n.val (s.barrier b true n.val).gen ph) ∧
              (w'.lane l).pc = w.pc + 8)))) ∧
    (∀ (dst : Fin 256) (n : Fin 16) (gang : Bool), Issues s b i bd w (baraNeeds dst g w) → Calm w → w.phase = none →
      ls ≠ [] → Short s b i gang n.val ls →
      let tok := (s.barrier b gang n.val).gen.toNat
      Goes (.bara dst n ph gang g) s (fun t => Arrived s t b i bd w gang n.val ph ls ∧
        Now t b i (fun w' => Moved w w' 8 ∧ Result32 w w' g dst.val false (fun _ => BitVec.ofNat 32 tok)))) ∧
    (∀ (tok : Operand) (n : Fin 16) (gang : Bool), Issues s b i bd w (barwNeeds tok) → Calm w →
      let gen := (s.barrier b gang n.val).gen
      let t16 := fun l => ((tokenField tok).value w l).setWidth 16
      Goes (.barw tok n ph gang g) s (fun t => SameMemory s t ∧ Now t b i (fun w' => SameRegs w w' ∧
        ∀ l, Acts w g l → l < w.lanes.length →
          if genComplete gen (t16 l)
          then (w'.lane l).state = (w.lane l).state ∧ (w'.lane l).pc = (w.lane l).pc + 8
          else (w'.lane l).state = .parked (.barrier gang n.val (t16 l) ph) ∧ (w'.lane l).pc = w.pc + 8)))

/-- R207, R208: the arrival that no other lane keeps waiting completes the generation, be it at BAR, GBAR or BARA, with .gang or
without; so does the exit of the last lane that a barrier waits for. -/
def Obligations.BarrierRelease : Prop :=
  ∀ (s : State) (b i : Nat) (bd : Band) (w : Weft) (g : Guard) (ph : Bool),
    let ls := laneList w.width (w.act g)
    (s.ctx? bd.ctx).isSome = true → (SMap.find? s.gangs bd.gang).isSome = true → b ∈ s.barrierBands b true →
    (Issues s b i bd w Needs.none → w.phase = none → ls ≠ [] →
      let frees := fun (ins : Instr) (gang : Bool) (n : Nat) => AllThere s b i gang n ls →
        Goes ins s (fun t => Published s t bd w ph ∧ Released s t b i w gang n ∧
          Now t b i (fun w' => SameRegs w w' ∧ ∀ l ∈ ls, l < w.lanes.length → (w.lane l).run = 0 →
            (w'.lane l).state = .live ∧ (w'.lane l).pc = w.pc + 8))
      (∀ n : Fin 16, frees (.bar n ph g) false n.val) ∧ (∀ n : Fin 4, frees (.gbar n ph g) true n.val)) ∧
    (∀ (dst : Fin 256) (n : Fin 16) (gang : Bool), Issues s b i bd w (baraNeeds dst g w) → Calm w → w.phase = none → ls ≠ [] →
      AllThere s b i gang n.val ls →
      Goes (.bara dst n ph gang g) s (fun t => Published s t bd w ph ∧ Released s t b i w gang n.val ∧
        Now t b i (fun w' => Moved w w' 8 ∧
          Result32 w w' g dst.val false (fun _ => BitVec.ofNat 32 (s.barrier b gang n.val).gen.toNat)))) ∧
    (∀ (f : FB) (gang : Bool) (n : Nat), f.guard = g → Issues s b i bd w Needs.none → n < (if gang then 4 else 16) →
      let there := (s.barrier b gang n).arrived ≠ [] ∧ AllThere s b i gang n ls
      (there → Goes (.exit f) s (fun t => SameMemory s t ∧ Released s t b i w gang n)) ∧
      (¬there → Goes (.exit f) s (fun t => SameMemory s t ∧ t.barrier b gang n = s.barrier b gang n)))

/-- R210, R213, R214: ITSET writes one part of a record and clears its indexes; ITLD loads the record that an image in
scratchpad holds. -/
def Obligations.IteratorWords : Prop :=
  ∀ (it : Fin 16) (s : State) (b i : Nat) (bd : Band) (w : Weft) (g : Guard) (l : Nat), Calm w → Leads w g l →
    (∀ (part : ItPart) (a c : Operand), Issues s b i bd w (feNeeds (itsetFields part a c) []) →
      Goes (.itset it part a c g) s (fun t => SameMemory s t ∧ Now t b i (fun w' => Moved w w' 8 ∧ SameRegs w w') ∧
        ∃ bd', t.band? b = some bd' ∧ (∀ n, n ≠ it.val → bd'.rec_ n = bd.rec_ n) ∧
          { bd'.rec_ it.val with ver := 0 } = { itsetRec part ((feField true a).value w l) ((feField false a).value w l)
            ((feField true c).value w l) (bd.rec_ it.val) with ver := 0 })) ∧
    (∀ (a : Operand) (die : Bool) (p : Place) (off n : Nat), Issues s b i bd w (feNeeds [(1, feField true a)] []) →
      let addr := (feField true a).value w l
      let hdr := leNat (nearBytes s w 8 (.at_ p (off + 8)))
      addr.toNat % 32 = 0 → s.flaws = [] → w.held? .lane die = false →
      n = (if hdr % 16 = 0 ∨ 12 < hdr % 16 then 32 else 32 + 16 * (hdr % 16)) →
      s.nearAddr b bd die (dieOf bd.core) addr.toNat 32 false = .ok (p, off) →
      s.nearAddr b bd die (dieOf bd.core) addr.toNat n false = .ok (p, off) →
      Settled s n (.at_ p off) →
      let img := nearBytes s w n (.at_ p off)
      Goes (.itld it a die g) s (fun t => SameMemory s t ∧ Now t b i (fun w' => Moved w w' 8 ∧ SameRegs w w') ∧
        ∃ bd', t.band? b = some bd' ∧ (bd'.rec_ it.val).base = imageD img 0 ∧ (bd'.rec_ it.val).hdr = imageD img 8 ∧
          ∀ d, d < hdr % 16 → d < (bd.rec_ it.val).dims.length → hdr % 16 ≤ 12 → (bd'.rec_ it.val).dim d
            = ⟨imageD img (32 + 16 * d), BitVec.ofNat 32 (leNat ((img.drop (40 + 16 * d)).take 4)),
                BitVec.ofNat 32 (leNat ((img.drop (44 + 16 * d)).take 4))⟩))

/-- R218 to R220: CADD adds to a counter modulo 2^48, CSET sets its value and error bit, CWAIT goes on when the counter has
reached its target, parks the bundle when it has not, and in its test form writes what it finds to a predicate. -/
def Obligations.CounterWords : Prop :=
  ∀ (c : Fin 64) (a : Operand) (s : State) (b i : Nat) (bd : Band) (w : Weft) (g : Guard) (l : Nat), Calm w → Leads w g l →
    Issues s b i bd w (feNeeds [(1, feField true a)] []) →
    let x := (feField true a).value w l
    let v := bd.counter c.val
    let reached := decide ((v.toNat % 2 ^ 48 + 2 ^ 48 - x.toNat % 2 ^ 48) % 2 ^ 48 < 2 ^ 47)
    (Goes (.cadd c a g) s (fun t => SameMemory s t ∧ Now t b i (fun w' => Moved w w' 8 ∧ SameRegs w w') ∧
      ∃ bd', t.band? b = some bd' ∧ (bd'.counter c.val).toNat % 2 ^ 48 = (v.toNat + x.toNat) % 2 ^ 48 ∧
        (bd'.counter c.val).getLsbD 63 = v.getLsbD 63 ∧ ∀ k, k ≠ c.val → bd'.counter k = bd.counter k)) ∧
    (Goes (.cset c a g) s (fun t => SameMemory s t ∧ Now t b i (fun w' => Moved w w' 8 ∧ SameRegs w w') ∧
      ∃ bd', t.band? b = some bd' ∧ (bd'.counter c.val).toNat % 2 ^ 48 = x.toNat % 2 ^ 48 ∧
        (bd'.counter c.val).getLsbD 63 = x.getLsbD 63 ∧ ∀ k, k ≠ c.val → bd'.counter k = bd.counter k)) ∧
    (w.held = none → v.getLsbD 63 = false → reached = true →
      Goes (.cwait c a none g) s (fun t => OnlyWeft s t b i ∧ Now t b i (fun w' => Moved w w' 8 ∧ SameRegs w w'))) ∧
    (w.held = none → v.getLsbD 63 = false → reached = false → w.latches = [] →
      Goes (.cwait c a none g) s (fun t => OnlyWeft s t b i ∧ Now t b i (fun w' => SameRegs w w' ∧
        ∀ k, k < w.lanes.length → w.bundle.getLsbD k = true →
          (w'.lane k).state = .parked (.counter c.val x) ∧ (w'.lane k).pc = w.pc))) ∧
    (∀ p : Fin 7, Goes (.cwait c a (some p) g) s (fun t => OnlyWeft s t b i ∧
      Now t b i (fun w' => Moved w w' 8 ∧ ResultP w w' g p.val (fun _ => reached || v.getLsbD 63))))

/-- R185, R215, R216, R221, R222, R225, R226, R246, R253, R335: the engine commands issue: where their checks pass and there
is room, the command is queued with its operands as captured, and the weft goes on at the next word. -/
def Obligations.EngineWords : Prop :=
  ∀ (s : State) (b i l : Nat) (bd : Band) (w : Weft) (g : Guard), Calm w → Leads w g l →
    (∀ (ctr : Fin 64) (d a : Fin 16) (cls : Bool), Issues s b i bd w Needs.none →
      let rd := bd.rec_ d.val
      let rs := bd.rec_ a.val
      let c : CmdSpec := ⟨.copy, ctr.val, [(d.val, rd), (a.val, rs)], .tcopy cls, Rec.byAddress rd, none⟩
      checkRecs 0x122 [(d.val, rd, true), (a.val, rs, false)] true true none = none → Room s b bd w c →
      Goes (.tcopy ctr d a cls g) s (fun t => Queued s t b i bd w c ∧ Now t b i (fun w' => Moved w w' 8 ∧ SameRegs w w'))) ∧
    (∀ (ctr : Fin 64) (d : Fin 16) (pat : Operand) (w64 : Bool), Issues s b i bd w (feNeeds [(2, feField w64 pat)] []) →
      let rd := bd.rec_ d.val
      let c : CmdSpec := ⟨.copy, ctr.val, [(d.val, rd)], .fill ((feField w64 pat).value w l) w64, Rec.byAddress rd, none⟩
      checkRecs 0x12A [(d.val, rd, true)] true false none = none → Room s b bd w c →
      Goes (.fill ctr d pat w64 g) s (fun t => Queued s t b i bd w c ∧ Now t b i (fun w' => Moved w w' 8 ∧ SameRegs w w'))) ∧
    (∀ f : FChain, f.guard = g → Issues s b i bd w (feNeeds [] [f.ks.val]) →
      let ro := bd.rec_ f.out.val
      let ins := (FChain.inputs f).map (fun n => (n, bd.rec_ n))
      let k := w.sget f.ks.val
      let c : CmdSpec := ⟨.chain, f.ctr.val, (f.out.val, ro) :: ins, .chain f (k.setWidth 32) ((k >>> 32).setWidth 32),
        Rec.byWalk ro, none⟩
      checkRecs 0x129 ((f.out.val, ro, true) :: ins.map (fun r => (r.1, r.2, false))) true false none = none →
      (∀ r ∈ ins, Rec.overlaps bd.gangPos ro r.2 = true → Rec.identical ro r.2 = true) → FChain.badList f = false → Room s b bd w c →
      s.stalled = false →
      Goes (.chain f) s (fun t => Queued s t b i bd w c ∧ Now t b i (fun w' => Moved w w' 24 ∧ SameRegs w w'))) ∧
    (∀ (f : FWred) (ws : Option (Fin 32 × Fin 3)), f.guard = g → f.wit = ws →
      Issues s b i bd w (feNeeds [] ((ws.toList.map (fun x => 2 * x.1.val)) ++ (if f.op = 2 then [f.bound.val] else []))) →
      let ro := bd.rec_ f.out.val
      let ri := bd.rec_ f.inp.val
      let bound := w.sget f.bound.val
      let wit := ws.map (fun x => (x.2.val, w.sget (2 * x.1.val)))
      let ser := ((s.ctx? bd.ctx).map (fun c => c.serial)).getD 0
      let c : CmdSpec := ⟨.chain, f.ctr.val, [(f.out.val, ro), (f.inp.val, ri)],
        .wred f.op.val f.last bound (wit.map (fun x => (x.1, x.2, ser))), wredPlan f.op.val ro ri wit, wit.map (fun x => x.1)⟩
      wredCheck bd.gangPos f ro ri bound wit = none → Room s b bd w c → s.stalled = false →
      Goes (.wred f) s (fun t => Queued s t b i bd w c ∧ Now t b i (fun w' => Moved w w' 8 ∧ w'.v = w.v ∧ w'.p = w.p ∧
        (∀ r, (∀ x, ws = some x → r ≠ 2 * x.1.val + 1) → w'.sget r = w.sget r) ∧
        ∀ x, ws = some x → w'.sget (2 * x.1.val + 1) = ser ∧ w'.wlast = ser ∧
          ∀ k, s.ctx? bd.ctx = some k → (t.ctx? bd.ctx).map (fun y => y.serial) = some (k.serial + 1)))) ∧
    (∀ f : FAdjb, f.guard = g → Issues s b i bd w (feNeeds [] [2 * f.wit.val, 2 * f.wit.val + 1]) →
      let rg := bd.rec_ f.grad.val
      let ru := bd.rec_ f.up.val
      let a := w.sget (2 * f.wit.val)
      let c : CmdSpec := ⟨.chain, f.ctr.val, [(f.grad.val, rg), (f.up.val, ru)],
        .adjb f.acc f.space.val a (w.sget (2 * f.wit.val + 1)) none, [.hdrRead], some f.space.val⟩
      checkRecs 0x132 [(f.grad.val, rg, true), (f.up.val, ru, false)] false false none = none →
      Rec.overlaps bd.gangPos rg ru = false → Rec.meets bd.gangPos rg f.space.val a 16 = false → Rec.len rg % Rec.len ru = 0 →
      Rec.fmt rg = Rec.fmt ru → (Rec.fmt rg = .f32 ∨ Rec.fmt rg = .f16 ∨ Rec.fmt rg = .bf16) → a.toNat % 16 = 0 →
      Room s b bd w c →
      Goes (.adjb f) s (fun t => Queued s t b i bd w c ∧ Now t b i (fun w' => Moved w w' 8 ∧ SameRegs w w'))) ∧
    (∀ (ctr : Fin 64) (ch : Operand) (d a : Fin 16) (wait : Option (Fin 64)),
      Issues s b i bd w (feNeeds [(1, feField false ch)] (wait.toList.map Fin.val)) →
      let rd := bd.rec_ d.val
      let rs := bd.rec_ a.val
      let n := ((feField false ch).value w l).toNat
      let wv := wait.map (fun k => w.sget k.val)
      let c : CmdSpec := ⟨.copy, ctr.val, [(d.val, rd), (a.val, rs)], .item n (wv.map (fun v => (fld v 59 48, v.setWidth 48))),
        Rec.byAddress rd, none⟩
      checkRecs 0x133 [(d.val, rd, true), (a.val, rs, false)] true true none = none →
      n < 4096 → s.chanBad bd.part bd.ctx n = none → (∀ v, wv = some v → fld v 63 60 = 0 ∧ s.chanBad bd.part bd.ctx (fld v 59 48) = none) →
      (s.chan n).items.length < 64 → Room s b bd w c → s.stalled = false →
      Goes (.rcopy ctr ch d a wait g) s (fun t => Queued s t b i bd w c ∧
        (t.chan n).items = (s.chan n).items ++ [(s.stamp, false)] ∧
        (∃ bd', t.band? b = some bd' ∧ bd'.restartable = false) ∧ Now t b i (fun w' => Moved w w' 8 ∧ SameRegs w w')))

/-- R215, R216, R223, R224: FLOAD, FSTORE and FATOM send one request for each acting lane that is not a helper. -/
def Obligations.FarWords : Prop :=
  ∀ (s : State) (b i : Nat) (bd : Band) (w : Weft) (a c : Operand) (g : Guard) (x : FarWord) (ins : Instr),
    ((∃ f : FFar, ins = .fload f ∧ x = floadWord f ∧ f.a = a ∧ f.b = c ∧ f.guard = g) ∨
     (∃ f : FFar, ins = .fstore f ∧ x = fstoreWord f ∧ f.a = a ∧ f.b = c ∧ f.guard = g) ∨
     (∃ f : FFatom, ins = .fatom f ∧ x = fatomWord f ∧ f.a = a ∧ f.b = c ∧ f.guard = g)) →
    let ls := w.nonHelpers (w.act g)
    let addr := fun l => (feField true a).value w l + (((feField false c).value w l).setWidth 32).signExtend 64
    Issues s b i bd w (farNeeds x a c) → Calm w → (∀ l ∈ ls, (addr l).toNat % x.len = 0) →
    w.held? .copy true = false → s.farLoad bd.core + ls.length ≤ 1024 →
    Goes ins s (fun t => SameMemory s t ∧ t.stamp = s.stamp + ls.length ∧
      Now t b i (fun w' => Moved w w' 8 ∧ SameRegs w w' ∧
        ∀ k l, ls[k]? = some l → Requested s t b i bd w w' x (addr l) l (s.stamp + k)))

/-- R228, R234, R239 to R244: the matrix commands are queued with their operands as captured where their checks pass, no fault
is recorded, the queue has room and the claim succeeds; MWAIT goes on when no command that it names is left. -/
def Obligations.MatrixWords : Prop :=
  ∀ (s : State) (b i l : Nat) (bd : Band) (w : Weft) (g : Guard), Calm w → Leads w g l → bd.mfault = none →
    (∀ tile : Option (Fin 4), Issues s b i bd w Needs.none →
      (bd.matrixBusy (tile.map Fin.val) s.stamp = false →
        Goes (.mwait tile g) s (fun t => OnlyWeft s t b i ∧ Now t b i (fun w' => Moved w w' 8 ∧ SameRegs w w'))) ∧
      (bd.matrixBusy (tile.map Fin.val) s.stamp = true →
        Goes (.mwait tile g) s (fun t => OnlyWeft s t b i ∧ Now t b i (fun w' => SameRegs w w' ∧
          ∀ k, k < w.lanes.length → w.bundle.getLsbD k = true →
            (w'.lane k).state = .parked (.matrix (tile.map Fin.val) s.stamp) ∧ (w'.lane k).pc = w.pc)))) ∧
    (s.matrixLoad bd.core < 8 → (s.claim b bd).isSome = true →
      (∀ (a : Operand) (fmt : Fmt) (sm : ScaleMode) (mc : Fin 16), Issues s b i bd w (feNeeds [(1, feField true a)] []) →
        let addr := (feField true a).value w l
        addr.toNat % 128 = 0 →
        Goes (.mldw a fmt sm mc g) s (fun t => Enqueued s t b i bd (.mldw addr fmt sm mc.val) ∧
          Now t b i (fun w' => Moved w w' 8 ∧ SameRegs w w'))) ∧
      (∀ (act : Fin 16) (ctl : Fin 32) (scale : Option (Fin 64)) (tile : Fin 4) (mc : Fin 16) (row0 : Fin 128),
        Issues s b i bd w (feNeeds [] ([2 * ctl.val, 2 * ctl.val + 1] ++ scale.toList.map Fin.val)) →
        let r := bd.rec_ act.val
        let k0 := w.sget (2 * ctl.val)
        let k1 := w.sget (2 * ctl.val + 1)
        let sa := scale.map (fun n => w.sget n.val)
        let n := k0.toNat % 65536
        Rec.broken r = false → Rec.badAct r = false → row0.val + (Rec.dim r 1).extent.toNat ≤ 128 →
        (∀ x, sa = some x → x.toNat % 8 = 0) → loHalf k1 % 128 = 0 → hiHalf k1 % 8 = 0 →
        1 ≤ n → n ≤ 4096 → k0.toNat / 65536 % 65536 = 0 →
        Goes (.mloop act ctl scale tile mc row0 g) s (fun t =>
          Enqueued s t b i bd (.mloop r n (hiHalf k0) (hiHalf k1) (loHalf k1) sa tile.val mc.val row0.val) ∧
          Now t b i (fun w' => Moved w w' 8 ∧ SameRegs w w'))) ∧
      (∀ (tile : Fin 4) (int : Bool), Issues s b i bd w Needs.none →
        Goes (.mzero tile int g) s (fun t => Enqueued s t b i bd (.mzero tile.val int) ∧
          Now t b i (fun w' => Moved w w' 8 ∧ SameRegs w w'))) ∧
      (∀ f : FMepi, f.guard = g →
        Issues s b i bd w (feNeeds [] (f.wit.toList.map Fin.val ++ f.bias.toList.map Fin.val ++ f.clamp.toList.map Fin.val)) →
        let r := bd.rec_ f.out.val
        let bias := f.bias.map (fun n => w.sget n.val)
        let ser := ((s.ctx? bd.ctx).map (fun c => c.serial)).getD 0
        let wit := f.wit.map (fun n => (w.sget n.val, ser))
        Rec.broken r = false → Rec.badOut r = false → 16 * f.row0.val + (Rec.dim r 1).extent.toNat ≤ 128 →
        (∀ x, bias = some x → x.toNat % 4 = 0) → (∀ x, wit = some x → x.1.toNat % 16 = 0) →
        (w.phase = none ∨ Rec.space r ≠ 2) →
        Goes (.mepi f) s (fun t =>
          Enqueued s t b i bd (.mepi (f.out.val, r) bias (f.clamp.map (fun n => w.sget n.val)) wit f.tile.val f.rnd.val f.sat
            (16 * f.row0.val)) ∧
          Now t b i (fun w' => Moved w w' 8 ∧ SameRegs w w' ∧ (f.wit.isSome = true → w'.wlast = ser)))) ∧
      (∀ f : FMrd, f.guard = g → Issues s b i bd w (mrdNeeds f) →
        let at_ := fun k => (((feField false f.a).value w k).toNat % 2 ^ 32, ((feField false f.b).value w k).toNat % 2 ^ 32)
        let ls := laneList w.width (w.act g)
        (∀ k ∈ ls, (at_ k).1 ≤ 127 ∧ (at_ k).2 ≤ 127) →
        Goes (.mrd f) s (fun t => ∃ id,
          EnqueuedAs s t b i bd (.mrd (ls.map (fun k => (k, at_ k))) f.dst.val f.raw f.tile.val f.rnd.val f.sat) id ∧
          Now t b i (fun w' => Moved w w' 8 ∧ SameRegs w w' ∧
            ∀ k ∈ ls, ∀ r ∈ mrdRegs f, (⟨r, k, id⟩ : Await) ∈ w'.await))))

/-- R342, R343, R345, R353: COLL takes a ticket slot and awaits its number; TCOPYC attaches its transfer to the ticket; COLLW
writes how the collective ended and frees the slot, or parks until it has; COLLC asks the beacon to cancel. -/
def Obligations.CollWords : Prop :=
  ∀ (s : State) (b i l : Nat) (bd : Band) (w : Weft) (g : Guard) (c : Context), Calm w → Leads w g l →
    s.ctx? bd.ctx = some c →
    (∀ (dst key : Fin 64) (slot : Nat), Issues s b i bd w (feNeeds [] [key.val]) →
      let comm := fld (w.sget key.val) 63 48
      let call : W32 := (w.sget key.val).setWidth 32
      s.keyBad bd comm call = none → c.freeSlot = some slot →
      Goes (.coll dst key g) s (fun t => SameMemory s t ∧
        (∃ x, t.ticket? bd.ctx slot = some x ∧ x.band = b ∧ x.weft = i ∧ x.dst = dst.val ∧ x.comm = comm ∧ x.call = call ∧
          x.number = none ∧ x.run = none ∧ x.fin = none) ∧
        Now t b i (fun w' => Moved w w' 8 ∧ SameRegs w w' ∧ (⟨256 + dst.val, 0, s.stamp⟩ : Await) ∈ w'.await))) ∧
    (∀ (f : FTcopyc) (slot : Nat) (n : BitVec 48) (k : Ticket) (m : Comm) (rank : Nat), f.guard = g →
      Issues s b i bd w (feNeeds [] ([2 * f.desc.val, 2 * f.desc.val + 1] ++ f.wit.toList.map Fin.val)) →
      let rd := bd.rec_ f.dst.val
      let rs := bd.rec_ f.src.val
      let grid := Grid.of (w.sget (2 * f.desc.val))
      let grp := grid.group m.members.length rank
      let wit := f.wit.map (fun r => w.sget r.val)
      checkRecs 0x134 [(f.dst.val, rd, true), (f.src.val, rs, false)] false false none = none →
      s.liveTicket bd (w.sget (2 * f.desc.val + 1)) = .ok (slot, n, k) → SMap.find? s.comms k.comm = some m →
      s.rankOf m bd.part = some rank → collOk grid m.members.length grp.length f.op.val rd rs wit = true → k.run = none →
      (w.phase = none ∨ Rec.space rs = 1) →
      Goes (.tcopyc f) s (fun t => SameMemory s t ∧
        (∃ x r, t.ticket? bd.ctx slot = some x ∧ x.run = some r ∧ r.band = b ∧ r.weft = i ∧ r.ctr = f.ctr.val ∧ r.op = f.op.val ∧
          r.dst = (f.dst.val, rd) ∧ r.src = (f.src.val, rs) ∧ r.q = grp.findIdx (· == rank) ∧ r.g = grp.length ∧
          r.pattern = grid.pattern ∧ r.root = grid.root ∧ r.wit = wit.map (fun a => (a, c.serial)) ∧ r.started = false ∧
          r.got = List.replicate (Rec.len rd) []) ∧
        Now t b i (fun w' => Moved w w' 8 ∧ SameRegs w w'))) ∧
    (∀ (dst tk : Fin 64) (slot : Nat) (n : BitVec 48) (k : Ticket), Issues s b i bd w (feNeeds [] [tk.val]) →
      s.liveTicket bd (w.sget tk.val) = .ok (slot, n, k) →
      (∀ e, k.fin = some e → Goes (.collw dst tk g) s (fun t => SameMemory s t ∧ t.ticket? bd.ctx slot = none ∧
        Now t b i (fun w' => Moved w w' 8 ∧ w'.sget dst.val = (match e with
          | .complete => 0
          | .aborted r => BitVec.ofNat 64 (1 + 256 * (r % 256))
          | .cancelled => 2) ∧ w'.v = w.v ∧ ∀ r, r ≠ dst.val → w'.sget r = w.sget r))) ∧
      (k.fin = none → w.latches = [] → Goes (.collw dst tk g) s (fun t => OnlyWeft s t b i ∧ Now t b i (fun w' => SameRegs w w' ∧
        ∀ m, m < w.lanes.length → w.bundle.getLsbD m = true →
          (w'.lane m).state = .parked (.coll slot n) ∧ (w'.lane m).pc = w.pc))) ∧
      Goes (.collc dst tk g) s (fun t => SameMemory s t ∧ SMap.find? t.cancels s.stamp = some ⟨b, i, dst.val, n, false, s.now⟩ ∧
        Now t b i (fun w' => Moved w w' 8 ∧ SameRegs w w' ∧ (⟨256 + dst.val, 0, s.stamp⟩ : Await) ∈ w'.await)))

/-- R75, R86, R93, R257, R270, R271: MFSR reads a system register in each acting lane, or in the lowest that is not a helper
for an s register; MTSR writes the four registers that it may write. That sr.tresume of a lane outside a handler keeps its value is
the model's choice (log 27). -/
def Obligations.SystemRegisterWords : Prop :=
  ∀ (s : State) (b i : Nat) (bd : Band) (w : Weft) (g : Guard) (sr : SysReg), Calm w →
    (∀ n : Fin 256, Issues s b i bd w (mfsrNeeds (.v32 n) g w) →
      Goes (.mfsr (.v32 n) sr g) s (fun t => SameMemory s t ∧ Now t b i (fun w' => Moved w w' 8 ∧
        Result32 w w' g n.val false (fun l => (s.sysRead i bd w l sr).setWidth 32) ∧ w'.s = w.s))) ∧
    (∀ n : Fin 128, Issues s b i bd w (mfsrNeeds (.v64 n) g w) →
      Goes (.mfsr (.v64 n) sr g) s (fun t => SameMemory s t ∧ Now t b i (fun w' => Moved w w' 8 ∧
        Result64 w w' g (2 * n.val) false (fun l => s.sysRead i bd w l sr) ∧ w'.s = w.s))) ∧
    (∀ (n : Fin 64) (l : Nat), Issues s b i bd w (mfsrNeeds (.s n) g w) → Leads w g l →
      Goes (.mfsr (.s n) sr g) s (fun t => SameMemory s t ∧ Now t b i (fun w' => Moved w w' 8 ∧ w'.v = w.v ∧
        w'.sget n.val = s.sysRead i bd w l sr ∧ ∀ r, r ≠ n.val → w'.sget r = w.sget r))) ∧
    (∀ (w64 : Bool) (a : Operand) (l : Nat), Issues s b i bd w (feNeeds [(1, feField w64 a)] []) → Leads w g l →
      let x := fun k => (feField w64 a).value w k
      Goes (.mtsr w64 a sr g) s (fun t => OnlyWeft s t b i ∧ Now t b i (fun w' => Moved w w' 8 ∧ w'.v = w.v ∧ w'.s = w.s ∧
        w'.flags = (if sr = .flags then x l &&& flagsMask else w.flags) ∧
        w'.hangk = (if sr = .hangk then x l &&& 63 else w.hangk) ∧
        ∀ k, Acts w g k → k < w.lanes.length →
          (w'.lane k).tresume = (if sr = .tresume ∧ (w.lane k).group ≠ 0 then x k else (w.lane k).tresume) ∧
          (w'.lane k).rs = (if sr = .rsseed then lfsrSeed k ((x k).setWidth 32) else (w.lane k).rs))))

/-- R257, R260, R263, R265 to R268: TRAPI traps its acting lanes to the handler, so does BKPT where debug is off; where it is on, the
lanes stand at the word and the band stops. ERET brings every lane of the bundle back to sr.tresume, its trap registers zero. A trap in
a handler leaves the lanes' registers, and one without a readable entry leaves the lanes at the word; each is recorded and stops the
band. -/
def Obligations.TrapWords : Prop :=
  ∀ (s : State) (b i : Nat) (bd : Band) (w : Weft), Issues s b i bd w Needs.none →
    (∀ (g : Guard) (imm : W32), Handled s bd → (∀ l ∈ w.nonHelpers (w.act g), (w.lane l).group = 0) →
      Goes (.trapi g imm) s (fun t => SameMemory s t ∧ Now t b i (fun w' => SameRegs w w' ∧
        ∀ l ∈ w.nonHelpers (w.act g), l < w.lanes.length →
          InHandler (w'.lane l) bd.trapEntry ⟨17, 0, imm.setWidth 96, false⟩ w.pc (w.pc + 8))) ∧
      (s.debugOn bd.part = false → Goes (.bkpt g imm) s (fun t => SameMemory s t ∧ Now t b i (fun w' => SameRegs w w' ∧
        ∀ l ∈ w.nonHelpers (w.act g), l < w.lanes.length →
          InHandler (w'.lane l) bd.trapEntry ⟨16, 0, imm.setWidth 96, false⟩ w.pc (w.pc + 8))))) ∧
    (∀ (g : Guard) (imm : W32), w.nonHelpers (w.act g) ≠ [] →
      ((∀ l ∈ w.nonHelpers (w.act g), (w.lane l).group ≠ 0) →
        Goes (.trapi g imm) s (fun t => Logged s t 8 ∧ Stopped t b ∧ Now t b i (fun w' => SameRegs w w' ∧ w'.frozen = true ∧
          ∀ l ∈ w.nonHelpers (w.act g), l < w.lanes.length → w'.lane l = w.lane l))) ∧
      (¬Handled s bd → (∀ l ∈ w.nonHelpers (w.act g), (w.lane l).group = 0) →
        Goes (.trapi g imm) s (fun t => Logged s t 9 ∧ Stopped t b ∧ Now t b i (fun w' => SameRegs w w' ∧ w'.frozen = true ∧
          ∀ l ∈ w.nonHelpers (w.act g), l < w.lanes.length →
            InHandler (w'.lane l) w.pc ⟨17, 0, imm.setWidth 96, false⟩ w.pc (w.pc + 8))))) ∧
    (∀ (g : Guard) (imm : W32), s.debugOn bd.part = true → w.nonHelpers (w.act g) ≠ [] →
      Goes (.bkpt g imm) s (fun t => (∃ bd', t.band? b = some bd' ∧ bd'.stopped = true) ∧
        Now t b i (fun w' => SameRegs w w' ∧ w'.frozen = true ∧ ∀ l ∈ w.nonHelpers (w.act g), l < w.lanes.length →
          (w'.lane l).pc = (w.lane l).pc ∧ (w'.lane l).state = (w.lane l).state ∧
            (w'.lane l).bkpt = BitVec.ofNat 64 (imm.toNat * 2 ^ 32 + 16)))) ∧
    ((∀ l ∈ w.bundleLanes, (w.lane l).group ≠ 0) →
      Goes .eret s (fun t => OnlyWeft s t b i ∧ Now t b i (fun w' => SameRegs w w' ∧ w'.reform = true ∧
        ∀ l ∈ w.bundleLanes, l < w.lanes.length → (w'.lane l).pc = (w.lane l).tresume &&& ~~~7#64 ∧ (w'.lane l).state = .live ∧
          (w'.lane l).run = 0 ∧ (w'.lane l).tcause = 0 ∧ (w'.lane l).tdet = 0 ∧ (w'.lane l).trappc = 0 ∧ (w'.lane l).tresume = 0)))

/-- R281, R293, R298, R326: PPOINT stops its weft where a save is pending and the bundle holds the whole of it; LAUNCH takes its
record and begins the publish and wait before the launch, whose end queues the record, or says why not, and gives the status; PROBE
sends its request. -/
def Obligations.ServiceWords : Prop :=
  ∀ (s : State) (b i : Nat) (bd : Band) (w : Weft),
    (∀ f : FPpoint, Issues s b i bd w Needs.none →
      Goes (.ppoint f) s (fun t => OnlyWeft s t b i ∧ Now t b i (fun w' => Moved w w' 16 ∧ SameRegs w w' ∧
        (bd.save = none → w'.stop = w.stop) ∧
        (bd.save.isSome = true → (∀ l, l < w.width → (w.lane l).state = .exited ∨ (w.lane l).state = .unlaunched ∨
            w.bundle.getLsbD l = true) →
          ∃ k, w'.stop = some (.ppoint { f with live := k }) ∧ ∀ j, f.live.getLsbD j = true → k.getLsbD j = true)))) ∧
    (∀ (dst : Fin 64) (a : Operand) (g : Guard) (l : Nat), Calm w → Leads w g l →
      Issues s b i bd w (feNeeds [(1, feField true a)] []) →
      let x := (feField true a).value w l
      (∀ (die : Bool) (p : Place) (off : Nat), x.toNat % 128 = 0 → s.flaws = [] → w.held? .lane die = false → w.phase = none →
        s.nearAddr b bd die (dieOf bd.core) x.toNat 128 false = .ok (p, off) → Settled s 128 (.at_ p off) →
        Goes (.launch dst a die g) s (fun t => SameMemory s t ∧ (∃ bd', t.band? b = some bd' ∧ bd'.restartable = false) ∧
          Now t b i (fun w' => Moved w w' 8 ∧ SameRegs w w' ∧ (∃ k ∈ w'.await, k.key = 256 + dst.val) ∧
            ∃ ph, w'.phase = some ph ∧ ph.scope = .dev ∧ ph.launch = some (dst.val, nearBytes s w 128 (.at_ p off))))) ∧
      (∀ kind : Fin 4, Goes (.probe dst a kind g) s (fun t => SameMemory s t ∧
        (∃ r, SMap.find? t.reqs s.stamp = some r ∧ r.who = .probe b i dst.val ∧ r.op = .probe kind.val ∧ r.addr = x ∧
          r.stage = .segment) ∧
        Now t b i (fun w' => Moved w w' 8 ∧ SameRegs w w' ∧ (⟨256 + dst.val, 0, s.stamp⟩ : Await) ∈ w'.await)))) ∧
    (∀ (ph : PhaseSt) (dst : Nat) (bs : List Byte), s.band? b = some bd → s.weft? b i = some w → w.phase = some ph →
      ph.launch = some (dst, bs) → s.phaseBusy b i bd ph = false → (s.ctx? bd.ctx).isSome = true →
      let r := doublesOf 16 bs
      let q := fld (LRec.d r 15) 5 0
      let c := s.checkRecord bd.part q r
      Goes (.phaseComplete b i) s (fun t =>
        (∀ p a, Mem.get (t.mem p) a
          = afterStores (w.wbuf.map (fun x => (.at_ (ownDie bd) x.addr, x.bytes))) p a (Mem.get (s.mem p) a)) ∧
        Now t b i (fun w' => w'.phase = none ∧ w'.wbuf = [] ∧ w'.sget dst = BitVec.ofNat 64 (c.2 * 256 + c.1) ∧
          ∀ a ∈ w'.await, ¬(a.key = 256 + dst ∧ a.req = 2 ^ 64)) ∧
        (c.1 = 0 → queueOf t bd.part q = queueOf s bd.part q ++ [s.stamp] ∧
          ∃ l, SMap.find? t.launches s.stamp = some l ∧ l.doubles = r ∧ l.part = bd.part ∧ l.queue = q) ∧
        (c.1 ≠ 0 → t.launches = s.launches)))

/-- R60, R61, R63, R65, R86, R267: the points of an issue slot, the replies of near accesses, the seeds, and a band's
resumption. An interval point clears the queue and counts of its weft. A weft that has had its 256 cycles while another is
ready is marked so; at its slot's turn, where nothing defers the switch, the first other weft that can issue issues, and the slot
serves it and has cleared the queue of the one that it leaves. -/
def Obligations.IssueEvents : Prop :=
  ∀ s : State,
    (∀ (b i : Nat) (bd : Band) (w : Weft), s.current = some (b, i, bd, w) → w.seq ≠ 0 → 4 ≤ w.issued →
      s.deferring bd w = false → w.hangk = 0 →
      Goes .intervalPoint s (fun t => OnlyWeft s t b i ∧ Now t b i (fun w' => SameRegs w w' ∧ w'.seq = 0 ∧ w'.issued = 0 ∧
        w'.latches = [] ∧ w'.chain = none ∧ (w.nextRun = some w'.run ∨ w'.bundle = 0)))) ∧
    (∀ (core slot b i : Nat) (bd : Band) (w : Weft) (x : Nat × Nat), slot < 4 → s.servingOn core slot = some (b, i) →
      s.band? b = some bd → s.weft? b i = some w →
      (256 ≤ w.slotCycles → w.spent = false → s.deferring bd w = false → x ∈ s.slotWefts core slot → x ≠ (b, i) →
        s.readyWeft x = true →
        Goes (.weftTimesliceSwitch (4 * core + slot)) s (fun t => OnlyWeft s t b i ∧ Now t b i (fun w' => SameRegs w w' ∧
          w'.spent = true))) ∧
      (∀ rest others, s.turns = .slot core slot :: rest → w.spent = true →
        let s1 : State := { s with turns := rest, stalled := false, inPlace := false }
        let run := (s1.switchTo core slot x).attempt exec x.1 x.2
        (w.reform = true ∨ s1.deferring bd w = false) → s1.switchOrder s1.prioOf core slot = x :: others → moved run = true →
        step s = run) ∧
      (let t := s.switchTo core slot x
       SameMemory s t ∧ t.servingOn core slot = some x ∧ Now t b i (fun w' => SameRegs w w' ∧ w'.latches = [] ∧ w'.chain = none ∧
         w'.slotCycles = 0 ∧ w'.spent = false ∧ w'.reform = true))) ∧
    (∀ (b i : Nat) (bd : Band) (w : Weft), s.band? b = some bd → bd.stopped = true → bd.state ≠ .retired →
      s.weft? b i = some w → (∀ v ∈ bd.wefts, v.late = []) →
      Goes (.bandResume b) s (fun t => SameMemory s t ∧ (∃ bd', t.band? b = some bd' ∧ bd'.stopped = false) ∧
        Now t b i (fun w' => SameRegs w w' ∧ w'.frozen = false ∧ ∀ l, l < w.lanes.length →
          (w'.lane l).pc = (if (w.lane l).bkpt = 0 then (w.lane l).pc else (w.lane l).pc + 8) ∧ (w'.lane l).bkpt = 0))) ∧
    (∀ (b i l : Nat) (x : W32) (w : Weft), s.cur = some (b, i) → s.weft? b i = some w → l < w.lanes.length →
      Goes (.rsseedWrite [(l, x)]) s (fun t => OnlyWeft s t b i ∧ Now t b i (fun w' => SameRegs w w' ∧
        (w'.lane l).rs = lfsrSeed l x ∧ ∀ k, k ≠ l → (w'.lane k).rs = (w.lane k).rs))) ∧
    (∀ (b i k l : Nat) (x : W32) (w : Weft) (r : NearReply), s.weft? b i = some w → l < 64 →
      w.replies.find? (fun y => y.id == r.id) = some r → r.v = [(k * 64 + l, x)] → (⟨k, l, r.id⟩ : Await) ∈ w.await →
      Goes (.nearFarSideReplyLand b i r.id) s (fun t => OnlyWeft s t b i ∧ Now t b i (fun w' => w'.vget k l = x ∧
        (∀ y ∈ w'.await, y.req ≠ r.id) ∧ (∀ y ∈ w'.replies, y.id ≠ r.id))))

/-- R185, R205, R215, R217, R218, R221, R222, R226, R247, R251, R255, R335: an engine command starts; its engine writes the elements
of a sector, an entry's shares or its witness at home and counts their bytes; an answer from far memory brings a sector that it reads,
or lands the bytes that it wrote; it sets the presence bits of a line that it has filled, and ends complete, with its records' indexes
zero, or in error. -/
def Obligations.EngineEvents : Prop := EngineWrites ∧ EngineSteps

/-- R264, R312 to R317, R322, R372: the stages of a far request. Each passes it on to the next, holds it, or ends it in error. The
owner field of a cause of the segment stage where no entry is valid is the model's choice (log 16). -/
def Obligations.FarStages : Prop := SegmentStage ∧ RegionStage ∧ BlockStage ∧ StageReturns

/-- R197, R198, R217, R218, R223, R224, R373, R375: a channel performs the request that it picks, at its home bytes; a store's
bytes land with its reply; the reply writes the lane's registers and counts, and an error marks them and the counter. -/
def Obligations.FarReplies : Prop :=
  ∀ (s : State) (id : Nat) (r : FarReq) (b i l : Nat) (w : Weft), s.req? id = some r → r.who = .lane b i l →
    s.weft? b i = some w →
    let waits := fun n => ∀ k, k < n → (⟨r.dst + k, l, id⟩ : Await) ∈ w.await
    (∀ stack chan st c bank row col, Picked s stack chan id r → r.stage = .channel st c bank row col →
      (SMap.get s.hbmIf HbmIf.idle stack).running = false → s.dead.contains (9, stack) = false →
      let phys := st * 2 ^ 36 + c * 2 ^ 31 + bank * 2 ^ 25 + row * 2 ^ 13 + col
      s.refuses r.part phys = false →
      (r.op = .store → Goes (.hbmScheduleDecision stack chan) s (fun t => SameMemory s t ∧
        Req t id (fun q => q.stage = .stored phys ∧ q.data = r.data))) ∧
      (r.op = .load → s.poisoned phys r.len = false → (∀ x ∈ s.hist, x.place ≠ .hbm) →
        Goes (.hbmScheduleDecision stack chan) s (fun t => SameMemory s t ∧
          Req t id (fun q => q.stage = .performed (Mem.read s.hbm phys r.len)))) ∧
      (∀ op w64 nr, r.op = .atom op w64 nr → s.poisoned phys r.len = false →
        let n := if w64 then 8 else 4
        let old := leNat (Mem.read s.hbm phys n)
        Goes (.hbmScheduleDecision stack chan) s (fun t =>
          (∀ a, Mem.get t.hbm a = afterWrite phys (leBytes n (atomNew op w64 old (leNat (r.data.take n)) (leNat (r.data.drop n)))) a
            (Mem.get s.hbm a)) ∧
          Req t id (fun q => q.stage = .performed (leBytes n old))))) ∧
    (∀ bs, r.op = .load → r.stage = .performed bs → bs.length = r.len → r.len % 4 = 0 → waits (r.len / 4) →
      Goes (.farReplyLand id .here) s (fun t => SameMemory s t ∧ t.req? id = none ∧
        (∀ c, r.ctr = some c → Counted s t b c r.len) ∧
        Now t b i (fun w' => (∀ y ∈ w'.await, y.req ≠ id) ∧ ∀ k, k < r.len / 4 →
          w'.vget (r.dst + k) l = BitVec.ofNat 32 (leNat ((bs.drop (4 * k)).take 4))))) ∧
    (∀ x, r.op = .load → r.stage = .failed x → waits (r.len / 4) →
      Goes (.farReplyLand id .here) s (fun t => SameMemory s t ∧ t.req? id = none ∧
        (∀ c, r.ctr = some c → CounterFailed s t b c x) ∧
        Now t b i (fun w' => (∀ y ∈ w'.await, y.req ≠ id) ∧ ∀ k, k < r.len / 4 →
          SMap.find? w'.failed ((r.dst + k) * 64 + l) = some x))) ∧
    (∀ op w64 bs, r.op = .atom op w64 false → r.stage = .performed bs → bs.length = (if w64 then 8 else 4) →
      waits (if w64 then 2 else 1) →
      Goes (.fatomReply id .here) s (fun t => SameMemory s t ∧ t.req? id = none ∧
        (∀ c, r.ctr = some c → Counted s t b c (if w64 then 8 else 4)) ∧
        Now t b i (fun w' => ∀ k, k < (if w64 then 2 else 1) →
          w'.vget (r.dst + k) l = BitVec.ofNat 32 (leNat ((bs.drop (4 * k)).take 4))))) ∧
    (r.op = .store →
      (∀ phys, r.stage = .stored phys → r.mask = [] → Goes (.fstoreComplete id .here) s (fun t => t.req? id = none ∧
        (∀ a, Mem.get t.hbm a = afterWrite phys r.data a (Mem.get s.hbm a)) ∧
        ∀ c, r.ctr = some c → Counted s t b c r.len)) ∧
      (∀ x, r.stage = .failed x → r.ctr = none → Goes (.fstoreComplete id .here) s (fun t => SameMemory s t ∧ t.req? id = none ∧
        Now t b i (fun w' => SameRegs w w' ∧ w'.held = w.held.or (some x)))))

/-- R314, R324, R327, R328, R397: what the host and the peers do to requests: translations, page requests, invalidations,
requests of peers that this device serves, and a timeout. -/
def Obligations.OutsideRequests : Prop :=
  ∀ s : State,
    (∀ (id : Nat) (r : FarReq), s.req? id = some r → r.stage = .ats → Plain r →
      let fails := fun (ans : AtsAnswer) (group reason : Nat) => Goes (.atsTranslationResponse id ans) s (fun t => SameMemory s t ∧
        Req t id (fun q => ∃ c, q.stage = .failed c ∧ c.group = group ∧ c.reason = reason))
      (∀ pa d0 d1 page kinds, SegAt s r.part r.addr pa d0 d1 → HostSeg d0 d1 → fld d0 63 60 ≠ 0 →
        kinds / 2 ^ r.access.code % 2 = 1 →
        let va := hostVa d1 r.addr
        Goes (.atsTranslationResponse id (.granted page kinds)) s (fun t => SameMemory s t ∧
          (⟨fld d0 39 38, hostTag d0, va / 4096, kinds, page⟩ : AtsEntry) ∈ t.ats ∧
          t.ats.countP (fun e => e.die == fld d0 39 38) ≤ 2048 ∧
          (∀ e ∈ s.ats, e.die ≠ fld d0 39 38 → e ∈ t.ats) ∧
          Req t id (fun q => q.stage = .host (page * 4096 + va % 4096) va (hostTag d0)))) ∧
      fails .noPermission 9 8 ∧ fails .error 8 9 ∧
      (fld (s.kget (.pseg r.part)) 5 5 = 0 → fails .notPresent 8 8) ∧
      (fld (s.kget (.pseg r.part)) 5 5 = 1 → s.reqs.countP (fun e => e.2.stage == .pri) < 256 →
        Goes (.atsTranslationResponse id .notPresent) s (fun t => SameMemory s t ∧ Req t id (fun q => q.stage = .pri)))) ∧
    (∀ (id : Nat) (r : FarReq), s.req? id = some r → r.stage = .pri → Plain r →
      Goes (.priResponse id true) s (fun t => SameMemory s t ∧ Req t id (fun q => q.stage = .ats)) ∧
      Goes (.priResponse id false) s (fun t => SameMemory s t ∧
        Req t id (fun q => ∃ c, q.stage = .failed c ∧ c.group = 8 ∧ c.reason = 8))) ∧
    (∀ (lo hi : Nat), s.atsInvals < 32 →
      Goes (.atsInvalidateRequest none lo hi) s (fun t => SameMemory s t ∧ t.atsInvals = s.atsInvals + 1 ∧
        (∃ x, SMap.find? t.buoys s.stamp = some x ∧ x.why = .invalidate) ∧
        ∀ e ∈ t.ats, e ∈ s.ats ∧ (e.tag = 0 → hi < e.page * 4096 ∨ (e.page + 1) * 4096 ≤ lo))) ∧
    (∀ (r : Inbound), r.port < Config.ports → s.up = true → s.lanesUp r.port ≠ 0 → r.label < 2 ^ 16 →
      (∀ part, Inbound.served r = true → s.exported r.label = some part →
        Goes (.ualinkInboundRequest r) s (fun t => SameMemory s t ∧ t.stamp = s.stamp + 1 ∧
          Req t s.stamp (fun q => q.who = .peer r.src r.label r.port ∧ q.part = part ∧ q.stage = .segment ∧
            q.addr = BitVec.ofNat 64 (r.label * 2 ^ 48 + r.addr.toNat % 2 ^ 48)))) ∧
      (Inbound.served r = true → s.exported r.label = none →
        Goes (.ualinkInboundRequest r) s (fun t => SameMemory s t ∧ Req t s.stamp (fun q =>
          q.stage = .respond (if Config.znPeer r.src then .ownerFault 9 5 1 0 else .aborted)))) ∧
      (Inbound.served r = false → Goes (.ualinkInboundRequest r) s (fun t => SameMemory s t ∧
        Req t s.stamp (fun q => q.stage = .respond .unsupported)))) ∧
    (∀ (id : Nat) (r : FarReq) (p : Nat), s.req? id = some r → r.portOf = some p → r.at_ + s.portTmo p ≤ s.now →
      r.isProbe = false → (∀ a l p, r.who ≠ .peer a l p) →
      Goes (.peerTimeout id) s (fun t => SameMemory s t ∧ id ∉ (t.uport p).egress ∧
        Req t id (fun q => ∃ c, q.stage = .failed c ∧ c.group = 20 ∧ c.reason = 1)))

/-- R289, R327 to R331: a port's credits, its token buckets and its egress queue. How many credits a message takes is the model's
choice (log 15). -/
def Obligations.PortEvents : Prop :=
  ∀ (s : State) (p : Nat), p < Config.ports →
    (∀ (used : List Nat), used.length = 4 → (∀ v, v < 4 → used.getD v 0 ≤ (s.uport p).holds v) → laneCount (s.lanesUp p) ≠ 0 →
      (s.uport p).windowAt + windowNs (laneCount (s.lanesUp p)) ≤ s.now →
      let sum := used.getD 0 0 + used.getD 1 0 + used.getD 2 0 + used.getD 3 0 + 4
      let share := fun v => 256 + 3072 * (used.getD v 0 + 1) / sum
      Goes (.creditReapportion p used) s (fun t => SameMemory s t ∧ (t.uport p).windowAt = s.now ∧
        ∀ v, v < 4 → (t.uport p).limit v =
          share v + (if v = 0 then 4096 - (share 0 + share 1 + share 2 + share 3) else 0))) ∧
    (∀ vc n, vc < 4 → n ≠ 0 → Goes (.creditReturn p vc n) s (fun t => SameMemory s t ∧
      SMap.get (t.uport p).credits 0 vc = SMap.get (s.uport p).credits 0 vc + n)) ∧
    (s.now ≥ (s.uport p).tickAt + 1000 → (s.uport p).egress = [] →
      Goes (.tokenBucketTick p) s (fun t => SameMemory s t ∧ (t.uport p).tickAt = (s.uport p).tickAt + 1000 ∧
        ∀ k, k < 20 →
          let v := s.kget (.bucket k p)
          let depth := if fld v 51 32 = 0 then 0 else max (fld v 51 32) 4096
          (t.kget (.tokens k p)).toNat = min depth (fld (s.kget (.tokens k p)) 20 0 + fld v 19 0))) ∧
    (∀ (id vc : Nat) (r : FarReq), s.req? id = some r → r.stage = .egress p → MaySend s p vc r.payload →
      (∀ part n, r.who = .collMsg part n → vc = 3) → ((∀ part n, r.who ≠ .collMsg part n) → vc = 0) →
      (s.uport p).egress.find? (fun x => ((s.req? x).map (fun y => y.part == r.part)).getD false) = some id →
      32 + r.chargeBytes ≤ fld (s.kget (.tokens r.part p)) 20 0 →
      Goes (.requestEgress p (.req id)) s (fun t => SameMemory s t ∧ Req t id (fun q => q.stage = .sent p) ∧
        id ∉ (t.uport p).egress ∧ LeftOn s t p vc r.payload ∧
        (t.kget (.tokens r.part p)).toNat = fld (s.kget (.tokens r.part p)) 20 0 - (32 + r.chargeBytes))) ∧
    (∀ (id acc lab : Nat) (r : FarReq) (ans : FarAnswer), s.req? id = some r → r.who = .peer acc lab p →
      r.stage = .respond ans → MaySend s p 1 (respBytes ans) →
      Goes (.requestEgress p (.req id)) s (fun t => SameMemory s t ∧ t.req? id = none ∧ LeftOn s t p 1 (respBytes ans))) ∧
    (∀ (n : BitVec 48) (x : BNum) (part bytes : Nat), s.number? n = some x → x.state = .running →
      s.rankIs n x part .started = true → s.up = true → 1 ≤ bytes → bytes ≤ 256 →
      let msg := fun (q : FarReq) => q.who = .collMsg part n ∧ q.part = part ∧ q.payload = bytes
      (s.portDown p = false → Goes (.requestEgress p (.coll n part bytes)) s (fun t => SameMemory s t ∧
        Req t s.stamp (fun q => msg q ∧ q.stage = .egress p) ∧ s.stamp ∈ (t.uport p).egress)) ∧
      (s.portDown p = true → Goes (.requestEgress p (.coll n part bytes)) s (fun t => SameMemory s t ∧
        Req t s.stamp (fun q => msg q ∧ ∃ c, q.stage = .failed c ∧ c.group = 20 ∧ c.reason = 2)))) ∧
    (∀ n, 1 ≤ n → n ≤ 256 → MaySend s p 2 n →
      Goes (.requestEgress p (.beacon n)) s (fun t => SameMemory s t ∧ LeftOn s t p 2 n)) ∧
    (s.raiseOff.contains p = true → (s.uport p).egress = [] →
      Goes (.commRaiseStart p) s (fun t => SameMemory s t ∧ p ∉ t.raiseOff)) ∧
    (∀ at_, s.raiseOff.contains p = false → (s.uport p).filledAt = some at_ → at_ + 1000 ≤ s.now →
      Goes (.commRaiseEnd p) s (fun t => SameMemory s t ∧ p ∈ t.raiseOff))

/-- R227, R228, R233, R234, R237, R239, R242, R244, R304, R348: matrix commands start when no earlier one holds them, and complete:
MLDW leaves the image in the latch, MZERO a zero tile of its mode, MRD the entries in its lanes' registers, with .raw all four. An error sets the band's
fault and discards the rest of its queue. A claim gives the core's matrix state to the band. -/
def Obligations.MatrixEvents : Prop :=
  ∀ (s : State) (id b : Nat) (bd : Band) (m : MCmd),
    (Working s id b bd m → m.started = false → bd.matrixHeld m = false → s.fenceHolds b m.weft .matrix m.id = false →
      Goes (.matrixCommandStart id) s (fun t => ∃ bd', t.band? b = some bd' ∧ bd'.mq.length = bd.mq.length ∧
        ∀ e ∈ bd'.mq, e.id = id → e.started = true)) ∧
    (Working s id b bd m → m.started = true →
      (∀ tile int, m.kind = .mzero tile int → Goes (.matrixCommandComplete id) s (fun t => SameMemory s t ∧
        tileOf t bd.core tile = Tile.zero int ∧ (∀ k, k ≠ tile → tileOf t bd.core k = tileOf s bd.core k) ∧
        ∃ bd', t.band? b = some bd' ∧ ∀ e ∈ bd'.mq, e.id ≠ id)) ∧
      (∀ a fmt sm mc k off, m.kind = .mldw a fmt sm mc →
        FetchAt s b bd ⟨a, imageElems fmt + imageScales sm, 1, mc⟩ k off →
        let bs := Mem.read (s.mem (.band k)) off (imageElems fmt + imageScales sm)
        Goes (.matrixCommandComplete id) s (fun t => SameMemory s t ∧ (t.core bd.core).mat.mc = mc ∧
          (t.core bd.core).mat.latch = some ⟨fmt, sm, a, bs.take (imageElems fmt), bs.drop (imageElems fmt)⟩ ∧
          (t.core bd.core).mat.tiles = (s.core bd.core).mat.tiles ∧ ∃ bd', t.band? b = some bd' ∧ ∀ e ∈ bd'.mq, e.id ≠ id)) ∧
      (∀ lanes dst raw tile rnd sat w, m.kind = .mrd lanes dst raw tile rnd sat → s.weft? b m.weft = some w →
        (lanes.map (fun x => x.1)).Nodup → (∀ x ∈ lanes, x.1 < 64) → (∀ y ∈ w.await, y.req = m.id → ∃ x ∈ lanes, y.lane = x.1) →
        let regs := if raw then 4 else 1
        (∀ x ∈ lanes, ∀ k, k < regs → (⟨dst + k, x.1, m.id⟩ : Await) ∈ w.await) →
        Goes (.matrixCommandComplete id) s (fun t => SameMemory s t ∧ Now t b m.weft (fun w' =>
          (∀ x ∈ lanes, ∀ k, k < regs → w'.vget (dst + k) x.1 =
            (mrdVals (tileOf s bd.core tile).int raw rnd sat ((tileOf s bd.core tile).entry x.2.1 x.2.2)).1.getD k 0) ∧
          ∀ y ∈ w'.await, y.req ≠ m.id))) ∧
      (bd.mfault = none →
        let ends := fun (c : Cause) => Goes (.matrixExecutionError id) s (fun t => (m.cells = [] → m.wits = [] → SameMemory s t) ∧
          ∃ bd', t.band? b = some bd' ∧ bd'.mfault = some c ∧ ∀ e ∈ bd'.mq, e.id < id)
        (∀ r n incA incS incW sa tile mc row0, m.kind = .mloop r n incA incS incW sa tile mc row0 →
          (s.core bd.core).mat.latch = none → ends (matCause 0x12C 6 tile m.progress 0)) ∧
        ∀ c latch, s.matStep b bd m = .error (.fail c latch) → ends c)) ∧
    (s.band? b = some bd → bd.state = .resident → (s.core bd.core).owner ≠ some b → (s.claim b bd).isSome = true →
      (∀ (i : Nat) (w : Weft) (x : Instr), bd.weft? i = some w → w.bundle ≠ 0 → s.instrAt bd w w.pc = some x → claims x = true →
        bd.mfault = none → Goes (.accumulatorClaim bd.core b) s (fun t => SameMemory s t ∧ (t.core bd.core).owner = some b)) ∧
      (bd.mq ≠ [] → Goes (.matrixResumeClaim bd.core b) s (fun t => SameMemory s t ∧ (t.core bd.core).owner = some b))) ∧
    ((s.core bd.core).owner = none → s.taggedOn b = none → (s.claim b bd).isSome = true)

/-- R120, R282, R291, R292: a weft retires when its lanes have exited; a band when its wefts have and nothing of it is under way;
a launch ends with its last band, or at an abort, and its counter counts it. -/
def Obligations.BandEnds : Prop :=
  ∀ s : State,
    (∀ (b i : Nat) (bd : Band) (w : Weft), s.band? b = some bd → s.weft? b i = some w → bd.state = .resident →
      w.isOver = true → (s.core bd.core).grants = [] →
      Goes (.weftRetire b i) s (fun t => SameMemory s t ∧ Now t b i (fun w' => w'.retired = true ∧ w'.ext = false ∧ w'.bundle = 0))) ∧
    (∀ (b : Nat) (bd : Band), s.band? b = some bd → bd.state = .resident → (∀ w ∈ bd.wefts, w.retired = true) →
      s.bandBusy b bd = false →
      Goes (.bandRetire b) s (fun t => (∀ bd', t.band? b = some bd' → bd'.state = .retired) ∧
        ∀ l, SMap.find? s.launches bd.launch = some l → l.failed = false →
          (l.retired + 1 < LRec.bands l.doubles →
            SMap.find? t.launches bd.launch = some { l with retired := l.retired + 1 }) ∧
          (l.retired + 1 = LRec.bands l.doubles →
            s.bands.filter (fun e => e.2.launch == bd.launch && e.2.state != .retired) = [(b, bd)] →
            SMap.find? t.launches bd.launch = none ∧ LaunchCounted s t l.doubles false))) ∧
    (∀ (id : Nat) (l : Launch), SMap.find? s.launches id = some l → l.failed = false → (∀ e ∈ s.bands, e.2.launch ≠ id) →
      Goes (.launchAbort id) s (fun t => SameMemory s t ∧ SMap.find? t.launches id = none ∧ LaunchCounted s t l.doubles true))

/-- R280 to R282, R284, R285, R287, R288, R290: a launch port takes its halves and commits them to its queue or gives the
reason why not; a selection places a launch of one band on the first core that it fits; a waiting gang ends the bypass; a
waiting head has a band saved or flushed. -/
def Obligations.LaunchEvents : Prop :=
  ∀ (s : State) (part : Nat) (p : Partition), s.part? part = some p →
    (∀ (port : Nat) (data : List W64), port < 64 → data.length = 8 →
      Goes (.launchPortFirstHalf part port 0 data) s (fun t => SameMemory s t ∧ (t.port part port).first = some data) ∧
      (∀ h, (s.port part port).first = some h → fld (LRec.d data 7) 63 63 = 1 →
        (s.checkRecord part port (h ++ data) = (0, 0) →
          Goes (.launchPortSecondHalf part port 0x40 data) s (fun t => SameMemory s t ∧
            queueOf t part port = queueOf s part port ++ [s.stamp] ∧ (t.port part port).first = none ∧
            (t.port part port).accepted = ((s.port part port).accepted + 1) % 65536 ∧
            ∃ l, SMap.find? t.launches s.stamp = some l ∧ l.doubles = h ++ data ∧ l.part = part ∧ l.queue = port ∧ l.next = 0)) ∧
        (∀ why off, s.checkRecord part port (h ++ data) = (why, off) → why ≠ 0 →
          Goes (.launchPortSecondHalf part port 0x40 data) s (fun t => SameMemory s t ∧ t.launches = s.launches ∧
            (t.port part port).reason = why ∧ (t.port part port).first = none)))) ∧
    (∀ (n : Nat) (v : W64), n < Config.counters →
      Goes (.launchCounterWrite n v) s (fun t => SameMemory s t ∧
        (SMap.get t.lcc 0 n).toNat % 2 ^ 48 = v.toNat % 2 ^ 48 ∧ (SMap.get t.lcc 0 n).getLsbD 63 = v.getLsbD 63)) ∧
    (∀ (q id c : Nat) (l : Launch), p.queues = [(q, [id])] → s.launches = [(id, l)] → l.part = part → l.queue = q →
      l.next = 0 → LRec.gang l.doubles = 1 → LRec.bands l.doubles = 1 → fld (LRec.d l.doubles 5) 12 12 = 0 →
      (∀ e ∈ s.bands, e.2.launch ≠ id) → (searchFrom p.cores l.last).find? (s.fits (Need.ofRec l.doubles)) = some c →
      Goes (.schedulerSelection part) s (fun t => queueOf t part q = [] ∧
        ∃ bd, t.band? s.stamp = some bd ∧ bd.core = c ∧ bd.launch = id ∧ bd.part = part ∧ bd.state = .resident ∧
          bd.ctx = LRec.ctx l.doubles ∧ bd.wefts.length = LRec.wefts l.doubles ∧ bd.trapEntry = LRec.d l.doubles 1 ∧
          bd.pad = [] ∧ bd.since = s.now)) ∧
    (∀ (id : Nat) (l : Launch) (at_ : Nat), SMap.find? s.launches id = some l → l.firstFail = some at_ → l.bypassOver = false →
      at_ + 100000 ≤ s.now →
      Goes (.gangBypassTimeout id) s (fun t => SameMemory s t ∧ SMap.find? t.launches id = some { l with bypassOver := true })) ∧
    (∀ (q id : Nat) (rest : List Nat) (l : Launch) (at_ b : Nat) (bd : Band), SMap.get p.queues [] q = id :: rest →
      SMap.find? s.launches id = some l → l.headAt = some at_ → (∀ x, l.sought = some x → x < s.now) →
      fld (s.kget (.psched part)) 15 8 ≠ 0 →
      at_ + 1000 * fld (s.kget (.psched part)) 15 8 ≤ s.now → (0 < l.next ∨ (s.depMet l = true ∧ s.depFailed l = false)) →
      s.bands.filter (fun e => e.2.part == part && e.2.savable && s.mayPreempt (s.effHead l) e.2) = [(b, bd)] →
      s.band? b = some bd →
      Goes (.placementWaitExpiry part q) s (fun t => SameMemory s t ∧ ∃ bd', t.band? b = some bd' ∧ bd'.save.isSome = true))

/-- R181, R268, R295, R296, R298 to R302, R307: a save is asked for, goes over to a full save at its deadline, starts when every
weft has stopped and the pool has room, and completes with what the image holds; a flush begins, and ends with the band as
its launch record starts it. That a flush is two events is the model's choice (log 35). -/
def Obligations.SaveEvents : Prop :=
  ∀ (s : State) (b : Nat) (bd : Band), s.band? b = some bd →
    (∀ byHost, bd.savable = true → (byHost = true ∨ bd.stopped = true) →
      s.bands.filter (fun e => e.2.ctx == bd.ctx && e.2.savable && (byHost || e.2.stopped) && e.1 == b) = [(b, bd)] →
      Goes (.saveRequest byHost bd.ctx (some b)) s (fun t => SameMemory s t ∧ ∃ bd', t.band? b = some bd' ∧
        bd'.save = some ⟨s.now, bd.stopped || fld (s.kget (.psave bd.part)) 15 0 == 0, false, 0,
          if byHost then .host else .debugger⟩)) ∧
    (∀ v, bd.save = some v → v.full = false → v.flush = false → bd.state = .resident →
      v.at_ + 1000 * fld (s.kget (.psave bd.part)) 15 0 ≤ s.now → s.retrainsFor bd = false →
      Goes (.saveDeadlineExpiry b) s (fun t => SameMemory s t ∧ ∃ bd', t.band? b = some bd' ∧
        bd'.save = some { v with full := true })) ∧
    (∀ v, bd.save = some v → v.flush = false → bd.state = .resident →
      (∀ w ∈ bd.wefts, w.stoppedFor v.full = true ∧ w.replies = []) → (∃ w ∈ bd.wefts, w.retired = false) →
      (∀ m ∈ bd.mq, s.matrixStops b bd m = true) → (s.ctx? bd.ctx).isSome = true →
      let n := (haltedBand bd).imageBytes
      let more := (s.reservedPad b bd).foldl (fun a e => a + e.2) 0
      let pool := 65536 * fld (s.kget (.psave bd.part)) 63 40
      (s.poolUsed bd.part + (n + more) ≤ pool → Goes (.saveStart b) s (fun t =>
        (∀ r a, Mem.get (t.mem r) a = afterStores (bd.wefts.flatMap (fun w =>
          w.wbuf.map (fun x => (.at_ (ownDie bd) x.addr, x.bytes)))) r a (Mem.get (s.mem r) a)) ∧
        ∃ bd', t.band? b = some bd' ∧ bd'.state = .saving ∧ bd'.image = n ∧ 16384 ≤ n)) ∧
      (pool < s.poolUsed bd.part + (n + more) → Goes (.saveStart b) s (fun t => SameMemory s t ∧
        (∃ bd', t.band? b = some bd' ∧ bd'.state = .resident ∧ bd'.save = none) ∧
        (v.who = .host → SMap.find? t.hostStatus b = some .noRoom)))) ∧
    (bd.state = .saving → s.working (.save b) = false → ∀ (i : Nat) (w : Weft), bd.weft? i = some w → w.retired = false →
      Goes (.saveComplete b) s (fun t => ∃ bd', t.band? b = some bd' ∧ bd'.state = .saved ∧ bd'.save = none ∧
        (∀ a, Mem.get bd'.pad a = if inRanges bd.savedRanges a then Mem.get bd.pad a else 0) ∧
        ∃ w', bd'.weft? i = some w' ∧ w'.s = w.s ∧ w'.p = w.p ∧
          ∀ r l, l < 64 → w'.vget r l = if (w.savedGroups bd).contains (r / 8) then w.vget r l else 0)) ∧
    (bd.state = .resident → bd.save = none → bd.restartable = true →
      Goes (.flushRequest 1 b) s (fun t => ∃ bd', t.band? b = some bd' ∧ bd'.save = some ⟨s.now, true, true, 1, .host⟩ ∧
        ∀ e ∈ bd'.mq, e.started = true)) ∧
    (bd.state = .resident → bd.save = none → bd.restartable = false →
      Goes (.flushRequest 1 b) s (fun t => SameMemory s t ∧ t.band? b = some bd ∧
        SMap.find? t.hostStatus b = some .notRestartable)) ∧
    (∀ v l, bd.state = .resident → bd.save = some v → v.flush = true → s.flushBusy b bd = false →
      SMap.find? s.launches bd.launch = some l →
      Goes (.flushRequest v.flushWho b) s (fun t => ∃ bd', t.band? b = some bd' ∧ bd'.state = .saved ∧ bd'.save = none ∧
        bd'.pad = [] ∧ bd'.index = bd.index ∧ bd'.launch = bd.launch ∧ bd'.wefts.length = LRec.wefts l.doubles))

/-- R3, R159, R182, R184, R250, R280, R283, R294, R308, R309, R393: contexts and partitions come and go; the host writes device
memory. The model's choices: each of these is one step, but for the reset of a partition whose bands have commands to complete (log
46); and a host write beyond the twelve stacks, of which the spec says nothing, stops the machine (log 69). -/
def Obligations.ContextEvents : Prop :=
  ∀ s : State,
    (∀ c : CtxSpec, c.ctx < 256 → s.keeperUp = true → s.up = true → s.ctx? c.ctx = none → (s.part? c.part).isSome = true →
      s.ctxs.countP (fun e => e.2.part == c.part) < 16 → c.cseg < 2 ^ 16 → c.roLen ≤ c.sliceBytes →
      c.image.length ≤ c.sliceBytes → bkeyOk c.bkey = true →
      (∀ d ∈ c.dies, d < 4 ∧ s.ctxs.foldl (fun a e => if e.2.dies.contains d then a + e.2.sliceBytes + e.2.spillReserve else a) 0
        + (c.sliceBytes + c.spillReserve) ≤ dieBytes) →
      Goes (.contextCreate c) s (fun t => (∃ x, t.ctx? c.ctx = some x ∧ x.part = c.part ∧ x.cseg = c.cseg ∧
          x.sliceBytes = c.sliceBytes ∧ x.roLen = c.roLen ∧ x.bkey = c.bkey ∧ x.serial = c.serial ∧ x.dies = c.dies) ∧
        ∀ d ∈ c.dies, ∀ a, Mem.get (t.mem (.die c.ctx d)) a = (c.image[a]?).getD 0)) ∧
    (∀ c, (s.ctx? c).isSome = true → s.keeperUp = true → Goes (.contextDestroy c) s (fun t => t.ctx? c = none ∧ t.hbm = s.hbm ∧
      ∀ e ∈ t.chans, fld e.2.d0 61 54 ≠ c)) ∧
    (∀ p : PartSpec, p.part < 20 → s.up = true → s.keeperUp = true → p.granules ≠ [] → (∀ g ∈ p.granules, g < Config.granules) →
      (∀ e ∈ s.parts, e.1 ≠ p.part → ∀ g ∈ p.granules, g ∉ e.2.granules) → (∀ e ∈ s.ctxs, e.2.part ≠ p.part) →
      (∀ e ∈ s.launches, e.2.part ≠ p.part) →
      Goes (.partitionForm p) s (fun t => SameMemory s t ∧
        (∃ x, t.part? p.part = some x ∧ x.granules = p.granules ∧ x.debug = p.debug ∧ x.queues = [] ∧ x.ports = []) ∧
        (∀ e ∈ t.chans, fld e.2.d0 53 49 ≠ p.part) ∧
        ∀ n, fld (s.kget (.psched p.part)) 27 16 ≤ n →
          n < fld (s.kget (.psched p.part)) 27 16 + fld (s.kget (.psched p.part)) 40 28 → SMap.get t.lcc 0 n = 0)) ∧
    (∀ part, (s.part? part).isSome = true → s.keeperUp = true → s.bandsLeft part = false →
      Goes (.partitionReset part) s (fun t => t.hbm = s.hbm ∧ ∀ c x, s.ctx? c = some x → x.part = part → t.ctx? c = none)) ∧
    (∀ part p, s.part? part = some p → s.keeperUp = true → p.resetting = false →
      Goes (.partitionReset part) s (fun t => t.hbm = s.hbm ∧ ∀ l ∈ t.launches, l.2.part = part → l.2.failed = true)) ∧
    (∀ (a : Nat) (bs : List Byte), fld (s.kget .bootst) 63 63 = 1 → a + bs.length ≤ Config.hbmStacks * 2 ^ 36 →
      Goes (.cxlHostWrite a bs) s (fun t => ∀ x, Mem.get t.hbm x = afterWrite a bs x (Mem.get s.hbm x))) ∧
    (∀ (a : Nat) (bs : List Byte), fld (s.kget .bootst) 63 63 = 1 → Config.hbmStacks * 2 ^ 36 < a + bs.length → exec (.cxlHostWrite a bs) s = .fault (.noStorage a))

/-- R318 to R325, R364: the commands that change a mapping: what each does when it is written, when its buoy is back, and when its
copy ends. -/
def Obligations.XlCommands : Prop := XlStarts ∧ XlEnds

/-- R308, R371, R376 to R378: palloc tags free rows for a partition and zeroes them, where the rows beside them are free, guard rows
or the partition's; it makes guard rows, and tells a row's tag. To free rows it is busy until its channel has zeroed them. Operands
out of range and rows that are taken give their results and change no tag. The model's choice (log 33): a free zeroes its rows as one
request, and at a first row that fails twice the result is 1; the rows that spares have replaced are data of the state (log 70). -/
def Obligations.RowAllocation : Prop :=
  ∀ (s : State) (stack part chan bank row cnt : Nat), stack < Config.hbmStacks →
    let spare := fun a b => ∃ e ∈ s.spares, e.1 = rowKey stack chan bank a ∧ b ∈ e.2
    let clash := fun r => ∃ x, ((x < 4096 ∧ ((x ≠ r ∧ x ≤ r + 2 ∧ r ≤ x + 2) ∨ spare x r)) ∨ spare r x) ∧ (x < row ∨ row + cnt < x) ∧
      s.rowTag stack chan bank x ≠ part ∧ s.rowTag stack chan bank x ≠ 30 ∧ s.rowTag stack chan bank x ≠ 31
    let bad := fun t => SameMemory s t ∧ Palloc t stack 2 0 0 ∧ t.tags = s.tags
    (s.keeperUp = true → fld (s.kget (.pallocst stack)) 63 63 = 0 →
      (chan < 32 → bank < 64 → row + cnt < 4096 →
        (part ≤ 19 → (∀ r, row ≤ r → r ≤ row + cnt → s.rowTag stack chan bank r = 31 ∧ ¬clash r) →
          Goes (.pallocAllocate stack part chan bank row cnt) s (fun t => Palloc t stack 0 0 0 ∧
            tagged s t stack chan bank row cnt part ∧ zeroed s t stack chan bank row cnt)) ∧
        (part ≤ 19 → clash row →
          Goes (.pallocAllocate stack part chan bank row cnt) s (fun t => SameMemory s t ∧ Palloc t stack 1 0 row ∧ t.tags = s.tags)) ∧
        (part ≤ 19 → s.rowTag stack chan bank row ≠ 31 → ¬clash row →
          Goes (.pallocAllocate stack part chan bank row cnt) s (fun t => SameMemory s t ∧ Palloc t stack 3 0 row ∧ t.tags = s.tags)) ∧
        ((∀ r, row ≤ r → r ≤ row + cnt → s.rowTag stack chan bank r = 31 ∨ s.rowTag stack chan bank r = 30) →
          Goes (.pallocGuard stack chan bank row cnt) s (fun t => SameMemory s t ∧ Palloc t stack 0 0 0 ∧
            tagged s t stack chan bank row cnt 30)) ∧
        Goes (.pallocFree stack chan bank row cnt) s (fun t => SameMemory s t ∧ t.tags = s.tags ∧
          fld (t.kget (.pallocst stack)) 63 63 = 1 ∧ Req t s.stamp (fun q => q.who = .dev (.zero stack chan bank row cnt) ∧
            q.cls = 3 ∧ q.stage = .channel stack chan bank row 0)) ∧
        Goes (.pallocQuery stack chan bank row) s (fun t => SameMemory s t ∧ t.tags = s.tags ∧
          Palloc t stack 0 (s.rowTag stack chan bank row) 0)) ∧
      (32 ≤ chan ∨ 64 ≤ bank ∨ 4096 ≤ row + cnt →
        Goes (.pallocAllocate stack part chan bank row cnt) s bad ∧ Goes (.pallocGuard stack chan bank row cnt) s bad ∧
        Goes (.pallocFree stack chan bank row cnt) s bad) ∧
      (32 ≤ chan ∨ 64 ≤ bank ∨ 4096 ≤ row → Goes (.pallocQuery stack chan bank row) s bad)) ∧
    (∀ (id : Nat) (r : FarReq) (k c col : Nat), s.req? id = some r → r.who = .dev (.zero stack chan bank row cnt) →
      Picked s k c id r → r.stage = .channel stack chan bank row col → chan < 32 → bank < 64 → row + cnt < 4096 →
      (SMap.get s.hbmIf HbmIf.idle k).running = false → s.dead.contains (9, k) = false →
      Goes (.hbmScheduleDecision k c) s (fun t => t.req? id = none ∧ Palloc t stack 0 0 0 ∧
        tagged s t stack chan bank row cnt 31 ∧ zeroed s t stack chan bank row cnt))

/-- R8, R308, R332 to R335: the page of a channel, which empties its queue and count where its context, its partition or its state of
being free changes (the model's choice, log 52), and its items: one starts when those before it have issued their requests and its
wait is met; they complete and count in order; one that ends in error leaves the earlier ones and discards the later ones. -/
def Obligations.ChannelEvents : Prop :=
  ∀ (s : State) (ch : Nat), ch < Config.channels →
    let c := s.chan ch
    (∀ d0 : W64,
      (fld c.d0 61 49 = fld d0 61 49 → (c.state ≠ 2 ∨ fld d0 63 62 ≠ 1) → (c.state ≠ 0 ∨ fld d0 63 62 = 0) →
        Goes (.channelPageWrite ch d0) s (fun t => SameMemory s t ∧ (t.chan ch).items = c.items ∧
          (t.chan ch).count = c.count ∧ (t.chan ch).state = fld d0 63 62 ∧ t.cmds = s.cmds)) ∧
      ((c.state = 2 ∧ fld d0 63 62 = 1) ∨ (c.state = 0 ∧ fld d0 63 62 ≠ 0) ∨ fld c.d0 61 49 ≠ fld d0 61 49 →
        Goes (.channelPageWrite ch d0) s (fun t => SameMemory s t ∧ (t.chan ch).items = [] ∧ (t.chan ch).count = 0 ∧
          (t.chan ch).state = fld d0 63 62 ∧ ∀ x ∈ c.items, SMap.find? t.cmds x.1 = none))) ∧
    (∀ (id : Nat) (m : Cmd) (before rest : List (Nat × Bool)), c.items = before ++ (id, false) :: rest →
      SMap.find? s.cmds id = some m → m.started = false →
      (∀ x ∈ before, x.1 ≠ id ∧ ∀ o, SMap.find? s.cmds x.1 = some o → o.started = true ∧ o.todo = []) →
      (c.state = 1 → ItemWaits s m → ItemOk s c.d0 m → s.fenceHolds m.band m.weft .copy m.stamp = false →
        s.heldBehind m = false →
        Goes (.channelItemStart ch) s (fun t => SameMemory s t ∧ SMap.find? t.cmds id = some { m with started := true, whole := s.selfMeets m })) ∧
      (∀ k w v, m.kind = .item k (some (w, v)) → (s.chan w).state = 2 →
        Goes (.channelItemError ch .own) s (fun t => SameMemory s t ∧ SMap.find? t.cmds id = none ∧ (t.chan ch).items = before ∧
          (∀ x ∈ rest, SMap.find? t.cmds x.1 = none) ∧ (t.chan ch).state = 2 ∧
          CounterFailed s t m.band m.ctr (chanCause 8 w)))) ∧
    (∀ (id : Nat) (m : Cmd) (rest : List (Nat × Bool)), c.items = (id, false) :: rest → SMap.find? s.cmds id = some m →
      m.started = true → m.todo = [] → m.flight = [] → m.lines = [] → (∀ x ∈ rest, x.2 = false ∧ x.1 ≠ id) →
      Goes (.channelItemComplete ch) s (fun t => SameMemory s t ∧ SMap.find? t.cmds id = none ∧
        (t.chan ch).items = rest ∧ (t.chan ch).count = c.count + 1))

/-- R336 to R338, R342 to R344, R354, R371: a communicator's keys and numbers, and what its transfers do at this device's ranks. The
numbers that a removal takes and those that a device off the beacon takes are the model's choices (log 49). -/
def Obligations.CollEvents : Prop := CollNumbers ∧ CollTransfers

/-- R338, R339, R343, R345: a cancel of a number that has not started cancels it, of a running one aborts it, and the COLLC gets
its answer; timeouts, lost members and errors abort a number; a rank takes the abort; the standby takes over; and a lost beacon
ends every number that is not done. The time after which a lantern asks again, and what a primary's decision takes, are the model's
choices (logs 32 and 31). -/
def Obligations.CollEnds : Prop :=
  ∀ s : State,
    (∀ (n : BitVec 48) (x : BNum), s.number? n = some x → s.beaconTable = true → s.beaconLost = false →
      s.up = true →
      (x.state = .assigned → (s.decides false).isSome = true → ∀ a, Goes (.beaconCancel n none a) s (fun t => SameMemory s t ∧ Num t n (fun y => y.state = .cancelled))) ∧
      (x.state = .running → ∀ id (c : Cancel) (w : Weft), SMap.find? s.cancels id = some c → c.number = n →
        s.weft? c.band c.weft = some w → (s.decides true).isSome = true → ∀ a,
        Goes (.beaconCancel n (some id) a) s (fun t => SameMemory s t ∧ Aborting t n 1 ∧ SMap.find? t.cancels id = none ∧
          Now t c.band c.weft (fun w' => w'.sget c.dst = 1 ∧ ∀ y ∈ w'.await, y.req ≠ id))) ∧
      (x.state = .running ∨ x.state = .assigned → (s.beaconRuns = true → x.at_ + 1000 * fld (s.kget .pbeacon) 23 0 ≤ s.now) →
        Goes (.collectiveTimeout n) s (fun t => SameMemory s t ∧ Aborting t n 2)) ∧
      (x.state = .running → Goes (.memberLossAbort n) s (fun t => SameMemory s t ∧ Aborting t n 3) ∧
        Goes (.transferErrorAbort n none) s (fun t => SameMemory s t ∧ Aborting t n 5)) ∧
      (∀ part, x.state = .aborting → SMap.find? x.mine part = none → (s.myParts x.comm).contains part = true →
        Goes (.collectiveAbortReceived n part x.reason) s (fun t => SameMemory s t ∧
          Num t n (fun y => SMap.find? y.mine part = some (.aborted x.reason))))) ∧
    (s.up = true → s.beaconRuns = true → s.heartbeatAt + 10000 ≤ s.now →
      (s.promoted = true ∨ fld (s.kget .pbeacon) 43 34 = s.accel ∨ s.tell.isSome = true) →
      Goes .beaconHeartbeat s (fun t => SameMemory s t ∧ t.heartbeatAt = s.now)) ∧
    (s.up = true → s.beaconRuns = false → fld (s.kget .pbeacon) 33 32 = 2 → s.linked = true →
      Goes .beaconHeartbeat s (fun t => SameMemory s t ∧ t.heartbeatAt = s.now)) ∧
    (s.up = true → fld (s.kget .pbeacon) 33 32 = 2 → s.promoted = false →
      (s.heartbeatAt + 200000 ≤ s.now → Goes .standbyTakeover s (fun t => SameMemory s t ∧ t.promoted = true)) ∧
      (s.keeperUp = true → Goes .beaconPromoteCommand s (fun t => SameMemory s t ∧ t.promoted = true))) ∧
    (∀ ctx slot (k : Ticket), s.ticket? ctx slot = some k → k.number = none → k.retry = false → s.up = true → k.sentAt + s.lanternTmo ≤ s.now →
      Goes (.lanternRequestRetry (.coll ctx) slot) s (fun t => SameMemory s t ∧
        t.ticket? ctx slot = some { k with retry := true, sentAt := s.now })) ∧
    (∀ id (c : Cancel), SMap.find? s.cancels id = some c → c.retry = false → s.up = true → c.sentAt + s.lanternTmo ≤ s.now →
      Goes (.lanternRequestRetry .collc id) s (fun t => SameMemory s t ∧
        SMap.find? t.cancels id = some { c with retry := true, sentAt := s.now })) ∧
    (s.up = true → s.beaconLost = false → Goes .beaconLoss s (fun t => SameMemory s t ∧ t.beaconLost = true ∧
      ∀ n x, s.number? n = some x → x.state ≠ .done → Num t n (fun y => y.state = .done ∧ y.reason = 4)))

/-- R327, R361, R362, R364 to R371, R380: what the scrub, the ports' lanes and the HBM interfaces do. -/
def Obligations.LinkEvents : Prop := Scrubs ∧ PortLinks ∧ HbmLinks

/-- R11, R389 to R393: package reset, firmware images, security versions, attestation, and the writes of the keeper's
registers bit by bit: a written bit, a bit that one clears, or a bit that a write leaves; the registers that are only written read
zero. The model's choices: device memory reads zero after a reset (log 8); host memory, the fused versions and the count of boots
outlast it (log 45); a report's bytes as they are signed (log 7). -/
def Obligations.KeeperEvents : Prop :=
  ∀ s : State,
    Goes .packageReset s (fun t => t.hbm = [] ∧ t.host = s.host ∧ t.bands = [] ∧ t.ctxs = [] ∧ t.parts = [] ∧ t.tags = [] ∧
      t.boot.boots = s.boot.boots + 1 ∧ t.boot.svns = s.boot.svns ∧ (s.boot.stored = [] → ∀ r, t.kget r = r.reset)) ∧
    (∀ (kind : Nat) (header payload : List Byte), s.keeperUp = true → 1 ≤ kind → kind ≤ 4 →
      (fld (s.kget .bootst) 63 63 = 1 ∨ kind = s.boot.images.length + 1) →
      (s.imageFails kind header payload = 0 → Goes (.firmwareImageLoad kind header payload) s (fun t => SameMemory s t ∧
        SMap.find? t.boot.stored kind = some (Image.of header payload) ∧
        (kind = 1 → fld (s.kget .bootst) 63 63 = 0 → ∃ a, t.boot.attest = some a ∧ a.draw = s.freeCtr ∧
          a.ecdsa = signEcdsa (Config.derive Config.deviceSecret false) (s.freeCtr + 2) (Attest.publics s.freeCtr)))) ∧
      (s.imageFails kind header payload ≠ 0 → Goes (.firmwareImageLoad kind header payload) s (fun t => SameMemory s t ∧
        t.boot = s.boot ∧ fld (t.kget .bootst) 39 32 = kind ∧ fld (t.kget .bootst) 7 0 = s.imageFails kind header payload))) ∧
    (∀ kind svn, s.keeperUp = true → 1 ≤ kind → kind ≤ 4 → fld (s.kget .bootst) 63 63 = 1 → s.svnOf kind < svn →
      Goes (.svnRaise kind svn) s (fun t => SameMemory s t ∧ t.svnOf kind = svn ∧ ∀ k, k ≠ kind → t.svnOf k = s.svnOf k)) ∧
    (∀ nonce a, nonce.length = 32 → s.keeperUp = true → s.boot.attest = some a →
      (s.boot.reports < 32768 → s.boot.boots ≤ 2 ^ 20 → Goes (.attestationRequest nonce) s (fun t => SameMemory s t ∧
        t.boot.reports = s.boot.reports + 1 ∧ ∃ r, t.boot.answer = some (some r) ∧ r.nonce = nonce ∧ r.loaded = s.boot.images ∧
          r.boots = s.boot.boots ∧ r.ecdsa = signEcdsa (Config.draw a.draw) s.freeCtr r.body ∧
          r.lms = signLms (lmsKey 15 (Config.draw (a.draw + 1))) s.boot.reports (s.freeCtr + 1) r.body)) ∧
      (32768 ≤ s.boot.reports → Goes (.attestationRequest nonce) s (fun t => SameMemory s t ∧ t.boot.answer = some none))) ∧
    ((∀ die k, s.keeperRead (.xlcmd die k) = 0) ∧ ∀ k, s.keeperRead (.palloc k) = 0) ∧
    (∀ (r : KReg) (v : W64), KReg.special r = false → r.present = true → s.keeperUp = true →
      Goes (.keeperRegisterWrite r v) s (fun t => SameMemory s t ∧ (∀ x, x ≠ r → t.kget x = s.kget x) ∧
        ∀ k, k < 64 → (t.kget r).getLsbD k = if r.rw.getLsbD k then v.getLsbD k
          else (s.kget r).getLsbD k && !(r.w1c.getLsbD k && v.getLsbD k))) ∧
    (∀ v : W64, s.keeperUp = true → Goes (.keeperRegisterWrite .pwrlim v) s (fun t => SameMemory s t ∧
      fld (t.kget .pwrlim) 63 48 = clampTo 600 2400 (fld v 63 48) ∧ fld (t.kget .pwrlim) 47 32 = clampTo 1000 5000 (fld v 47 32) ∧
      fld (t.kget .pwrlim) 23 16 = fld v 23 16))

/-- R394, R395: the power controller steps the arithmetic clock down over a limit of power or of current and up after 100 µs well below
both, halves it at a step of current, and the three thermal thresholds warn, throttle and shut the core rails down. The model's choices
(log 34): it rises again at every further tick, a step of current halves the clock of the moment, and a tick leaves a clock at or below
700 MHz as it is. -/
def Obligations.PowerEvents : Prop :=
  ∀ s : State, s.powerOff = false →
    (∀ (pavg iavg : Nat) (tj : List Nat), s.powerAt + 1000 ≤ s.now → tj.length = 4 → (∀ d, d < 4 → tj.getD d 0 ≤ s.tj d) →
      (s.plimit < pavg ∨ s.ilimit < iavg → Goes (.powerControlTick pavg iavg tj) s (fun t => t.hbm = s.hbm ∧
        t.powerAt = s.powerAt + 1000 ∧ t.fclk = if s.fclk ≤ 700 then s.fclk else max 700 (s.fclk - 100))) ∧
      (∀ at_, 100 * pavg < 95 * s.plimit → 100 * iavg < 95 * s.ilimit → s.hot = [] → (∀ d, d < 4 → tj.getD d 0 < s.tThr d) →
        s.coolSince = some at_ → at_ + 100000 ≤ s.now →
        Goes (.powerControlTick pavg iavg tj) s (fun t => t.hbm = s.hbm ∧ t.fclk = min 1400 (s.fclk + 100)))) ∧
    (∀ amps, 5000 < amps → Goes (.currentStep amps) s (fun t => t.hbm = s.hbm ∧ t.fclk = s.fclk / 2)) ∧
    (∀ die tj, die < 4 → tj < 256 →
      (s.tj die < s.tWarn die → s.tWarn die ≤ tj → Goes (.thermalWarn die tj) s (fun t => t.hbm = s.hbm ∧ t.tj die = tj)) ∧
      (s.tThr die ≤ tj → die ∉ s.hot → Goes (.thermalThrottle die tj) s (fun t => t.hbm = s.hbm ∧ t.tj die = tj ∧ die ∈ t.hot)) ∧
      (s.tCrit die ≤ tj → Goes (.thermalShutdown die tj) s (fun t => t.hbm = s.hbm ∧ t.powerOff = true ∧ ∀ c, t.ctx? c = none)))

/-- The worked encodings of R36, R48, R42, R120, R199, R207, R222, R242, R266, R270, R297 and R342 decode to what they stand
for; the changes that R36 calls reserved are refused: a route on FADD's C, a destination under nwb, sources of a pair in one
bank, and the opcode 0x1FE. -/
def Obligations.DecodeWords : Prop :=
  (∀ e ∈ worked, decodeWords e.1 = .ok e.2 e.1.length) ∧
    ∀ w ∈ [0x1001_0020_1901_F281, 0x1001_2020_1901_E281, 0x8008_04F1_241A_00A0, 0x7F80_0000_0000_0000],
      ∃ r d, decodeWords [w] = .bad r d

/-- A slot's turn: the weft it serves stands at a word whose bytes the decoder reads as an instruction, and step is that
instruction; where the decoder refuses the word, step is the trap of group 1 in every lane of the bundle (R36). A turn that
names an event is that event, one that names a time lets it pass, and one that names a chance lets the machine meet it. With no turn
named, a step is the first pending event that goes on, else the first slot that can issue, else a microsecond passes. That `turns`
says who moves next, and the order without it, are the model's choices (log 2). -/
def Obligations.StepRunsDecoded : Prop :=
  ∀ (s : State) (rest : List Turn),
    let s1 : State := { s with turns := rest, stalled := false, inPlace := false }
    (∀ e, s.turns = .event e :: rest → step s = exec e s1) ∧
    (∀ ns, s.turns = .wait ns :: rest → step s = .next { s1 with now := s.now + ns }) ∧
    (∀ c, s.turns = .chance c :: rest → step s = .next (s1.chance c)) ∧
    (s.turns = [] →
      let s0 : State := { s with stalled := false, inPlace := false }
      let idle := ∀ f ∈ s0.pending, moved (f s0) = false ∨ ∀ t, f s0 ≠ .next t
      (∀ before f after, s0.pending = before ++ f :: after → (∀ g ∈ before, moved (g s0) = false ∨ ∀ t, g s0 ≠ .next t) →
        (∃ t, f s0 = .next t ∧ t.stalled = false) → step s = f s0) ∧
      (idle → ∀ before x after o, s0.activeSlots = before ++ x :: after →
        (∀ y ∈ before, s0.slotTurn exec State.prioOf y.1 y.2 = none) → s0.slotTurn exec State.prioOf x.1 x.2 = some o → step s = o) ∧
      (idle → (∀ y ∈ s0.activeSlots, s0.slotTurn exec State.prioOf y.1 y.2 = none) →
        step s = .next { s0 with now := s.now + 1000 })) ∧
    ∀ (c k b i : Nat) (bd : Band) (w : Weft) (ws : List Nat),
      let s2 : State := { s1.wake b i with cur := some (b, i) }
      s.turns = .slot c k :: rest → s.servingOn c k = some (b, i) → s2.band? b = some bd → s2.weft? b i = some w →
      bd.state = .resident → bd.save = none → bd.stopped = false → w.retired = false → w.frozen = false → w.stop = none →
      w.spent = false → w.reform = false → w.bundle ≠ 0 → (w.seq = 0 ∨ w.issued < 4 ∧ w.catchUp = false) → s2.fetch bd w w.pc = .words ws →
      (∀ x n, decodeWords ws = .ok x n → moved (exec x s2) = true → step s = exec x s2) ∧
      (∀ r d, decodeWords ws = .bad r d → step s = .next (s2.trapAll b i bd w [] ⟨1, r, d, false⟩))

/-- R393: right after reset no register but at its reset value, no band, context, partition, launch, channel or communicator,
and memory, which is in its canonical form, lists nothing. The reset values that the spec does not give are the model's (log
11), and so is what unlisted memory reads as (log 8). -/
def Obligations.ResetState : Prop :=
  MemoryWf State.reset ∧ (∀ r, State.reset.kget r = r.reset) ∧ (∀ p a, Mem.get (State.reset.mem p) a = 0) ∧
    (∀ b, State.reset.band? b = none) ∧ (∀ c, State.reset.ctx? c = none) ∧ (∀ p, State.reset.part? p = none) ∧
    (∀ k, SMap.find? State.reset.launches k = none) ∧ (∀ n, State.reset.chan n = Channel.free) ∧
    (∀ c, State.reset.core c = Core.idle) ∧ (∀ k, SMap.find? State.reset.comms k = none) ∧
    (∀ k b r c, State.reset.rowTag k c b r = 31)

/-- R16 to R49: decoding the words of a well-formed instruction gives it back, with all its words read. -/
def Obligations.RoundTrip : Prop :=
  ∀ i : Instr, WellFormed i = true → encode i ≠ [] → decodeWords (encode i) = .ok i (encode i).length

/-- R16 to R49: what the decoder reads is well formed, and its words are the ones that were read: no word but one stands for an
instruction. -/
def Obligations.OneMeaning : Prop :=
  ∀ (ws : List Nat) (i : Instr) (n : Nat), (∀ w ∈ ws, w < 2 ^ 64) → decodeWords ws = .ok i n →
    WellFormed i = true ∧ encode i = ws.take n

/-- Every step keeps HBM and host memory in canonical form, which is the model's (log 8). -/
def Obligations.MemoryStaysCanonical : Prop :=
  ∀ s t : State, MemoryWf s → step s = .next t → MemoryWf t

/-- R17, R23, R94, R102, R126: every F3 word goes on to the next word, and changes nothing but its destination in its acting
lanes. -/
def Obligations.LaneWordFrame : Prop :=
  ∀ (op : F3Op) (f : F3) (s : State) (b i : Nat) (bd : Band) (w : Weft),
    op ≠ .racq → op ≠ .rrel → F3.ok op f = true → w.width ≤ 64 → Issues s b i bd w (f3Needs op f none w) → Calm w →
    Goes (instrOfF3 op f) s (fun t => OnlyWeft s t b i ∧
      Now t b i (fun w' => Moved w w' 8 ∧ Frame w w' f.guard (vDsts op f) (pDsts op f) (sDsts op f)))

/-- R93, R94, R96, R102, R259, R260: with no exception enabled an F3 word adds the exceptions of its acting lanes that are not helpers
to sr.flags; with some enabled, a lane that raises one traps with group 5, whose detail names the lowest element that raised one, and
keeps its registers; the others complete. -/
def Obligations.Exceptions : Prop :=
  ∀ r ∈ excRows, ∀ (f : F3) (s : State) (b i : Nat) (bd : Band) (w : Weft), F3.ok r.op f = true → w.width ≤ 64 →
    let all := fun l => (r.exc f w l).foldl (fun a x => a ||| x) 0
    let hit := fun l => all l &&& enables w.flags
    let first := fun l => (r.exc f w l).findIdx (fun x => decide (x &&& enables w.flags ≠ 0)) % 16
    Issues s b i bd w (f3Needs r.op f none w) → w.failed = [] →
    (enables w.flags = 0 → Goes (r.ins f) s (fun t => OnlyWeft s t b i ∧ Now t b i (fun w' =>
      ∀ k, k < 64 → w'.flags.getLsbD k = (w.flags.getLsbD k ||
        (w.nonHelpers (w.act f.guard)).any (fun l => (all l).getLsbD k))))) ∧
    (w.latches = [] → Handled s bd → (∀ l ∈ w.bundleLanes, (w.lane l).group = 0) → w.bundleLanes.length ≤ w.lanes.length →
      Goes (r.ins f) s (fun t => SameMemory s t ∧ Now t b i (fun w' => ∀ l, Acts w f.guard l → l < w.lanes.length →
        if (w.lane l).helper = false ∧ hit l ≠ 0
        then InHandler (w'.lane l) bd.trapEntry
            ⟨5, 0, BitVec.ofNat 96 (r.op.info.opc * 2 ^ 32 + first l * 2 ^ 16 + (all l).toNat * 2 ^ 8 + (hit l).toNat), false⟩
            w.pc w.pc ∧
          ∀ k, w'.vget k l = w.vget k l ∧ (w'.pget k).getLsbD l = (w.pget k).getLsbD l
        else (w'.lane l).pc = (w.lane l).pc + 8 ∧ (w'.lane l).state = (w.lane l).state ∧
          (f.nwb = false → ∀ y ∈ intRows ++ dotRows ++ floatRows ++ specialRows, y.op = r.op →
            w'.vget f.dst.val l = y.at_ f w l))))

/-- R24, R26, R36, R175, R257, R260: a word that a check of groups 7, 3 or 4 refuses changes no register and pushes nothing;
every lane of its bundle, whatever its guard, enters the handler with the check's cause. -/
def Obligations.DecodeTraps : Prop :=
  ∀ (op : F3Op) (f : F3) (s : State) (b i : Nat) (bd : Band) (w : Weft) (c : Cause),
    op ≠ .racq → op ≠ .rrel → s.current = some (b, i, bd, w) → preCheck bd w (f3Needs op f none w) = some c →
    w.latches = [] → Handled s bd → (∀ l ∈ w.bundleLanes, (w.lane l).group = 0) →
    Goes (instrOfF3 op f) s (fun t => SameMemory s t ∧ Now t b i (fun w' => SameRegs w w' ∧ w'.latches = [] ∧
      ∀ l ∈ w.bundleLanes, l < w.lanes.length → InHandler (w'.lane l) bd.trapEntry c w.pc w.pc))

/-- R131: FCLASS writes a word with the one bit of its operand's class, which is below 10, and sets no flag, whatever exceptions
are enabled. -/
def Obligations.FclassWord : Prop :=
  (∀ a, classBit a < 10) ∧
  ∀ (f : F3) (s : State) (b i : Nat) (bd : Band) (w : Weft),
    Issues s b i bd w (f3Needs .fclass f none w) → w.failed = [] →
    Goes (.fclass f) s (fun t => OnlyWeft s t b i ∧ Now t b i (fun w' => Moved w w' 8 ∧ w'.flags = w.flags ∧
      Result32 w w' f.guard f.dst.val f.nwb (fun l => 1#32 <<< classBit ((f3In .fclass f none w).a32 l))))

/-- R153: VOTE writes its predicate in every lane of the bundle whose guard is true, helper lanes included, from the lanes that
contribute; the other lanes keep theirs. Modes 3 to 7, a destination that is not p0 to p6 and a nonzero [22:21] are reserved. -/
def Obligations.VoteWord : Prop :=
  (∀ w, w < 2 ^ 64 → bits w 63 54 = 0x0A2 → (bits w 22 21 ≠ 0 ∨ 3 ≤ bits w 20 18 ∨ 7 ≤ bits w 53 46) →
    ∃ r d, decodeWords [w] = .bad r d) ∧
  ∀ (f : F3) (s : State) (b i : Nat) (bd : Band) (w : Weft), F3.ok .vote f = true →
    Issues s b i bd w (f3Needs .vote f none w) → w.failed = [] →
    let ls := w.nonHelpers (w.act f.guard)
    let p := predOf w f.a
    Goes (.vote f) s (fun t => OnlyWeft s t b i ∧ Now t b i (fun w' => Moved w w' 8 ∧
      (∀ l, Acts w f.guard l → ((w'.pget f.dst.val).getLsbD l = true ↔
        (f.ext.val = 0 → ∀ k ∈ ls, p k = true) ∧ (f.ext.val = 1 → ∃ k ∈ ls, p k = true) ∧
          (f.ext.val = 2 → ∀ k ∈ ls, ∀ j ∈ ls, p k = p j))) ∧
      (∀ l, l < 64 → (w.act f.guard).getLsbD l = false →
        (w'.pget f.dst.val).getLsbD l = (w.pget f.dst.val).getLsbD l)))
end

