-- ==== Sys2Proof/Laws/Sparse.lean ====
section
/-! SUPPORT. What reading a sparse table or memory gives after each of its updates, and that every update keeps the canonical
form. Reading after writing needs no canonical form. -/
namespace Sys2Proof.Machine

variable {α : Type}

theorem SMap.find?_insert (m : SMap α) (k j : Nat) (x : α) :
    SMap.find? (SMap.insert m k x) j = if j = k then some x else SMap.find? m j := by
  induction m with
  | nil => simp [SMap.insert, SMap.find?]
  | cons e m ih =>
    obtain ⟨i, v⟩ := e
    unfold SMap.insert
    split
    · subst i; simp only [SMap.find?]; split <;> rfl
    · split
      · simp only [SMap.find?]
      · simp only [SMap.find?, ih]; split <;> split <;> first | rfl | omega

theorem SMap.find?_insert_self (m : SMap α) (k : Nat) (x : α) : SMap.find? (SMap.insert m k x) k = some x := by
  simp [SMap.find?_insert]

theorem SMap.find?_insert_ne (m : SMap α) {k j : Nat} (x : α) (h : j ≠ k) :
    SMap.find? (SMap.insert m k x) j = SMap.find? m j := by
  simp [SMap.find?_insert, h]

theorem SMap.find?_filter (m : SMap α) (p : Nat → Bool) (j : Nat) :
    SMap.find? (m.filter (fun e => p e.1)) j = if p j then SMap.find? m j else none := by
  induction m with
  | nil => simp [SMap.find?]
  | cons e m ih =>
    obtain ⟨i, v⟩ := e
    by_cases h : p i
    · simp only [List.filter_cons, h, if_true, SMap.find?, ih]
      split
      · subst j; simp [h]
      · rfl
    · have e : ((i, v) :: m).filter (fun e => p e.1) = m.filter (fun e => p e.1) := by simp [h]
      rw [e, ih]
      simp only [SMap.find?]
      by_cases hj : j = i
      · subst j; simp [h]
      · simp [hj]

theorem SMap.find?_erase (m : SMap α) (k j : Nat) :
    SMap.find? (SMap.erase m k) j = if j = k then none else SMap.find? m j := by
  rw [SMap.erase, SMap.find?_filter m (fun i => i != k)]
  by_cases h : j = k <;> simp [h]

theorem SMap.find?_keep (m : SMap α) (p : Nat → Bool) (j : Nat) :
    SMap.find? (SMap.keep m p) j = if p j then SMap.find? m j else none := SMap.find?_filter m p j

theorem SMap.find?_modify (m : SMap α) (k j : Nat) (f : α → α) :
    SMap.find? (SMap.modify m k f) j = if j = k then (SMap.find? m k).map f else SMap.find? m j := by
  unfold SMap.modify
  split
  · rename_i v h; rw [SMap.find?_insert, h]; rfl
  · rename_i h
    split
    · subst j; simp [h]
    · rfl

theorem SMap.get_set [DecidableEq α] (m : SMap α) (d : α) (k j : Nat) (x : α) :
    SMap.get (SMap.set m d k x) d j = if j = k then x else SMap.get m d j := by
  unfold SMap.get SMap.set
  split
  · subst x; rw [SMap.find?_erase]; split <;> simp_all
  · rw [SMap.find?_insert]; split <;> simp_all

theorem SMap.get_set_self [DecidableEq α] (m : SMap α) (d : α) (k : Nat) (x : α) :
    SMap.get (SMap.set m d k x) d k = x := by simp [SMap.get_set]

theorem SMap.get_set_ne [DecidableEq α] (m : SMap α) (d : α) {k j : Nat} (x : α) (h : j ≠ k) :
    SMap.get (SMap.set m d k x) d j = SMap.get m d j := by simp [SMap.get_set, h]

theorem Mem.get_set (m : Mem) (a b : Nat) (x : Byte) : Mem.get (Mem.set m a x) b = if b = a then x else Mem.get m b :=
  SMap.get_set m Mem.unlisted a b x

/-- A byte after a write: the written byte of its place, or what it was. -/
theorem Mem.get_write (bs : List Byte) (m : Mem) (a b : Nat) :
    Mem.get (Mem.write m a bs) b = if a ≤ b ∧ b < a + bs.length then (bs[b - a]?).getD 0 else Mem.get m b := by
  induction bs generalizing m a with
  | nil =>
    rw [Mem.write]
    have : ¬(a ≤ b ∧ b < a + ([] : List Byte).length) := by simp
    rw [if_neg this]
  | cons x xs ih =>
    rw [Mem.write, ih]
    by_cases h : b = a
    · subst b
      rw [if_neg (by omega), if_pos (by simp), Mem.get_set, if_pos rfl]; simp
    · by_cases h2 : a + 1 ≤ b ∧ b < a + 1 + xs.length
      · obtain ⟨k, rfl⟩ : ∃ k, b = a + 1 + k := ⟨b - (a + 1), by omega⟩
        have e : a + 1 + k - a = k + 1 := by omega
        have c : a ≤ a + 1 + k ∧ a + 1 + k < a + (x :: xs).length := by simp; omega
        rw [if_pos h2, if_pos c, e]; simp
      · have c : ¬(a ≤ b ∧ b < a + (x :: xs).length) := by simp; omega
        rw [if_neg h2, if_neg c, Mem.get_set, if_neg h]

theorem Mem.get_clear (m : Mem) (lo hi a : Nat) :
    Mem.get (Mem.clear m lo hi) a = if lo ≤ a ∧ a < hi then 0 else Mem.get m a := by
  unfold Mem.get Mem.clear SMap.get
  rw [SMap.find?_keep]
  by_cases h : lo ≤ a ∧ a < hi
  · rw [if_pos h, if_neg (by simp; omega)]; rfl
  · rw [if_neg h, if_pos (by simp; omega)]

/-! ## The canonical form -/

theorem SMap.risingFrom_mono (m : SMap α) {a b : Nat} (h : a ≤ b) (r : SMap.risingFrom b m = true) :
    SMap.risingFrom a m = true := by
  cases m with
  | nil => rfl
  | cons e m => simp [SMap.risingFrom] at r ⊢; exact ⟨by omega, r.2⟩

theorem SMap.risingFrom_insert (m : SMap α) (b k : Nat) (x : α) (h : b ≤ k) (r : SMap.risingFrom b m = true) :
    SMap.risingFrom b (SMap.insert m k x) = true := by
  induction m generalizing b with
  | nil => simp [SMap.insert, SMap.risingFrom, h]
  | cons e m ih =>
    obtain ⟨j, v⟩ := e
    simp only [SMap.risingFrom, Bool.and_eq_true, decide_eq_true_eq] at r
    unfold SMap.insert
    split
    · subst k; simp [SMap.risingFrom, r.1, r.2]
    · split
      · simp [SMap.risingFrom, h, r.2]; omega
      · simp only [SMap.risingFrom, Bool.and_eq_true, decide_eq_true_eq]
        exact ⟨r.1, ih (j + 1) (by omega) r.2⟩

theorem SMap.risingFrom_filter (m : SMap α) (b : Nat) (p : Nat × α → Bool) (r : SMap.risingFrom b m = true) :
    SMap.risingFrom b (m.filter p) = true := by
  induction m generalizing b with
  | nil => rfl
  | cons e m ih =>
    obtain ⟨j, v⟩ := e
    simp only [SMap.risingFrom, Bool.and_eq_true, decide_eq_true_eq] at r
    rw [List.filter_cons]
    split
    · simp [SMap.risingFrom, r.1, ih _ r.2]
    · exact SMap.risingFrom_mono _ (by omega) (ih _ r.2)

theorem SMap.all_insert (m : SMap α) (k : Nat) (x : α) (p : α → Bool) (h : p x = true)
    (r : m.all (fun e => p e.2) = true) : (SMap.insert m k x).all (fun e => p e.2) = true := by
  induction m with
  | nil => simp [SMap.insert, h]
  | cons e m ih =>
    obtain ⟨j, v⟩ := e
    simp only [List.all_cons, Bool.and_eq_true] at r
    unfold SMap.insert
    split
    · simp [List.all_cons, h, r.2]
    · split
      · simp [List.all_cons, h, r.1, r.2]
      · simp [List.all_cons, r.1, ih r.2]

theorem SMap.wf_set [DecidableEq α] (d : α) (m : SMap α) (k : Nat) (x : α) (h : SMap.wf d m = true) :
    SMap.wf d (SMap.set m d k x) = true := by
  unfold SMap.wf at h ⊢
  rw [Bool.and_eq_true] at h ⊢
  unfold SMap.set
  split
  · refine ⟨SMap.risingFrom_filter _ _ _ h.1, ?_⟩
    rw [List.all_eq_true] at *
    intro e he
    exact h.2 e (List.mem_filter.mp he).1
  · rename_i hx
    exact ⟨SMap.risingFrom_insert _ _ _ _ (Nat.zero_le _) h.1,
      SMap.all_insert _ _ _ (fun v => decide (v ≠ d)) (by simpa using hx) h.2⟩

theorem SMap.wf_keep [DecidableEq α] (d : α) (m : SMap α) (p : Nat → Bool) (h : SMap.wf d m = true) :
    SMap.wf d (SMap.keep m p) = true := by
  unfold SMap.wf at h ⊢
  rw [Bool.and_eq_true] at h ⊢
  refine ⟨SMap.risingFrom_filter _ _ _ h.1, ?_⟩
  rw [List.all_eq_true] at *
  intro e he
  exact h.2 e (List.mem_filter.mp he).1

theorem Mem.wf_nil : Mem.wf [] = true := rfl

theorem Mem.wf_set (m : Mem) (a : Nat) (x : Byte) (h : Mem.wf m = true) : Mem.wf (Mem.set m a x) = true :=
  SMap.wf_set _ _ _ _ h

theorem Mem.wf_write (bs : List Byte) (m : Mem) (a : Nat) (h : Mem.wf m = true) : Mem.wf (Mem.write m a bs) = true := by
  induction bs generalizing m a with
  | nil => exact h
  | cons x xs ih => exact ih _ _ (Mem.wf_set _ _ _ h)

theorem Mem.wf_clear (m : Mem) (lo hi : Nat) (h : Mem.wf m = true) : Mem.wf (Mem.clear m lo hi) = true :=
  SMap.wf_keep _ _ _ h

/-! ## Canonical tables -/

theorem SMap.find?_none_of_rising (m : SMap α) (b k : Nat) (h : k < b) (r : SMap.risingFrom b m = true) :
    SMap.find? m k = none := by
  induction m generalizing b with
  | nil => rfl
  | cons e m ih =>
    obtain ⟨j, v⟩ := e
    simp only [SMap.risingFrom, Bool.and_eq_true, decide_eq_true_eq] at r
    simp only [SMap.find?]
    rw [if_neg (by omega)]
    exact ih (j + 1) (by omega) r.2

theorem Mem.get_unlisted (m : Mem) (a : Nat) (h : SMap.find? m a = none) : Mem.get m a = 0 := by
  simp [Mem.get, SMap.get, h, Mem.unlisted]

end Sys2Proof.Machine
end

