-- ==== Sys2Proof/Laws/State.lean ====
section
/-! SUPPORT. One lemma for each field of the state and each named update of it: what the field is afterwards. -/
namespace Sys2Proof.Machine

@[simp] theorem State.stall_turns (s : State) : (s.stall).turns = s.turns := rfl
@[simp] theorem State.stall_cur (s : State) : (s.stall).cur = s.cur := rfl
@[simp] theorem State.stall_stalled (s : State) : (s.stall).stalled = true := rfl
@[simp] theorem State.stall_inPlace (s : State) : (s.stall).inPlace = s.inPlace := rfl
@[simp] theorem State.stall_clock (s : State) : (s.stall).clock = s.clock := rfl
@[simp] theorem State.stall_stamp (s : State) : (s.stall).stamp = s.stamp := rfl
@[simp] theorem State.stall_freeCtr (s : State) : (s.stall).freeCtr = s.freeCtr := rfl
@[simp] theorem State.stall_now (s : State) : (s.stall).now = s.now := rfl
@[simp] theorem State.stall_cycle (s : State) : (s.stall).cycle = s.cycle := rfl
@[simp] theorem State.stall_cores (s : State) : (s.stall).cores = s.cores := rfl
@[simp] theorem State.stall_bands (s : State) : (s.stall).bands = s.bands := rfl
@[simp] theorem State.stall_gangs (s : State) : (s.stall).gangs = s.gangs := rfl
@[simp] theorem State.stall_ctxs (s : State) : (s.stall).ctxs = s.ctxs := rfl
@[simp] theorem State.stall_parts (s : State) : (s.stall).parts = s.parts := rfl
@[simp] theorem State.stall_launches (s : State) : (s.stall).launches = s.launches := rfl
@[simp] theorem State.stall_lcc (s : State) : (s.stall).lcc = s.lcc := rfl
@[simp] theorem State.stall_kregs (s : State) : (s.stall).kregs = s.kregs := rfl
@[simp] theorem State.stall_hbm (s : State) : (s.stall).hbm = s.hbm := rfl
@[simp] theorem State.stall_host (s : State) : (s.stall).host = s.host := rfl
@[simp] theorem State.stall_hist (s : State) : (s.stall).hist = s.hist := rfl
@[simp] theorem State.stall_cmds (s : State) : (s.stall).cmds = s.cmds := rfl
@[simp] theorem State.stall_reqs (s : State) : (s.stall).reqs = s.reqs := rfl
@[simp] theorem State.stall_buoys (s : State) : (s.stall).buoys = s.buoys := rfl
@[simp] theorem State.stall_xl (s : State) : (s.stall).xl = s.xl := rfl
@[simp] theorem State.stall_ats (s : State) : (s.stall).ats = s.ats := rfl
@[simp] theorem State.stall_atsInvals (s : State) : (s.stall).atsInvals = s.atsInvals := rfl
@[simp] theorem State.stall_accImages (s : State) : (s.stall).accImages = s.accImages := rfl
@[simp] theorem State.stall_tags (s : State) : (s.stall).tags = s.tags := rfl
@[simp] theorem State.stall_spares (s : State) : (s.stall).spares = s.spares := rfl
@[simp] theorem State.stall_poison (s : State) : (s.stall).poison = s.poison := rfl
@[simp] theorem State.stall_sinceC3 (s : State) : (s.stall).sinceC3 = s.sinceC3 := rfl
@[simp] theorem State.stall_hbmIf (s : State) : (s.stall).hbmIf = s.hbmIf := rfl
@[simp] theorem State.stall_ports (s : State) : (s.stall).ports = s.ports := rfl
@[simp] theorem State.stall_chans (s : State) : (s.stall).chans = s.chans := rfl
@[simp] theorem State.stall_comms (s : State) : (s.stall).comms = s.comms := rfl
@[simp] theorem State.stall_numbers (s : State) : (s.stall).numbers = s.numbers := rfl
@[simp] theorem State.stall_lastNumber (s : State) : (s.stall).lastNumber = s.lastNumber := rfl
@[simp] theorem State.stall_cancels (s : State) : (s.stall).cancels = s.cancels := rfl
@[simp] theorem State.stall_promoted (s : State) : (s.stall).promoted = s.promoted := rfl
@[simp] theorem State.stall_beaconLost (s : State) : (s.stall).beaconLost = s.beaconLost := rfl
@[simp] theorem State.stall_standbyUp (s : State) : (s.stall).standbyUp = s.standbyUp := rfl
@[simp] theorem State.stall_heartbeatAt (s : State) : (s.stall).heartbeatAt = s.heartbeatAt := rfl
@[simp] theorem State.stall_raiseOff (s : State) : (s.stall).raiseOff = s.raiseOff := rfl
@[simp] theorem State.stall_powerAt (s : State) : (s.stall).powerAt = s.powerAt := rfl
@[simp] theorem State.stall_hot (s : State) : (s.stall).hot = s.hot := rfl
@[simp] theorem State.stall_overLimit (s : State) : (s.stall).overLimit = s.overLimit := rfl
@[simp] theorem State.stall_coolSince (s : State) : (s.stall).coolSince = s.coolSince := rfl
@[simp] theorem State.stall_accel (s : State) : (s.stall).accel = s.accel := rfl
@[simp] theorem State.stall_boot (s : State) : (s.stall).boot = s.boot := rfl
@[simp] theorem State.stall_powerOff (s : State) : (s.stall).powerOff = s.powerOff := rfl
@[simp] theorem State.stall_hostStatus (s : State) : (s.stall).hostStatus = s.hostStatus := rfl
@[simp] theorem State.stall_mcast (s : State) : (s.stall).mcast = s.mcast := rfl
@[simp] theorem State.stall_flaws (s : State) : (s.stall).flaws = s.flaws := rfl
@[simp] theorem State.stall_dead (s : State) : (s.stall).dead = s.dead := rfl

@[simp] theorem State.hold_turns (s : State) : (s.hold).turns = s.turns := rfl
@[simp] theorem State.hold_cur (s : State) : (s.hold).cur = s.cur := rfl
@[simp] theorem State.hold_stalled (s : State) : (s.hold).stalled = true := rfl
@[simp] theorem State.hold_inPlace (s : State) : (s.hold).inPlace = true := rfl
@[simp] theorem State.hold_clock (s : State) : (s.hold).clock = s.clock := rfl
@[simp] theorem State.hold_stamp (s : State) : (s.hold).stamp = s.stamp := rfl
@[simp] theorem State.hold_freeCtr (s : State) : (s.hold).freeCtr = s.freeCtr := rfl
@[simp] theorem State.hold_now (s : State) : (s.hold).now = s.now := rfl
@[simp] theorem State.hold_cycle (s : State) : (s.hold).cycle = s.cycle := rfl
@[simp] theorem State.hold_cores (s : State) : (s.hold).cores = s.cores := rfl
@[simp] theorem State.hold_bands (s : State) : (s.hold).bands = s.bands := rfl
@[simp] theorem State.hold_gangs (s : State) : (s.hold).gangs = s.gangs := rfl
@[simp] theorem State.hold_ctxs (s : State) : (s.hold).ctxs = s.ctxs := rfl
@[simp] theorem State.hold_parts (s : State) : (s.hold).parts = s.parts := rfl
@[simp] theorem State.hold_launches (s : State) : (s.hold).launches = s.launches := rfl
@[simp] theorem State.hold_lcc (s : State) : (s.hold).lcc = s.lcc := rfl
@[simp] theorem State.hold_kregs (s : State) : (s.hold).kregs = s.kregs := rfl
@[simp] theorem State.hold_hbm (s : State) : (s.hold).hbm = s.hbm := rfl
@[simp] theorem State.hold_host (s : State) : (s.hold).host = s.host := rfl
@[simp] theorem State.hold_hist (s : State) : (s.hold).hist = s.hist := rfl
@[simp] theorem State.hold_cmds (s : State) : (s.hold).cmds = s.cmds := rfl
@[simp] theorem State.hold_reqs (s : State) : (s.hold).reqs = s.reqs := rfl
@[simp] theorem State.hold_buoys (s : State) : (s.hold).buoys = s.buoys := rfl
@[simp] theorem State.hold_xl (s : State) : (s.hold).xl = s.xl := rfl
@[simp] theorem State.hold_ats (s : State) : (s.hold).ats = s.ats := rfl
@[simp] theorem State.hold_atsInvals (s : State) : (s.hold).atsInvals = s.atsInvals := rfl
@[simp] theorem State.hold_accImages (s : State) : (s.hold).accImages = s.accImages := rfl
@[simp] theorem State.hold_tags (s : State) : (s.hold).tags = s.tags := rfl
@[simp] theorem State.hold_spares (s : State) : (s.hold).spares = s.spares := rfl
@[simp] theorem State.hold_poison (s : State) : (s.hold).poison = s.poison := rfl
@[simp] theorem State.hold_sinceC3 (s : State) : (s.hold).sinceC3 = s.sinceC3 := rfl
@[simp] theorem State.hold_hbmIf (s : State) : (s.hold).hbmIf = s.hbmIf := rfl
@[simp] theorem State.hold_ports (s : State) : (s.hold).ports = s.ports := rfl
@[simp] theorem State.hold_chans (s : State) : (s.hold).chans = s.chans := rfl
@[simp] theorem State.hold_comms (s : State) : (s.hold).comms = s.comms := rfl
@[simp] theorem State.hold_numbers (s : State) : (s.hold).numbers = s.numbers := rfl
@[simp] theorem State.hold_lastNumber (s : State) : (s.hold).lastNumber = s.lastNumber := rfl
@[simp] theorem State.hold_cancels (s : State) : (s.hold).cancels = s.cancels := rfl
@[simp] theorem State.hold_promoted (s : State) : (s.hold).promoted = s.promoted := rfl
@[simp] theorem State.hold_beaconLost (s : State) : (s.hold).beaconLost = s.beaconLost := rfl
@[simp] theorem State.hold_standbyUp (s : State) : (s.hold).standbyUp = s.standbyUp := rfl
@[simp] theorem State.hold_heartbeatAt (s : State) : (s.hold).heartbeatAt = s.heartbeatAt := rfl
@[simp] theorem State.hold_raiseOff (s : State) : (s.hold).raiseOff = s.raiseOff := rfl
@[simp] theorem State.hold_powerAt (s : State) : (s.hold).powerAt = s.powerAt := rfl
@[simp] theorem State.hold_hot (s : State) : (s.hold).hot = s.hot := rfl
@[simp] theorem State.hold_overLimit (s : State) : (s.hold).overLimit = s.overLimit := rfl
@[simp] theorem State.hold_coolSince (s : State) : (s.hold).coolSince = s.coolSince := rfl
@[simp] theorem State.hold_accel (s : State) : (s.hold).accel = s.accel := rfl
@[simp] theorem State.hold_boot (s : State) : (s.hold).boot = s.boot := rfl
@[simp] theorem State.hold_powerOff (s : State) : (s.hold).powerOff = s.powerOff := rfl
@[simp] theorem State.hold_hostStatus (s : State) : (s.hold).hostStatus = s.hostStatus := rfl
@[simp] theorem State.hold_mcast (s : State) : (s.hold).mcast = s.mcast := rfl
@[simp] theorem State.hold_flaws (s : State) : (s.hold).flaws = s.flaws := rfl
@[simp] theorem State.hold_dead (s : State) : (s.hold).dead = s.dead := rfl

@[simp] theorem State.tick_turns (s : State) : (s.tick).turns = s.turns := rfl
@[simp] theorem State.tick_cur (s : State) : (s.tick).cur = s.cur := rfl
@[simp] theorem State.tick_stalled (s : State) : (s.tick).stalled = s.stalled := rfl
@[simp] theorem State.tick_inPlace (s : State) : (s.tick).inPlace = s.inPlace := rfl
@[simp] theorem State.tick_clock (s : State) : (s.tick).clock = s.clock := rfl
@[simp] theorem State.tick_stamp (s : State) : (s.tick).stamp = s.stamp := rfl
@[simp] theorem State.tick_freeCtr (s : State) : (s.tick).freeCtr = s.freeCtr + 1 := rfl
@[simp] theorem State.tick_now (s : State) : (s.tick).now = s.now := rfl
@[simp] theorem State.tick_cycle (s : State) : (s.tick).cycle = s.cycle := rfl
@[simp] theorem State.tick_cores (s : State) : (s.tick).cores = s.cores := rfl
@[simp] theorem State.tick_bands (s : State) : (s.tick).bands = s.bands := rfl
@[simp] theorem State.tick_gangs (s : State) : (s.tick).gangs = s.gangs := rfl
@[simp] theorem State.tick_ctxs (s : State) : (s.tick).ctxs = s.ctxs := rfl
@[simp] theorem State.tick_parts (s : State) : (s.tick).parts = s.parts := rfl
@[simp] theorem State.tick_launches (s : State) : (s.tick).launches = s.launches := rfl
@[simp] theorem State.tick_lcc (s : State) : (s.tick).lcc = s.lcc := rfl
@[simp] theorem State.tick_kregs (s : State) : (s.tick).kregs = s.kregs := rfl
@[simp] theorem State.tick_hbm (s : State) : (s.tick).hbm = s.hbm := rfl
@[simp] theorem State.tick_host (s : State) : (s.tick).host = s.host := rfl
@[simp] theorem State.tick_hist (s : State) : (s.tick).hist = s.hist := rfl
@[simp] theorem State.tick_cmds (s : State) : (s.tick).cmds = s.cmds := rfl
@[simp] theorem State.tick_reqs (s : State) : (s.tick).reqs = s.reqs := rfl
@[simp] theorem State.tick_buoys (s : State) : (s.tick).buoys = s.buoys := rfl
@[simp] theorem State.tick_xl (s : State) : (s.tick).xl = s.xl := rfl
@[simp] theorem State.tick_ats (s : State) : (s.tick).ats = s.ats := rfl
@[simp] theorem State.tick_atsInvals (s : State) : (s.tick).atsInvals = s.atsInvals := rfl
@[simp] theorem State.tick_accImages (s : State) : (s.tick).accImages = s.accImages := rfl
@[simp] theorem State.tick_tags (s : State) : (s.tick).tags = s.tags := rfl
@[simp] theorem State.tick_spares (s : State) : (s.tick).spares = s.spares := rfl
@[simp] theorem State.tick_poison (s : State) : (s.tick).poison = s.poison := rfl
@[simp] theorem State.tick_sinceC3 (s : State) : (s.tick).sinceC3 = s.sinceC3 := rfl
@[simp] theorem State.tick_hbmIf (s : State) : (s.tick).hbmIf = s.hbmIf := rfl
@[simp] theorem State.tick_ports (s : State) : (s.tick).ports = s.ports := rfl
@[simp] theorem State.tick_chans (s : State) : (s.tick).chans = s.chans := rfl
@[simp] theorem State.tick_comms (s : State) : (s.tick).comms = s.comms := rfl
@[simp] theorem State.tick_numbers (s : State) : (s.tick).numbers = s.numbers := rfl
@[simp] theorem State.tick_lastNumber (s : State) : (s.tick).lastNumber = s.lastNumber := rfl
@[simp] theorem State.tick_cancels (s : State) : (s.tick).cancels = s.cancels := rfl
@[simp] theorem State.tick_promoted (s : State) : (s.tick).promoted = s.promoted := rfl
@[simp] theorem State.tick_beaconLost (s : State) : (s.tick).beaconLost = s.beaconLost := rfl
@[simp] theorem State.tick_standbyUp (s : State) : (s.tick).standbyUp = s.standbyUp := rfl
@[simp] theorem State.tick_heartbeatAt (s : State) : (s.tick).heartbeatAt = s.heartbeatAt := rfl
@[simp] theorem State.tick_raiseOff (s : State) : (s.tick).raiseOff = s.raiseOff := rfl
@[simp] theorem State.tick_powerAt (s : State) : (s.tick).powerAt = s.powerAt := rfl
@[simp] theorem State.tick_hot (s : State) : (s.tick).hot = s.hot := rfl
@[simp] theorem State.tick_overLimit (s : State) : (s.tick).overLimit = s.overLimit := rfl
@[simp] theorem State.tick_coolSince (s : State) : (s.tick).coolSince = s.coolSince := rfl
@[simp] theorem State.tick_accel (s : State) : (s.tick).accel = s.accel := rfl
@[simp] theorem State.tick_boot (s : State) : (s.tick).boot = s.boot := rfl
@[simp] theorem State.tick_powerOff (s : State) : (s.tick).powerOff = s.powerOff := rfl
@[simp] theorem State.tick_hostStatus (s : State) : (s.tick).hostStatus = s.hostStatus := rfl
@[simp] theorem State.tick_mcast (s : State) : (s.tick).mcast = s.mcast := rfl
@[simp] theorem State.tick_flaws (s : State) : (s.tick).flaws = s.flaws := rfl
@[simp] theorem State.tick_dead (s : State) : (s.tick).dead = s.dead := rfl

@[simp] theorem State.nextStamp_turns (s : State) : (s.nextStamp).turns = s.turns := rfl
@[simp] theorem State.nextStamp_cur (s : State) : (s.nextStamp).cur = s.cur := rfl
@[simp] theorem State.nextStamp_stalled (s : State) : (s.nextStamp).stalled = s.stalled := rfl
@[simp] theorem State.nextStamp_inPlace (s : State) : (s.nextStamp).inPlace = s.inPlace := rfl
@[simp] theorem State.nextStamp_clock (s : State) : (s.nextStamp).clock = s.clock := rfl
@[simp] theorem State.nextStamp_stamp (s : State) : (s.nextStamp).stamp = s.stamp + 1 := rfl
@[simp] theorem State.nextStamp_freeCtr (s : State) : (s.nextStamp).freeCtr = s.freeCtr := rfl
@[simp] theorem State.nextStamp_now (s : State) : (s.nextStamp).now = s.now := rfl
@[simp] theorem State.nextStamp_cycle (s : State) : (s.nextStamp).cycle = s.cycle := rfl
@[simp] theorem State.nextStamp_cores (s : State) : (s.nextStamp).cores = s.cores := rfl
@[simp] theorem State.nextStamp_bands (s : State) : (s.nextStamp).bands = s.bands := rfl
@[simp] theorem State.nextStamp_gangs (s : State) : (s.nextStamp).gangs = s.gangs := rfl
@[simp] theorem State.nextStamp_ctxs (s : State) : (s.nextStamp).ctxs = s.ctxs := rfl
@[simp] theorem State.nextStamp_parts (s : State) : (s.nextStamp).parts = s.parts := rfl
@[simp] theorem State.nextStamp_launches (s : State) : (s.nextStamp).launches = s.launches := rfl
@[simp] theorem State.nextStamp_lcc (s : State) : (s.nextStamp).lcc = s.lcc := rfl
@[simp] theorem State.nextStamp_kregs (s : State) : (s.nextStamp).kregs = s.kregs := rfl
@[simp] theorem State.nextStamp_hbm (s : State) : (s.nextStamp).hbm = s.hbm := rfl
@[simp] theorem State.nextStamp_host (s : State) : (s.nextStamp).host = s.host := rfl
@[simp] theorem State.nextStamp_hist (s : State) : (s.nextStamp).hist = s.hist := rfl
@[simp] theorem State.nextStamp_cmds (s : State) : (s.nextStamp).cmds = s.cmds := rfl
@[simp] theorem State.nextStamp_reqs (s : State) : (s.nextStamp).reqs = s.reqs := rfl
@[simp] theorem State.nextStamp_buoys (s : State) : (s.nextStamp).buoys = s.buoys := rfl
@[simp] theorem State.nextStamp_xl (s : State) : (s.nextStamp).xl = s.xl := rfl
@[simp] theorem State.nextStamp_ats (s : State) : (s.nextStamp).ats = s.ats := rfl
@[simp] theorem State.nextStamp_atsInvals (s : State) : (s.nextStamp).atsInvals = s.atsInvals := rfl
@[simp] theorem State.nextStamp_accImages (s : State) : (s.nextStamp).accImages = s.accImages := rfl
@[simp] theorem State.nextStamp_tags (s : State) : (s.nextStamp).tags = s.tags := rfl
@[simp] theorem State.nextStamp_spares (s : State) : (s.nextStamp).spares = s.spares := rfl
@[simp] theorem State.nextStamp_poison (s : State) : (s.nextStamp).poison = s.poison := rfl
@[simp] theorem State.nextStamp_sinceC3 (s : State) : (s.nextStamp).sinceC3 = s.sinceC3 := rfl
@[simp] theorem State.nextStamp_hbmIf (s : State) : (s.nextStamp).hbmIf = s.hbmIf := rfl
@[simp] theorem State.nextStamp_ports (s : State) : (s.nextStamp).ports = s.ports := rfl
@[simp] theorem State.nextStamp_chans (s : State) : (s.nextStamp).chans = s.chans := rfl
@[simp] theorem State.nextStamp_comms (s : State) : (s.nextStamp).comms = s.comms := rfl
@[simp] theorem State.nextStamp_numbers (s : State) : (s.nextStamp).numbers = s.numbers := rfl
@[simp] theorem State.nextStamp_lastNumber (s : State) : (s.nextStamp).lastNumber = s.lastNumber := rfl
@[simp] theorem State.nextStamp_cancels (s : State) : (s.nextStamp).cancels = s.cancels := rfl
@[simp] theorem State.nextStamp_promoted (s : State) : (s.nextStamp).promoted = s.promoted := rfl
@[simp] theorem State.nextStamp_beaconLost (s : State) : (s.nextStamp).beaconLost = s.beaconLost := rfl
@[simp] theorem State.nextStamp_standbyUp (s : State) : (s.nextStamp).standbyUp = s.standbyUp := rfl
@[simp] theorem State.nextStamp_heartbeatAt (s : State) : (s.nextStamp).heartbeatAt = s.heartbeatAt := rfl
@[simp] theorem State.nextStamp_raiseOff (s : State) : (s.nextStamp).raiseOff = s.raiseOff := rfl
@[simp] theorem State.nextStamp_powerAt (s : State) : (s.nextStamp).powerAt = s.powerAt := rfl
@[simp] theorem State.nextStamp_hot (s : State) : (s.nextStamp).hot = s.hot := rfl
@[simp] theorem State.nextStamp_overLimit (s : State) : (s.nextStamp).overLimit = s.overLimit := rfl
@[simp] theorem State.nextStamp_coolSince (s : State) : (s.nextStamp).coolSince = s.coolSince := rfl
@[simp] theorem State.nextStamp_accel (s : State) : (s.nextStamp).accel = s.accel := rfl
@[simp] theorem State.nextStamp_boot (s : State) : (s.nextStamp).boot = s.boot := rfl
@[simp] theorem State.nextStamp_powerOff (s : State) : (s.nextStamp).powerOff = s.powerOff := rfl
@[simp] theorem State.nextStamp_hostStatus (s : State) : (s.nextStamp).hostStatus = s.hostStatus := rfl
@[simp] theorem State.nextStamp_mcast (s : State) : (s.nextStamp).mcast = s.mcast := rfl
@[simp] theorem State.nextStamp_flaws (s : State) : (s.nextStamp).flaws = s.flaws := rfl
@[simp] theorem State.nextStamp_dead (s : State) : (s.nextStamp).dead = s.dead := rfl

@[simp] theorem State.instant_turns (s : State) : (s.instant).turns = s.turns := rfl
@[simp] theorem State.instant_cur (s : State) : (s.instant).cur = s.cur := rfl
@[simp] theorem State.instant_stalled (s : State) : (s.instant).stalled = s.stalled := rfl
@[simp] theorem State.instant_inPlace (s : State) : (s.instant).inPlace = s.inPlace := rfl
@[simp] theorem State.instant_clock (s : State) : (s.instant).clock = s.clock + 1 := rfl
@[simp] theorem State.instant_stamp (s : State) : (s.instant).stamp = s.stamp := rfl
@[simp] theorem State.instant_freeCtr (s : State) : (s.instant).freeCtr = s.freeCtr := rfl
@[simp] theorem State.instant_now (s : State) : (s.instant).now = s.now := rfl
@[simp] theorem State.instant_cycle (s : State) : (s.instant).cycle = s.cycle := rfl
@[simp] theorem State.instant_cores (s : State) : (s.instant).cores = s.cores := rfl
@[simp] theorem State.instant_bands (s : State) : (s.instant).bands = s.bands := rfl
@[simp] theorem State.instant_gangs (s : State) : (s.instant).gangs = s.gangs := rfl
@[simp] theorem State.instant_ctxs (s : State) : (s.instant).ctxs = s.ctxs := rfl
@[simp] theorem State.instant_parts (s : State) : (s.instant).parts = s.parts := rfl
@[simp] theorem State.instant_launches (s : State) : (s.instant).launches = s.launches := rfl
@[simp] theorem State.instant_lcc (s : State) : (s.instant).lcc = s.lcc := rfl
@[simp] theorem State.instant_kregs (s : State) : (s.instant).kregs = s.kregs := rfl
@[simp] theorem State.instant_hbm (s : State) : (s.instant).hbm = s.hbm := rfl
@[simp] theorem State.instant_host (s : State) : (s.instant).host = s.host := rfl
@[simp] theorem State.instant_hist (s : State) : (s.instant).hist = s.hist := rfl
@[simp] theorem State.instant_cmds (s : State) : (s.instant).cmds = s.cmds := rfl
@[simp] theorem State.instant_reqs (s : State) : (s.instant).reqs = s.reqs := rfl
@[simp] theorem State.instant_buoys (s : State) : (s.instant).buoys = s.buoys := rfl
@[simp] theorem State.instant_xl (s : State) : (s.instant).xl = s.xl := rfl
@[simp] theorem State.instant_ats (s : State) : (s.instant).ats = s.ats := rfl
@[simp] theorem State.instant_atsInvals (s : State) : (s.instant).atsInvals = s.atsInvals := rfl
@[simp] theorem State.instant_accImages (s : State) : (s.instant).accImages = s.accImages := rfl
@[simp] theorem State.instant_tags (s : State) : (s.instant).tags = s.tags := rfl
@[simp] theorem State.instant_spares (s : State) : (s.instant).spares = s.spares := rfl
@[simp] theorem State.instant_poison (s : State) : (s.instant).poison = s.poison := rfl
@[simp] theorem State.instant_sinceC3 (s : State) : (s.instant).sinceC3 = s.sinceC3 := rfl
@[simp] theorem State.instant_hbmIf (s : State) : (s.instant).hbmIf = s.hbmIf := rfl
@[simp] theorem State.instant_ports (s : State) : (s.instant).ports = s.ports := rfl
@[simp] theorem State.instant_chans (s : State) : (s.instant).chans = s.chans := rfl
@[simp] theorem State.instant_comms (s : State) : (s.instant).comms = s.comms := rfl
@[simp] theorem State.instant_numbers (s : State) : (s.instant).numbers = s.numbers := rfl
@[simp] theorem State.instant_lastNumber (s : State) : (s.instant).lastNumber = s.lastNumber := rfl
@[simp] theorem State.instant_cancels (s : State) : (s.instant).cancels = s.cancels := rfl
@[simp] theorem State.instant_promoted (s : State) : (s.instant).promoted = s.promoted := rfl
@[simp] theorem State.instant_beaconLost (s : State) : (s.instant).beaconLost = s.beaconLost := rfl
@[simp] theorem State.instant_standbyUp (s : State) : (s.instant).standbyUp = s.standbyUp := rfl
@[simp] theorem State.instant_heartbeatAt (s : State) : (s.instant).heartbeatAt = s.heartbeatAt := rfl
@[simp] theorem State.instant_raiseOff (s : State) : (s.instant).raiseOff = s.raiseOff := rfl
@[simp] theorem State.instant_powerAt (s : State) : (s.instant).powerAt = s.powerAt := rfl
@[simp] theorem State.instant_hot (s : State) : (s.instant).hot = s.hot := rfl
@[simp] theorem State.instant_overLimit (s : State) : (s.instant).overLimit = s.overLimit := rfl
@[simp] theorem State.instant_coolSince (s : State) : (s.instant).coolSince = s.coolSince := rfl
@[simp] theorem State.instant_accel (s : State) : (s.instant).accel = s.accel := rfl
@[simp] theorem State.instant_boot (s : State) : (s.instant).boot = s.boot := rfl
@[simp] theorem State.instant_powerOff (s : State) : (s.instant).powerOff = s.powerOff := rfl
@[simp] theorem State.instant_hostStatus (s : State) : (s.instant).hostStatus = s.hostStatus := rfl
@[simp] theorem State.instant_mcast (s : State) : (s.instant).mcast = s.mcast := rfl
@[simp] theorem State.instant_flaws (s : State) : (s.instant).flaws = s.flaws := rfl
@[simp] theorem State.instant_dead (s : State) : (s.instant).dead = s.dead := rfl

@[simp] theorem State.modBand_turns (s : State) (b : Nat) (f : Band → Band) : (s.modBand b f).turns = s.turns := rfl
@[simp] theorem State.modBand_cur (s : State) (b : Nat) (f : Band → Band) : (s.modBand b f).cur = s.cur := rfl
@[simp] theorem State.modBand_stalled (s : State) (b : Nat) (f : Band → Band) : (s.modBand b f).stalled = s.stalled := rfl
@[simp] theorem State.modBand_inPlace (s : State) (b : Nat) (f : Band → Band) : (s.modBand b f).inPlace = s.inPlace := rfl
@[simp] theorem State.modBand_clock (s : State) (b : Nat) (f : Band → Band) : (s.modBand b f).clock = s.clock := rfl
@[simp] theorem State.modBand_stamp (s : State) (b : Nat) (f : Band → Band) : (s.modBand b f).stamp = s.stamp := rfl
@[simp] theorem State.modBand_freeCtr (s : State) (b : Nat) (f : Band → Band) : (s.modBand b f).freeCtr = s.freeCtr := rfl
@[simp] theorem State.modBand_now (s : State) (b : Nat) (f : Band → Band) : (s.modBand b f).now = s.now := rfl
@[simp] theorem State.modBand_cycle (s : State) (b : Nat) (f : Band → Band) : (s.modBand b f).cycle = s.cycle := rfl
@[simp] theorem State.modBand_cores (s : State) (b : Nat) (f : Band → Band) : (s.modBand b f).cores = s.cores := rfl
@[simp] theorem State.modBand_bands (s : State) (b : Nat) (f : Band → Band) : (s.modBand b f).bands = SMap.modify s.bands b f := rfl
@[simp] theorem State.modBand_gangs (s : State) (b : Nat) (f : Band → Band) : (s.modBand b f).gangs = s.gangs := rfl
@[simp] theorem State.modBand_ctxs (s : State) (b : Nat) (f : Band → Band) : (s.modBand b f).ctxs = s.ctxs := rfl
@[simp] theorem State.modBand_parts (s : State) (b : Nat) (f : Band → Band) : (s.modBand b f).parts = s.parts := rfl
@[simp] theorem State.modBand_launches (s : State) (b : Nat) (f : Band → Band) : (s.modBand b f).launches = s.launches := rfl
@[simp] theorem State.modBand_lcc (s : State) (b : Nat) (f : Band → Band) : (s.modBand b f).lcc = s.lcc := rfl
@[simp] theorem State.modBand_kregs (s : State) (b : Nat) (f : Band → Band) : (s.modBand b f).kregs = s.kregs := rfl
@[simp] theorem State.modBand_hbm (s : State) (b : Nat) (f : Band → Band) : (s.modBand b f).hbm = s.hbm := rfl
@[simp] theorem State.modBand_host (s : State) (b : Nat) (f : Band → Band) : (s.modBand b f).host = s.host := rfl
@[simp] theorem State.modBand_hist (s : State) (b : Nat) (f : Band → Band) : (s.modBand b f).hist = s.hist := rfl
@[simp] theorem State.modBand_cmds (s : State) (b : Nat) (f : Band → Band) : (s.modBand b f).cmds = s.cmds := rfl
@[simp] theorem State.modBand_reqs (s : State) (b : Nat) (f : Band → Band) : (s.modBand b f).reqs = s.reqs := rfl
@[simp] theorem State.modBand_buoys (s : State) (b : Nat) (f : Band → Band) : (s.modBand b f).buoys = s.buoys := rfl
@[simp] theorem State.modBand_xl (s : State) (b : Nat) (f : Band → Band) : (s.modBand b f).xl = s.xl := rfl
@[simp] theorem State.modBand_ats (s : State) (b : Nat) (f : Band → Band) : (s.modBand b f).ats = s.ats := rfl
@[simp] theorem State.modBand_atsInvals (s : State) (b : Nat) (f : Band → Band) : (s.modBand b f).atsInvals = s.atsInvals := rfl
@[simp] theorem State.modBand_accImages (s : State) (b : Nat) (f : Band → Band) : (s.modBand b f).accImages = s.accImages := rfl
@[simp] theorem State.modBand_tags (s : State) (b : Nat) (f : Band → Band) : (s.modBand b f).tags = s.tags := rfl
@[simp] theorem State.modBand_spares (s : State) (b : Nat) (f : Band → Band) : (s.modBand b f).spares = s.spares := rfl
@[simp] theorem State.modBand_poison (s : State) (b : Nat) (f : Band → Band) : (s.modBand b f).poison = s.poison := rfl
@[simp] theorem State.modBand_sinceC3 (s : State) (b : Nat) (f : Band → Band) : (s.modBand b f).sinceC3 = s.sinceC3 := rfl
@[simp] theorem State.modBand_hbmIf (s : State) (b : Nat) (f : Band → Band) : (s.modBand b f).hbmIf = s.hbmIf := rfl
@[simp] theorem State.modBand_ports (s : State) (b : Nat) (f : Band → Band) : (s.modBand b f).ports = s.ports := rfl
@[simp] theorem State.modBand_chans (s : State) (b : Nat) (f : Band → Band) : (s.modBand b f).chans = s.chans := rfl
@[simp] theorem State.modBand_comms (s : State) (b : Nat) (f : Band → Band) : (s.modBand b f).comms = s.comms := rfl
@[simp] theorem State.modBand_numbers (s : State) (b : Nat) (f : Band → Band) : (s.modBand b f).numbers = s.numbers := rfl
@[simp] theorem State.modBand_lastNumber (s : State) (b : Nat) (f : Band → Band) : (s.modBand b f).lastNumber = s.lastNumber := rfl
@[simp] theorem State.modBand_cancels (s : State) (b : Nat) (f : Band → Band) : (s.modBand b f).cancels = s.cancels := rfl
@[simp] theorem State.modBand_promoted (s : State) (b : Nat) (f : Band → Band) : (s.modBand b f).promoted = s.promoted := rfl
@[simp] theorem State.modBand_beaconLost (s : State) (b : Nat) (f : Band → Band) : (s.modBand b f).beaconLost = s.beaconLost := rfl
@[simp] theorem State.modBand_standbyUp (s : State) (b : Nat) (f : Band → Band) : (s.modBand b f).standbyUp = s.standbyUp := rfl
@[simp] theorem State.modBand_heartbeatAt (s : State) (b : Nat) (f : Band → Band) : (s.modBand b f).heartbeatAt = s.heartbeatAt := rfl
@[simp] theorem State.modBand_raiseOff (s : State) (b : Nat) (f : Band → Band) : (s.modBand b f).raiseOff = s.raiseOff := rfl
@[simp] theorem State.modBand_powerAt (s : State) (b : Nat) (f : Band → Band) : (s.modBand b f).powerAt = s.powerAt := rfl
@[simp] theorem State.modBand_hot (s : State) (b : Nat) (f : Band → Band) : (s.modBand b f).hot = s.hot := rfl
@[simp] theorem State.modBand_overLimit (s : State) (b : Nat) (f : Band → Band) : (s.modBand b f).overLimit = s.overLimit := rfl
@[simp] theorem State.modBand_coolSince (s : State) (b : Nat) (f : Band → Band) : (s.modBand b f).coolSince = s.coolSince := rfl
@[simp] theorem State.modBand_accel (s : State) (b : Nat) (f : Band → Band) : (s.modBand b f).accel = s.accel := rfl
@[simp] theorem State.modBand_boot (s : State) (b : Nat) (f : Band → Band) : (s.modBand b f).boot = s.boot := rfl
@[simp] theorem State.modBand_powerOff (s : State) (b : Nat) (f : Band → Band) : (s.modBand b f).powerOff = s.powerOff := rfl
@[simp] theorem State.modBand_hostStatus (s : State) (b : Nat) (f : Band → Band) : (s.modBand b f).hostStatus = s.hostStatus := rfl
@[simp] theorem State.modBand_mcast (s : State) (b : Nat) (f : Band → Band) : (s.modBand b f).mcast = s.mcast := rfl
@[simp] theorem State.modBand_flaws (s : State) (b : Nat) (f : Band → Band) : (s.modBand b f).flaws = s.flaws := rfl
@[simp] theorem State.modBand_dead (s : State) (b : Nat) (f : Band → Band) : (s.modBand b f).dead = s.dead := rfl

@[simp] theorem State.modWeft_turns (s : State) (b i : Nat) (f : Weft → Weft) : (s.modWeft b i f).turns = s.turns := rfl
@[simp] theorem State.modWeft_cur (s : State) (b i : Nat) (f : Weft → Weft) : (s.modWeft b i f).cur = s.cur := rfl
@[simp] theorem State.modWeft_stalled (s : State) (b i : Nat) (f : Weft → Weft) : (s.modWeft b i f).stalled = s.stalled := rfl
@[simp] theorem State.modWeft_inPlace (s : State) (b i : Nat) (f : Weft → Weft) : (s.modWeft b i f).inPlace = s.inPlace := rfl
@[simp] theorem State.modWeft_clock (s : State) (b i : Nat) (f : Weft → Weft) : (s.modWeft b i f).clock = s.clock := rfl
@[simp] theorem State.modWeft_stamp (s : State) (b i : Nat) (f : Weft → Weft) : (s.modWeft b i f).stamp = s.stamp := rfl
@[simp] theorem State.modWeft_freeCtr (s : State) (b i : Nat) (f : Weft → Weft) : (s.modWeft b i f).freeCtr = s.freeCtr := rfl
@[simp] theorem State.modWeft_now (s : State) (b i : Nat) (f : Weft → Weft) : (s.modWeft b i f).now = s.now := rfl
@[simp] theorem State.modWeft_cycle (s : State) (b i : Nat) (f : Weft → Weft) : (s.modWeft b i f).cycle = s.cycle := rfl
@[simp] theorem State.modWeft_cores (s : State) (b i : Nat) (f : Weft → Weft) : (s.modWeft b i f).cores = s.cores := rfl
@[simp] theorem State.modWeft_bands (s : State) (b i : Nat) (f : Weft → Weft) : (s.modWeft b i f).bands = SMap.modify s.bands b (fun x => x.modWeft i f) := rfl
@[simp] theorem State.modWeft_gangs (s : State) (b i : Nat) (f : Weft → Weft) : (s.modWeft b i f).gangs = s.gangs := rfl
@[simp] theorem State.modWeft_ctxs (s : State) (b i : Nat) (f : Weft → Weft) : (s.modWeft b i f).ctxs = s.ctxs := rfl
@[simp] theorem State.modWeft_parts (s : State) (b i : Nat) (f : Weft → Weft) : (s.modWeft b i f).parts = s.parts := rfl
@[simp] theorem State.modWeft_launches (s : State) (b i : Nat) (f : Weft → Weft) : (s.modWeft b i f).launches = s.launches := rfl
@[simp] theorem State.modWeft_lcc (s : State) (b i : Nat) (f : Weft → Weft) : (s.modWeft b i f).lcc = s.lcc := rfl
@[simp] theorem State.modWeft_kregs (s : State) (b i : Nat) (f : Weft → Weft) : (s.modWeft b i f).kregs = s.kregs := rfl
@[simp] theorem State.modWeft_hbm (s : State) (b i : Nat) (f : Weft → Weft) : (s.modWeft b i f).hbm = s.hbm := rfl
@[simp] theorem State.modWeft_host (s : State) (b i : Nat) (f : Weft → Weft) : (s.modWeft b i f).host = s.host := rfl
@[simp] theorem State.modWeft_hist (s : State) (b i : Nat) (f : Weft → Weft) : (s.modWeft b i f).hist = s.hist := rfl
@[simp] theorem State.modWeft_cmds (s : State) (b i : Nat) (f : Weft → Weft) : (s.modWeft b i f).cmds = s.cmds := rfl
@[simp] theorem State.modWeft_reqs (s : State) (b i : Nat) (f : Weft → Weft) : (s.modWeft b i f).reqs = s.reqs := rfl
@[simp] theorem State.modWeft_buoys (s : State) (b i : Nat) (f : Weft → Weft) : (s.modWeft b i f).buoys = s.buoys := rfl
@[simp] theorem State.modWeft_xl (s : State) (b i : Nat) (f : Weft → Weft) : (s.modWeft b i f).xl = s.xl := rfl
@[simp] theorem State.modWeft_ats (s : State) (b i : Nat) (f : Weft → Weft) : (s.modWeft b i f).ats = s.ats := rfl
@[simp] theorem State.modWeft_atsInvals (s : State) (b i : Nat) (f : Weft → Weft) : (s.modWeft b i f).atsInvals = s.atsInvals := rfl
@[simp] theorem State.modWeft_accImages (s : State) (b i : Nat) (f : Weft → Weft) : (s.modWeft b i f).accImages = s.accImages := rfl
@[simp] theorem State.modWeft_tags (s : State) (b i : Nat) (f : Weft → Weft) : (s.modWeft b i f).tags = s.tags := rfl
@[simp] theorem State.modWeft_spares (s : State) (b i : Nat) (f : Weft → Weft) : (s.modWeft b i f).spares = s.spares := rfl
@[simp] theorem State.modWeft_poison (s : State) (b i : Nat) (f : Weft → Weft) : (s.modWeft b i f).poison = s.poison := rfl
@[simp] theorem State.modWeft_sinceC3 (s : State) (b i : Nat) (f : Weft → Weft) : (s.modWeft b i f).sinceC3 = s.sinceC3 := rfl
@[simp] theorem State.modWeft_hbmIf (s : State) (b i : Nat) (f : Weft → Weft) : (s.modWeft b i f).hbmIf = s.hbmIf := rfl
@[simp] theorem State.modWeft_ports (s : State) (b i : Nat) (f : Weft → Weft) : (s.modWeft b i f).ports = s.ports := rfl
@[simp] theorem State.modWeft_chans (s : State) (b i : Nat) (f : Weft → Weft) : (s.modWeft b i f).chans = s.chans := rfl
@[simp] theorem State.modWeft_comms (s : State) (b i : Nat) (f : Weft → Weft) : (s.modWeft b i f).comms = s.comms := rfl
@[simp] theorem State.modWeft_numbers (s : State) (b i : Nat) (f : Weft → Weft) : (s.modWeft b i f).numbers = s.numbers := rfl
@[simp] theorem State.modWeft_lastNumber (s : State) (b i : Nat) (f : Weft → Weft) : (s.modWeft b i f).lastNumber = s.lastNumber := rfl
@[simp] theorem State.modWeft_cancels (s : State) (b i : Nat) (f : Weft → Weft) : (s.modWeft b i f).cancels = s.cancels := rfl
@[simp] theorem State.modWeft_promoted (s : State) (b i : Nat) (f : Weft → Weft) : (s.modWeft b i f).promoted = s.promoted := rfl
@[simp] theorem State.modWeft_beaconLost (s : State) (b i : Nat) (f : Weft → Weft) : (s.modWeft b i f).beaconLost = s.beaconLost := rfl
@[simp] theorem State.modWeft_standbyUp (s : State) (b i : Nat) (f : Weft → Weft) : (s.modWeft b i f).standbyUp = s.standbyUp := rfl
@[simp] theorem State.modWeft_heartbeatAt (s : State) (b i : Nat) (f : Weft → Weft) : (s.modWeft b i f).heartbeatAt = s.heartbeatAt := rfl
@[simp] theorem State.modWeft_raiseOff (s : State) (b i : Nat) (f : Weft → Weft) : (s.modWeft b i f).raiseOff = s.raiseOff := rfl
@[simp] theorem State.modWeft_powerAt (s : State) (b i : Nat) (f : Weft → Weft) : (s.modWeft b i f).powerAt = s.powerAt := rfl
@[simp] theorem State.modWeft_hot (s : State) (b i : Nat) (f : Weft → Weft) : (s.modWeft b i f).hot = s.hot := rfl
@[simp] theorem State.modWeft_overLimit (s : State) (b i : Nat) (f : Weft → Weft) : (s.modWeft b i f).overLimit = s.overLimit := rfl
@[simp] theorem State.modWeft_coolSince (s : State) (b i : Nat) (f : Weft → Weft) : (s.modWeft b i f).coolSince = s.coolSince := rfl
@[simp] theorem State.modWeft_accel (s : State) (b i : Nat) (f : Weft → Weft) : (s.modWeft b i f).accel = s.accel := rfl
@[simp] theorem State.modWeft_boot (s : State) (b i : Nat) (f : Weft → Weft) : (s.modWeft b i f).boot = s.boot := rfl
@[simp] theorem State.modWeft_powerOff (s : State) (b i : Nat) (f : Weft → Weft) : (s.modWeft b i f).powerOff = s.powerOff := rfl
@[simp] theorem State.modWeft_hostStatus (s : State) (b i : Nat) (f : Weft → Weft) : (s.modWeft b i f).hostStatus = s.hostStatus := rfl
@[simp] theorem State.modWeft_mcast (s : State) (b i : Nat) (f : Weft → Weft) : (s.modWeft b i f).mcast = s.mcast := rfl
@[simp] theorem State.modWeft_flaws (s : State) (b i : Nat) (f : Weft → Weft) : (s.modWeft b i f).flaws = s.flaws := rfl
@[simp] theorem State.modWeft_dead (s : State) (b i : Nat) (f : Weft → Weft) : (s.modWeft b i f).dead = s.dead := rfl

@[simp] theorem State.modCore_turns (s : State) (c : Nat) (f : Core → Core) : (s.modCore c f).turns = s.turns := rfl
@[simp] theorem State.modCore_cur (s : State) (c : Nat) (f : Core → Core) : (s.modCore c f).cur = s.cur := rfl
@[simp] theorem State.modCore_stalled (s : State) (c : Nat) (f : Core → Core) : (s.modCore c f).stalled = s.stalled := rfl
@[simp] theorem State.modCore_inPlace (s : State) (c : Nat) (f : Core → Core) : (s.modCore c f).inPlace = s.inPlace := rfl
@[simp] theorem State.modCore_clock (s : State) (c : Nat) (f : Core → Core) : (s.modCore c f).clock = s.clock := rfl
@[simp] theorem State.modCore_stamp (s : State) (c : Nat) (f : Core → Core) : (s.modCore c f).stamp = s.stamp := rfl
@[simp] theorem State.modCore_freeCtr (s : State) (c : Nat) (f : Core → Core) : (s.modCore c f).freeCtr = s.freeCtr := rfl
@[simp] theorem State.modCore_now (s : State) (c : Nat) (f : Core → Core) : (s.modCore c f).now = s.now := rfl
@[simp] theorem State.modCore_cycle (s : State) (c : Nat) (f : Core → Core) : (s.modCore c f).cycle = s.cycle := rfl
@[simp] theorem State.modCore_cores (s : State) (c : Nat) (f : Core → Core) : (s.modCore c f).cores = SMap.set s.cores Core.idle c (f (s.core c)) := rfl
@[simp] theorem State.modCore_bands (s : State) (c : Nat) (f : Core → Core) : (s.modCore c f).bands = s.bands := rfl
@[simp] theorem State.modCore_gangs (s : State) (c : Nat) (f : Core → Core) : (s.modCore c f).gangs = s.gangs := rfl
@[simp] theorem State.modCore_ctxs (s : State) (c : Nat) (f : Core → Core) : (s.modCore c f).ctxs = s.ctxs := rfl
@[simp] theorem State.modCore_parts (s : State) (c : Nat) (f : Core → Core) : (s.modCore c f).parts = s.parts := rfl
@[simp] theorem State.modCore_launches (s : State) (c : Nat) (f : Core → Core) : (s.modCore c f).launches = s.launches := rfl
@[simp] theorem State.modCore_lcc (s : State) (c : Nat) (f : Core → Core) : (s.modCore c f).lcc = s.lcc := rfl
@[simp] theorem State.modCore_kregs (s : State) (c : Nat) (f : Core → Core) : (s.modCore c f).kregs = s.kregs := rfl
@[simp] theorem State.modCore_hbm (s : State) (c : Nat) (f : Core → Core) : (s.modCore c f).hbm = s.hbm := rfl
@[simp] theorem State.modCore_host (s : State) (c : Nat) (f : Core → Core) : (s.modCore c f).host = s.host := rfl
@[simp] theorem State.modCore_hist (s : State) (c : Nat) (f : Core → Core) : (s.modCore c f).hist = s.hist := rfl
@[simp] theorem State.modCore_cmds (s : State) (c : Nat) (f : Core → Core) : (s.modCore c f).cmds = s.cmds := rfl
@[simp] theorem State.modCore_reqs (s : State) (c : Nat) (f : Core → Core) : (s.modCore c f).reqs = s.reqs := rfl
@[simp] theorem State.modCore_buoys (s : State) (c : Nat) (f : Core → Core) : (s.modCore c f).buoys = s.buoys := rfl
@[simp] theorem State.modCore_xl (s : State) (c : Nat) (f : Core → Core) : (s.modCore c f).xl = s.xl := rfl
@[simp] theorem State.modCore_ats (s : State) (c : Nat) (f : Core → Core) : (s.modCore c f).ats = s.ats := rfl
@[simp] theorem State.modCore_atsInvals (s : State) (c : Nat) (f : Core → Core) : (s.modCore c f).atsInvals = s.atsInvals := rfl
@[simp] theorem State.modCore_accImages (s : State) (c : Nat) (f : Core → Core) : (s.modCore c f).accImages = s.accImages := rfl
@[simp] theorem State.modCore_tags (s : State) (c : Nat) (f : Core → Core) : (s.modCore c f).tags = s.tags := rfl
@[simp] theorem State.modCore_spares (s : State) (c : Nat) (f : Core → Core) : (s.modCore c f).spares = s.spares := rfl
@[simp] theorem State.modCore_poison (s : State) (c : Nat) (f : Core → Core) : (s.modCore c f).poison = s.poison := rfl
@[simp] theorem State.modCore_sinceC3 (s : State) (c : Nat) (f : Core → Core) : (s.modCore c f).sinceC3 = s.sinceC3 := rfl
@[simp] theorem State.modCore_hbmIf (s : State) (c : Nat) (f : Core → Core) : (s.modCore c f).hbmIf = s.hbmIf := rfl
@[simp] theorem State.modCore_ports (s : State) (c : Nat) (f : Core → Core) : (s.modCore c f).ports = s.ports := rfl
@[simp] theorem State.modCore_chans (s : State) (c : Nat) (f : Core → Core) : (s.modCore c f).chans = s.chans := rfl
@[simp] theorem State.modCore_comms (s : State) (c : Nat) (f : Core → Core) : (s.modCore c f).comms = s.comms := rfl
@[simp] theorem State.modCore_numbers (s : State) (c : Nat) (f : Core → Core) : (s.modCore c f).numbers = s.numbers := rfl
@[simp] theorem State.modCore_lastNumber (s : State) (c : Nat) (f : Core → Core) : (s.modCore c f).lastNumber = s.lastNumber := rfl
@[simp] theorem State.modCore_cancels (s : State) (c : Nat) (f : Core → Core) : (s.modCore c f).cancels = s.cancels := rfl
@[simp] theorem State.modCore_promoted (s : State) (c : Nat) (f : Core → Core) : (s.modCore c f).promoted = s.promoted := rfl
@[simp] theorem State.modCore_beaconLost (s : State) (c : Nat) (f : Core → Core) : (s.modCore c f).beaconLost = s.beaconLost := rfl
@[simp] theorem State.modCore_standbyUp (s : State) (c : Nat) (f : Core → Core) : (s.modCore c f).standbyUp = s.standbyUp := rfl
@[simp] theorem State.modCore_heartbeatAt (s : State) (c : Nat) (f : Core → Core) : (s.modCore c f).heartbeatAt = s.heartbeatAt := rfl
@[simp] theorem State.modCore_raiseOff (s : State) (c : Nat) (f : Core → Core) : (s.modCore c f).raiseOff = s.raiseOff := rfl
@[simp] theorem State.modCore_powerAt (s : State) (c : Nat) (f : Core → Core) : (s.modCore c f).powerAt = s.powerAt := rfl
@[simp] theorem State.modCore_hot (s : State) (c : Nat) (f : Core → Core) : (s.modCore c f).hot = s.hot := rfl
@[simp] theorem State.modCore_overLimit (s : State) (c : Nat) (f : Core → Core) : (s.modCore c f).overLimit = s.overLimit := rfl
@[simp] theorem State.modCore_coolSince (s : State) (c : Nat) (f : Core → Core) : (s.modCore c f).coolSince = s.coolSince := rfl
@[simp] theorem State.modCore_accel (s : State) (c : Nat) (f : Core → Core) : (s.modCore c f).accel = s.accel := rfl
@[simp] theorem State.modCore_boot (s : State) (c : Nat) (f : Core → Core) : (s.modCore c f).boot = s.boot := rfl
@[simp] theorem State.modCore_powerOff (s : State) (c : Nat) (f : Core → Core) : (s.modCore c f).powerOff = s.powerOff := rfl
@[simp] theorem State.modCore_hostStatus (s : State) (c : Nat) (f : Core → Core) : (s.modCore c f).hostStatus = s.hostStatus := rfl
@[simp] theorem State.modCore_mcast (s : State) (c : Nat) (f : Core → Core) : (s.modCore c f).mcast = s.mcast := rfl
@[simp] theorem State.modCore_flaws (s : State) (c : Nat) (f : Core → Core) : (s.modCore c f).flaws = s.flaws := rfl
@[simp] theorem State.modCore_dead (s : State) (c : Nat) (f : Core → Core) : (s.modCore c f).dead = s.dead := rfl

@[simp] theorem State.modCtx_turns (s : State) (c : Nat) (f : Context → Context) : (s.modCtx c f).turns = s.turns := rfl
@[simp] theorem State.modCtx_cur (s : State) (c : Nat) (f : Context → Context) : (s.modCtx c f).cur = s.cur := rfl
@[simp] theorem State.modCtx_stalled (s : State) (c : Nat) (f : Context → Context) : (s.modCtx c f).stalled = s.stalled := rfl
@[simp] theorem State.modCtx_inPlace (s : State) (c : Nat) (f : Context → Context) : (s.modCtx c f).inPlace = s.inPlace := rfl
@[simp] theorem State.modCtx_clock (s : State) (c : Nat) (f : Context → Context) : (s.modCtx c f).clock = s.clock := rfl
@[simp] theorem State.modCtx_stamp (s : State) (c : Nat) (f : Context → Context) : (s.modCtx c f).stamp = s.stamp := rfl
@[simp] theorem State.modCtx_freeCtr (s : State) (c : Nat) (f : Context → Context) : (s.modCtx c f).freeCtr = s.freeCtr := rfl
@[simp] theorem State.modCtx_now (s : State) (c : Nat) (f : Context → Context) : (s.modCtx c f).now = s.now := rfl
@[simp] theorem State.modCtx_cycle (s : State) (c : Nat) (f : Context → Context) : (s.modCtx c f).cycle = s.cycle := rfl
@[simp] theorem State.modCtx_cores (s : State) (c : Nat) (f : Context → Context) : (s.modCtx c f).cores = s.cores := rfl
@[simp] theorem State.modCtx_bands (s : State) (c : Nat) (f : Context → Context) : (s.modCtx c f).bands = s.bands := rfl
@[simp] theorem State.modCtx_gangs (s : State) (c : Nat) (f : Context → Context) : (s.modCtx c f).gangs = s.gangs := rfl
@[simp] theorem State.modCtx_ctxs (s : State) (c : Nat) (f : Context → Context) : (s.modCtx c f).ctxs = SMap.modify s.ctxs c f := rfl
@[simp] theorem State.modCtx_parts (s : State) (c : Nat) (f : Context → Context) : (s.modCtx c f).parts = s.parts := rfl
@[simp] theorem State.modCtx_launches (s : State) (c : Nat) (f : Context → Context) : (s.modCtx c f).launches = s.launches := rfl
@[simp] theorem State.modCtx_lcc (s : State) (c : Nat) (f : Context → Context) : (s.modCtx c f).lcc = s.lcc := rfl
@[simp] theorem State.modCtx_kregs (s : State) (c : Nat) (f : Context → Context) : (s.modCtx c f).kregs = s.kregs := rfl
@[simp] theorem State.modCtx_hbm (s : State) (c : Nat) (f : Context → Context) : (s.modCtx c f).hbm = s.hbm := rfl
@[simp] theorem State.modCtx_host (s : State) (c : Nat) (f : Context → Context) : (s.modCtx c f).host = s.host := rfl
@[simp] theorem State.modCtx_hist (s : State) (c : Nat) (f : Context → Context) : (s.modCtx c f).hist = s.hist := rfl
@[simp] theorem State.modCtx_cmds (s : State) (c : Nat) (f : Context → Context) : (s.modCtx c f).cmds = s.cmds := rfl
@[simp] theorem State.modCtx_reqs (s : State) (c : Nat) (f : Context → Context) : (s.modCtx c f).reqs = s.reqs := rfl
@[simp] theorem State.modCtx_buoys (s : State) (c : Nat) (f : Context → Context) : (s.modCtx c f).buoys = s.buoys := rfl
@[simp] theorem State.modCtx_xl (s : State) (c : Nat) (f : Context → Context) : (s.modCtx c f).xl = s.xl := rfl
@[simp] theorem State.modCtx_ats (s : State) (c : Nat) (f : Context → Context) : (s.modCtx c f).ats = s.ats := rfl
@[simp] theorem State.modCtx_atsInvals (s : State) (c : Nat) (f : Context → Context) : (s.modCtx c f).atsInvals = s.atsInvals := rfl
@[simp] theorem State.modCtx_accImages (s : State) (c : Nat) (f : Context → Context) : (s.modCtx c f).accImages = s.accImages := rfl
@[simp] theorem State.modCtx_tags (s : State) (c : Nat) (f : Context → Context) : (s.modCtx c f).tags = s.tags := rfl
@[simp] theorem State.modCtx_spares (s : State) (c : Nat) (f : Context → Context) : (s.modCtx c f).spares = s.spares := rfl
@[simp] theorem State.modCtx_poison (s : State) (c : Nat) (f : Context → Context) : (s.modCtx c f).poison = s.poison := rfl
@[simp] theorem State.modCtx_sinceC3 (s : State) (c : Nat) (f : Context → Context) : (s.modCtx c f).sinceC3 = s.sinceC3 := rfl
@[simp] theorem State.modCtx_hbmIf (s : State) (c : Nat) (f : Context → Context) : (s.modCtx c f).hbmIf = s.hbmIf := rfl
@[simp] theorem State.modCtx_ports (s : State) (c : Nat) (f : Context → Context) : (s.modCtx c f).ports = s.ports := rfl
@[simp] theorem State.modCtx_chans (s : State) (c : Nat) (f : Context → Context) : (s.modCtx c f).chans = s.chans := rfl
@[simp] theorem State.modCtx_comms (s : State) (c : Nat) (f : Context → Context) : (s.modCtx c f).comms = s.comms := rfl
@[simp] theorem State.modCtx_numbers (s : State) (c : Nat) (f : Context → Context) : (s.modCtx c f).numbers = s.numbers := rfl
@[simp] theorem State.modCtx_lastNumber (s : State) (c : Nat) (f : Context → Context) : (s.modCtx c f).lastNumber = s.lastNumber := rfl
@[simp] theorem State.modCtx_cancels (s : State) (c : Nat) (f : Context → Context) : (s.modCtx c f).cancels = s.cancels := rfl
@[simp] theorem State.modCtx_promoted (s : State) (c : Nat) (f : Context → Context) : (s.modCtx c f).promoted = s.promoted := rfl
@[simp] theorem State.modCtx_beaconLost (s : State) (c : Nat) (f : Context → Context) : (s.modCtx c f).beaconLost = s.beaconLost := rfl
@[simp] theorem State.modCtx_standbyUp (s : State) (c : Nat) (f : Context → Context) : (s.modCtx c f).standbyUp = s.standbyUp := rfl
@[simp] theorem State.modCtx_heartbeatAt (s : State) (c : Nat) (f : Context → Context) : (s.modCtx c f).heartbeatAt = s.heartbeatAt := rfl
@[simp] theorem State.modCtx_raiseOff (s : State) (c : Nat) (f : Context → Context) : (s.modCtx c f).raiseOff = s.raiseOff := rfl
@[simp] theorem State.modCtx_powerAt (s : State) (c : Nat) (f : Context → Context) : (s.modCtx c f).powerAt = s.powerAt := rfl
@[simp] theorem State.modCtx_hot (s : State) (c : Nat) (f : Context → Context) : (s.modCtx c f).hot = s.hot := rfl
@[simp] theorem State.modCtx_overLimit (s : State) (c : Nat) (f : Context → Context) : (s.modCtx c f).overLimit = s.overLimit := rfl
@[simp] theorem State.modCtx_coolSince (s : State) (c : Nat) (f : Context → Context) : (s.modCtx c f).coolSince = s.coolSince := rfl
@[simp] theorem State.modCtx_accel (s : State) (c : Nat) (f : Context → Context) : (s.modCtx c f).accel = s.accel := rfl
@[simp] theorem State.modCtx_boot (s : State) (c : Nat) (f : Context → Context) : (s.modCtx c f).boot = s.boot := rfl
@[simp] theorem State.modCtx_powerOff (s : State) (c : Nat) (f : Context → Context) : (s.modCtx c f).powerOff = s.powerOff := rfl
@[simp] theorem State.modCtx_hostStatus (s : State) (c : Nat) (f : Context → Context) : (s.modCtx c f).hostStatus = s.hostStatus := rfl
@[simp] theorem State.modCtx_mcast (s : State) (c : Nat) (f : Context → Context) : (s.modCtx c f).mcast = s.mcast := rfl
@[simp] theorem State.modCtx_flaws (s : State) (c : Nat) (f : Context → Context) : (s.modCtx c f).flaws = s.flaws := rfl
@[simp] theorem State.modCtx_dead (s : State) (c : Nat) (f : Context → Context) : (s.modCtx c f).dead = s.dead := rfl

@[simp] theorem State.modPart_turns (s : State) (p : Nat) (f : Partition → Partition) : (s.modPart p f).turns = s.turns := rfl
@[simp] theorem State.modPart_cur (s : State) (p : Nat) (f : Partition → Partition) : (s.modPart p f).cur = s.cur := rfl
@[simp] theorem State.modPart_stalled (s : State) (p : Nat) (f : Partition → Partition) : (s.modPart p f).stalled = s.stalled := rfl
@[simp] theorem State.modPart_inPlace (s : State) (p : Nat) (f : Partition → Partition) : (s.modPart p f).inPlace = s.inPlace := rfl
@[simp] theorem State.modPart_clock (s : State) (p : Nat) (f : Partition → Partition) : (s.modPart p f).clock = s.clock := rfl
@[simp] theorem State.modPart_stamp (s : State) (p : Nat) (f : Partition → Partition) : (s.modPart p f).stamp = s.stamp := rfl
@[simp] theorem State.modPart_freeCtr (s : State) (p : Nat) (f : Partition → Partition) : (s.modPart p f).freeCtr = s.freeCtr := rfl
@[simp] theorem State.modPart_now (s : State) (p : Nat) (f : Partition → Partition) : (s.modPart p f).now = s.now := rfl
@[simp] theorem State.modPart_cycle (s : State) (p : Nat) (f : Partition → Partition) : (s.modPart p f).cycle = s.cycle := rfl
@[simp] theorem State.modPart_cores (s : State) (p : Nat) (f : Partition → Partition) : (s.modPart p f).cores = s.cores := rfl
@[simp] theorem State.modPart_bands (s : State) (p : Nat) (f : Partition → Partition) : (s.modPart p f).bands = s.bands := rfl
@[simp] theorem State.modPart_gangs (s : State) (p : Nat) (f : Partition → Partition) : (s.modPart p f).gangs = s.gangs := rfl
@[simp] theorem State.modPart_ctxs (s : State) (p : Nat) (f : Partition → Partition) : (s.modPart p f).ctxs = s.ctxs := rfl
@[simp] theorem State.modPart_parts (s : State) (p : Nat) (f : Partition → Partition) : (s.modPart p f).parts = SMap.modify s.parts p f := rfl
@[simp] theorem State.modPart_launches (s : State) (p : Nat) (f : Partition → Partition) : (s.modPart p f).launches = s.launches := rfl
@[simp] theorem State.modPart_lcc (s : State) (p : Nat) (f : Partition → Partition) : (s.modPart p f).lcc = s.lcc := rfl
@[simp] theorem State.modPart_kregs (s : State) (p : Nat) (f : Partition → Partition) : (s.modPart p f).kregs = s.kregs := rfl
@[simp] theorem State.modPart_hbm (s : State) (p : Nat) (f : Partition → Partition) : (s.modPart p f).hbm = s.hbm := rfl
@[simp] theorem State.modPart_host (s : State) (p : Nat) (f : Partition → Partition) : (s.modPart p f).host = s.host := rfl
@[simp] theorem State.modPart_hist (s : State) (p : Nat) (f : Partition → Partition) : (s.modPart p f).hist = s.hist := rfl
@[simp] theorem State.modPart_cmds (s : State) (p : Nat) (f : Partition → Partition) : (s.modPart p f).cmds = s.cmds := rfl
@[simp] theorem State.modPart_reqs (s : State) (p : Nat) (f : Partition → Partition) : (s.modPart p f).reqs = s.reqs := rfl
@[simp] theorem State.modPart_buoys (s : State) (p : Nat) (f : Partition → Partition) : (s.modPart p f).buoys = s.buoys := rfl
@[simp] theorem State.modPart_xl (s : State) (p : Nat) (f : Partition → Partition) : (s.modPart p f).xl = s.xl := rfl
@[simp] theorem State.modPart_ats (s : State) (p : Nat) (f : Partition → Partition) : (s.modPart p f).ats = s.ats := rfl
@[simp] theorem State.modPart_atsInvals (s : State) (p : Nat) (f : Partition → Partition) : (s.modPart p f).atsInvals = s.atsInvals := rfl
@[simp] theorem State.modPart_accImages (s : State) (p : Nat) (f : Partition → Partition) : (s.modPart p f).accImages = s.accImages := rfl
@[simp] theorem State.modPart_tags (s : State) (p : Nat) (f : Partition → Partition) : (s.modPart p f).tags = s.tags := rfl
@[simp] theorem State.modPart_spares (s : State) (p : Nat) (f : Partition → Partition) : (s.modPart p f).spares = s.spares := rfl
@[simp] theorem State.modPart_poison (s : State) (p : Nat) (f : Partition → Partition) : (s.modPart p f).poison = s.poison := rfl
@[simp] theorem State.modPart_sinceC3 (s : State) (p : Nat) (f : Partition → Partition) : (s.modPart p f).sinceC3 = s.sinceC3 := rfl
@[simp] theorem State.modPart_hbmIf (s : State) (p : Nat) (f : Partition → Partition) : (s.modPart p f).hbmIf = s.hbmIf := rfl
@[simp] theorem State.modPart_ports (s : State) (p : Nat) (f : Partition → Partition) : (s.modPart p f).ports = s.ports := rfl
@[simp] theorem State.modPart_chans (s : State) (p : Nat) (f : Partition → Partition) : (s.modPart p f).chans = s.chans := rfl
@[simp] theorem State.modPart_comms (s : State) (p : Nat) (f : Partition → Partition) : (s.modPart p f).comms = s.comms := rfl
@[simp] theorem State.modPart_numbers (s : State) (p : Nat) (f : Partition → Partition) : (s.modPart p f).numbers = s.numbers := rfl
@[simp] theorem State.modPart_lastNumber (s : State) (p : Nat) (f : Partition → Partition) : (s.modPart p f).lastNumber = s.lastNumber := rfl
@[simp] theorem State.modPart_cancels (s : State) (p : Nat) (f : Partition → Partition) : (s.modPart p f).cancels = s.cancels := rfl
@[simp] theorem State.modPart_promoted (s : State) (p : Nat) (f : Partition → Partition) : (s.modPart p f).promoted = s.promoted := rfl
@[simp] theorem State.modPart_beaconLost (s : State) (p : Nat) (f : Partition → Partition) : (s.modPart p f).beaconLost = s.beaconLost := rfl
@[simp] theorem State.modPart_standbyUp (s : State) (p : Nat) (f : Partition → Partition) : (s.modPart p f).standbyUp = s.standbyUp := rfl
@[simp] theorem State.modPart_heartbeatAt (s : State) (p : Nat) (f : Partition → Partition) : (s.modPart p f).heartbeatAt = s.heartbeatAt := rfl
@[simp] theorem State.modPart_raiseOff (s : State) (p : Nat) (f : Partition → Partition) : (s.modPart p f).raiseOff = s.raiseOff := rfl
@[simp] theorem State.modPart_powerAt (s : State) (p : Nat) (f : Partition → Partition) : (s.modPart p f).powerAt = s.powerAt := rfl
@[simp] theorem State.modPart_hot (s : State) (p : Nat) (f : Partition → Partition) : (s.modPart p f).hot = s.hot := rfl
@[simp] theorem State.modPart_overLimit (s : State) (p : Nat) (f : Partition → Partition) : (s.modPart p f).overLimit = s.overLimit := rfl
@[simp] theorem State.modPart_coolSince (s : State) (p : Nat) (f : Partition → Partition) : (s.modPart p f).coolSince = s.coolSince := rfl
@[simp] theorem State.modPart_accel (s : State) (p : Nat) (f : Partition → Partition) : (s.modPart p f).accel = s.accel := rfl
@[simp] theorem State.modPart_boot (s : State) (p : Nat) (f : Partition → Partition) : (s.modPart p f).boot = s.boot := rfl
@[simp] theorem State.modPart_powerOff (s : State) (p : Nat) (f : Partition → Partition) : (s.modPart p f).powerOff = s.powerOff := rfl
@[simp] theorem State.modPart_hostStatus (s : State) (p : Nat) (f : Partition → Partition) : (s.modPart p f).hostStatus = s.hostStatus := rfl
@[simp] theorem State.modPart_mcast (s : State) (p : Nat) (f : Partition → Partition) : (s.modPart p f).mcast = s.mcast := rfl
@[simp] theorem State.modPart_flaws (s : State) (p : Nat) (f : Partition → Partition) : (s.modPart p f).flaws = s.flaws := rfl
@[simp] theorem State.modPart_dead (s : State) (p : Nat) (f : Partition → Partition) : (s.modPart p f).dead = s.dead := rfl

@[simp] theorem State.modChan_turns (s : State) (n : Nat) (f : Channel → Channel) : (s.modChan n f).turns = s.turns := rfl
@[simp] theorem State.modChan_cur (s : State) (n : Nat) (f : Channel → Channel) : (s.modChan n f).cur = s.cur := rfl
@[simp] theorem State.modChan_stalled (s : State) (n : Nat) (f : Channel → Channel) : (s.modChan n f).stalled = s.stalled := rfl
@[simp] theorem State.modChan_inPlace (s : State) (n : Nat) (f : Channel → Channel) : (s.modChan n f).inPlace = s.inPlace := rfl
@[simp] theorem State.modChan_clock (s : State) (n : Nat) (f : Channel → Channel) : (s.modChan n f).clock = s.clock := rfl
@[simp] theorem State.modChan_stamp (s : State) (n : Nat) (f : Channel → Channel) : (s.modChan n f).stamp = s.stamp := rfl
@[simp] theorem State.modChan_freeCtr (s : State) (n : Nat) (f : Channel → Channel) : (s.modChan n f).freeCtr = s.freeCtr := rfl
@[simp] theorem State.modChan_now (s : State) (n : Nat) (f : Channel → Channel) : (s.modChan n f).now = s.now := rfl
@[simp] theorem State.modChan_cycle (s : State) (n : Nat) (f : Channel → Channel) : (s.modChan n f).cycle = s.cycle := rfl
@[simp] theorem State.modChan_cores (s : State) (n : Nat) (f : Channel → Channel) : (s.modChan n f).cores = s.cores := rfl
@[simp] theorem State.modChan_bands (s : State) (n : Nat) (f : Channel → Channel) : (s.modChan n f).bands = s.bands := rfl
@[simp] theorem State.modChan_gangs (s : State) (n : Nat) (f : Channel → Channel) : (s.modChan n f).gangs = s.gangs := rfl
@[simp] theorem State.modChan_ctxs (s : State) (n : Nat) (f : Channel → Channel) : (s.modChan n f).ctxs = s.ctxs := rfl
@[simp] theorem State.modChan_parts (s : State) (n : Nat) (f : Channel → Channel) : (s.modChan n f).parts = s.parts := rfl
@[simp] theorem State.modChan_launches (s : State) (n : Nat) (f : Channel → Channel) : (s.modChan n f).launches = s.launches := rfl
@[simp] theorem State.modChan_lcc (s : State) (n : Nat) (f : Channel → Channel) : (s.modChan n f).lcc = s.lcc := rfl
@[simp] theorem State.modChan_kregs (s : State) (n : Nat) (f : Channel → Channel) : (s.modChan n f).kregs = s.kregs := rfl
@[simp] theorem State.modChan_hbm (s : State) (n : Nat) (f : Channel → Channel) : (s.modChan n f).hbm = s.hbm := rfl
@[simp] theorem State.modChan_host (s : State) (n : Nat) (f : Channel → Channel) : (s.modChan n f).host = s.host := rfl
@[simp] theorem State.modChan_hist (s : State) (n : Nat) (f : Channel → Channel) : (s.modChan n f).hist = s.hist := rfl
@[simp] theorem State.modChan_cmds (s : State) (n : Nat) (f : Channel → Channel) : (s.modChan n f).cmds = s.cmds := rfl
@[simp] theorem State.modChan_reqs (s : State) (n : Nat) (f : Channel → Channel) : (s.modChan n f).reqs = s.reqs := rfl
@[simp] theorem State.modChan_buoys (s : State) (n : Nat) (f : Channel → Channel) : (s.modChan n f).buoys = s.buoys := rfl
@[simp] theorem State.modChan_xl (s : State) (n : Nat) (f : Channel → Channel) : (s.modChan n f).xl = s.xl := rfl
@[simp] theorem State.modChan_ats (s : State) (n : Nat) (f : Channel → Channel) : (s.modChan n f).ats = s.ats := rfl
@[simp] theorem State.modChan_atsInvals (s : State) (n : Nat) (f : Channel → Channel) : (s.modChan n f).atsInvals = s.atsInvals := rfl
@[simp] theorem State.modChan_accImages (s : State) (n : Nat) (f : Channel → Channel) : (s.modChan n f).accImages = s.accImages := rfl
@[simp] theorem State.modChan_tags (s : State) (n : Nat) (f : Channel → Channel) : (s.modChan n f).tags = s.tags := rfl
@[simp] theorem State.modChan_spares (s : State) (n : Nat) (f : Channel → Channel) : (s.modChan n f).spares = s.spares := rfl
@[simp] theorem State.modChan_poison (s : State) (n : Nat) (f : Channel → Channel) : (s.modChan n f).poison = s.poison := rfl
@[simp] theorem State.modChan_sinceC3 (s : State) (n : Nat) (f : Channel → Channel) : (s.modChan n f).sinceC3 = s.sinceC3 := rfl
@[simp] theorem State.modChan_hbmIf (s : State) (n : Nat) (f : Channel → Channel) : (s.modChan n f).hbmIf = s.hbmIf := rfl
@[simp] theorem State.modChan_ports (s : State) (n : Nat) (f : Channel → Channel) : (s.modChan n f).ports = s.ports := rfl
@[simp] theorem State.modChan_chans (s : State) (n : Nat) (f : Channel → Channel) : (s.modChan n f).chans = SMap.set s.chans Channel.free n (f (s.chan n)) := rfl
@[simp] theorem State.modChan_comms (s : State) (n : Nat) (f : Channel → Channel) : (s.modChan n f).comms = s.comms := rfl
@[simp] theorem State.modChan_numbers (s : State) (n : Nat) (f : Channel → Channel) : (s.modChan n f).numbers = s.numbers := rfl
@[simp] theorem State.modChan_lastNumber (s : State) (n : Nat) (f : Channel → Channel) : (s.modChan n f).lastNumber = s.lastNumber := rfl
@[simp] theorem State.modChan_cancels (s : State) (n : Nat) (f : Channel → Channel) : (s.modChan n f).cancels = s.cancels := rfl
@[simp] theorem State.modChan_promoted (s : State) (n : Nat) (f : Channel → Channel) : (s.modChan n f).promoted = s.promoted := rfl
@[simp] theorem State.modChan_beaconLost (s : State) (n : Nat) (f : Channel → Channel) : (s.modChan n f).beaconLost = s.beaconLost := rfl
@[simp] theorem State.modChan_standbyUp (s : State) (n : Nat) (f : Channel → Channel) : (s.modChan n f).standbyUp = s.standbyUp := rfl
@[simp] theorem State.modChan_heartbeatAt (s : State) (n : Nat) (f : Channel → Channel) : (s.modChan n f).heartbeatAt = s.heartbeatAt := rfl
@[simp] theorem State.modChan_raiseOff (s : State) (n : Nat) (f : Channel → Channel) : (s.modChan n f).raiseOff = s.raiseOff := rfl
@[simp] theorem State.modChan_powerAt (s : State) (n : Nat) (f : Channel → Channel) : (s.modChan n f).powerAt = s.powerAt := rfl
@[simp] theorem State.modChan_hot (s : State) (n : Nat) (f : Channel → Channel) : (s.modChan n f).hot = s.hot := rfl
@[simp] theorem State.modChan_overLimit (s : State) (n : Nat) (f : Channel → Channel) : (s.modChan n f).overLimit = s.overLimit := rfl
@[simp] theorem State.modChan_coolSince (s : State) (n : Nat) (f : Channel → Channel) : (s.modChan n f).coolSince = s.coolSince := rfl
@[simp] theorem State.modChan_accel (s : State) (n : Nat) (f : Channel → Channel) : (s.modChan n f).accel = s.accel := rfl
@[simp] theorem State.modChan_boot (s : State) (n : Nat) (f : Channel → Channel) : (s.modChan n f).boot = s.boot := rfl
@[simp] theorem State.modChan_powerOff (s : State) (n : Nat) (f : Channel → Channel) : (s.modChan n f).powerOff = s.powerOff := rfl
@[simp] theorem State.modChan_hostStatus (s : State) (n : Nat) (f : Channel → Channel) : (s.modChan n f).hostStatus = s.hostStatus := rfl
@[simp] theorem State.modChan_mcast (s : State) (n : Nat) (f : Channel → Channel) : (s.modChan n f).mcast = s.mcast := rfl
@[simp] theorem State.modChan_flaws (s : State) (n : Nat) (f : Channel → Channel) : (s.modChan n f).flaws = s.flaws := rfl
@[simp] theorem State.modChan_dead (s : State) (n : Nat) (f : Channel → Channel) : (s.modChan n f).dead = s.dead := rfl

@[simp] theorem State.modNumber_turns (s : State) (n : BitVec 48) (f : BNum → BNum) : (s.modNumber n f).turns = s.turns := rfl
@[simp] theorem State.modNumber_cur (s : State) (n : BitVec 48) (f : BNum → BNum) : (s.modNumber n f).cur = s.cur := rfl
@[simp] theorem State.modNumber_stalled (s : State) (n : BitVec 48) (f : BNum → BNum) : (s.modNumber n f).stalled = s.stalled := rfl
@[simp] theorem State.modNumber_inPlace (s : State) (n : BitVec 48) (f : BNum → BNum) : (s.modNumber n f).inPlace = s.inPlace := rfl
@[simp] theorem State.modNumber_clock (s : State) (n : BitVec 48) (f : BNum → BNum) : (s.modNumber n f).clock = s.clock := rfl
@[simp] theorem State.modNumber_stamp (s : State) (n : BitVec 48) (f : BNum → BNum) : (s.modNumber n f).stamp = s.stamp := rfl
@[simp] theorem State.modNumber_freeCtr (s : State) (n : BitVec 48) (f : BNum → BNum) : (s.modNumber n f).freeCtr = s.freeCtr := rfl
@[simp] theorem State.modNumber_now (s : State) (n : BitVec 48) (f : BNum → BNum) : (s.modNumber n f).now = s.now := rfl
@[simp] theorem State.modNumber_cycle (s : State) (n : BitVec 48) (f : BNum → BNum) : (s.modNumber n f).cycle = s.cycle := rfl
@[simp] theorem State.modNumber_cores (s : State) (n : BitVec 48) (f : BNum → BNum) : (s.modNumber n f).cores = s.cores := rfl
@[simp] theorem State.modNumber_bands (s : State) (n : BitVec 48) (f : BNum → BNum) : (s.modNumber n f).bands = s.bands := rfl
@[simp] theorem State.modNumber_gangs (s : State) (n : BitVec 48) (f : BNum → BNum) : (s.modNumber n f).gangs = s.gangs := rfl
@[simp] theorem State.modNumber_ctxs (s : State) (n : BitVec 48) (f : BNum → BNum) : (s.modNumber n f).ctxs = s.ctxs := rfl
@[simp] theorem State.modNumber_parts (s : State) (n : BitVec 48) (f : BNum → BNum) : (s.modNumber n f).parts = s.parts := rfl
@[simp] theorem State.modNumber_launches (s : State) (n : BitVec 48) (f : BNum → BNum) : (s.modNumber n f).launches = s.launches := rfl
@[simp] theorem State.modNumber_lcc (s : State) (n : BitVec 48) (f : BNum → BNum) : (s.modNumber n f).lcc = s.lcc := rfl
@[simp] theorem State.modNumber_kregs (s : State) (n : BitVec 48) (f : BNum → BNum) : (s.modNumber n f).kregs = s.kregs := rfl
@[simp] theorem State.modNumber_hbm (s : State) (n : BitVec 48) (f : BNum → BNum) : (s.modNumber n f).hbm = s.hbm := rfl
@[simp] theorem State.modNumber_host (s : State) (n : BitVec 48) (f : BNum → BNum) : (s.modNumber n f).host = s.host := rfl
@[simp] theorem State.modNumber_hist (s : State) (n : BitVec 48) (f : BNum → BNum) : (s.modNumber n f).hist = s.hist := rfl
@[simp] theorem State.modNumber_cmds (s : State) (n : BitVec 48) (f : BNum → BNum) : (s.modNumber n f).cmds = s.cmds := rfl
@[simp] theorem State.modNumber_reqs (s : State) (n : BitVec 48) (f : BNum → BNum) : (s.modNumber n f).reqs = s.reqs := rfl
@[simp] theorem State.modNumber_buoys (s : State) (n : BitVec 48) (f : BNum → BNum) : (s.modNumber n f).buoys = s.buoys := rfl
@[simp] theorem State.modNumber_xl (s : State) (n : BitVec 48) (f : BNum → BNum) : (s.modNumber n f).xl = s.xl := rfl
@[simp] theorem State.modNumber_ats (s : State) (n : BitVec 48) (f : BNum → BNum) : (s.modNumber n f).ats = s.ats := rfl
@[simp] theorem State.modNumber_atsInvals (s : State) (n : BitVec 48) (f : BNum → BNum) : (s.modNumber n f).atsInvals = s.atsInvals := rfl
@[simp] theorem State.modNumber_accImages (s : State) (n : BitVec 48) (f : BNum → BNum) : (s.modNumber n f).accImages = s.accImages := rfl
@[simp] theorem State.modNumber_tags (s : State) (n : BitVec 48) (f : BNum → BNum) : (s.modNumber n f).tags = s.tags := rfl
@[simp] theorem State.modNumber_spares (s : State) (n : BitVec 48) (f : BNum → BNum) : (s.modNumber n f).spares = s.spares := rfl
@[simp] theorem State.modNumber_poison (s : State) (n : BitVec 48) (f : BNum → BNum) : (s.modNumber n f).poison = s.poison := rfl
@[simp] theorem State.modNumber_sinceC3 (s : State) (n : BitVec 48) (f : BNum → BNum) : (s.modNumber n f).sinceC3 = s.sinceC3 := rfl
@[simp] theorem State.modNumber_hbmIf (s : State) (n : BitVec 48) (f : BNum → BNum) : (s.modNumber n f).hbmIf = s.hbmIf := rfl
@[simp] theorem State.modNumber_ports (s : State) (n : BitVec 48) (f : BNum → BNum) : (s.modNumber n f).ports = s.ports := rfl
@[simp] theorem State.modNumber_chans (s : State) (n : BitVec 48) (f : BNum → BNum) : (s.modNumber n f).chans = s.chans := rfl
@[simp] theorem State.modNumber_comms (s : State) (n : BitVec 48) (f : BNum → BNum) : (s.modNumber n f).comms = s.comms := rfl
@[simp] theorem State.modNumber_numbers (s : State) (n : BitVec 48) (f : BNum → BNum) : (s.modNumber n f).numbers = SMap.modify s.numbers n.toNat f := rfl
@[simp] theorem State.modNumber_lastNumber (s : State) (n : BitVec 48) (f : BNum → BNum) : (s.modNumber n f).lastNumber = s.lastNumber := rfl
@[simp] theorem State.modNumber_cancels (s : State) (n : BitVec 48) (f : BNum → BNum) : (s.modNumber n f).cancels = s.cancels := rfl
@[simp] theorem State.modNumber_promoted (s : State) (n : BitVec 48) (f : BNum → BNum) : (s.modNumber n f).promoted = s.promoted := rfl
@[simp] theorem State.modNumber_beaconLost (s : State) (n : BitVec 48) (f : BNum → BNum) : (s.modNumber n f).beaconLost = s.beaconLost := rfl
@[simp] theorem State.modNumber_standbyUp (s : State) (n : BitVec 48) (f : BNum → BNum) : (s.modNumber n f).standbyUp = s.standbyUp := rfl
@[simp] theorem State.modNumber_heartbeatAt (s : State) (n : BitVec 48) (f : BNum → BNum) : (s.modNumber n f).heartbeatAt = s.heartbeatAt := rfl
@[simp] theorem State.modNumber_raiseOff (s : State) (n : BitVec 48) (f : BNum → BNum) : (s.modNumber n f).raiseOff = s.raiseOff := rfl
@[simp] theorem State.modNumber_powerAt (s : State) (n : BitVec 48) (f : BNum → BNum) : (s.modNumber n f).powerAt = s.powerAt := rfl
@[simp] theorem State.modNumber_hot (s : State) (n : BitVec 48) (f : BNum → BNum) : (s.modNumber n f).hot = s.hot := rfl
@[simp] theorem State.modNumber_overLimit (s : State) (n : BitVec 48) (f : BNum → BNum) : (s.modNumber n f).overLimit = s.overLimit := rfl
@[simp] theorem State.modNumber_coolSince (s : State) (n : BitVec 48) (f : BNum → BNum) : (s.modNumber n f).coolSince = s.coolSince := rfl
@[simp] theorem State.modNumber_accel (s : State) (n : BitVec 48) (f : BNum → BNum) : (s.modNumber n f).accel = s.accel := rfl
@[simp] theorem State.modNumber_boot (s : State) (n : BitVec 48) (f : BNum → BNum) : (s.modNumber n f).boot = s.boot := rfl
@[simp] theorem State.modNumber_powerOff (s : State) (n : BitVec 48) (f : BNum → BNum) : (s.modNumber n f).powerOff = s.powerOff := rfl
@[simp] theorem State.modNumber_hostStatus (s : State) (n : BitVec 48) (f : BNum → BNum) : (s.modNumber n f).hostStatus = s.hostStatus := rfl
@[simp] theorem State.modNumber_mcast (s : State) (n : BitVec 48) (f : BNum → BNum) : (s.modNumber n f).mcast = s.mcast := rfl
@[simp] theorem State.modNumber_flaws (s : State) (n : BitVec 48) (f : BNum → BNum) : (s.modNumber n f).flaws = s.flaws := rfl
@[simp] theorem State.modNumber_dead (s : State) (n : BitVec 48) (f : BNum → BNum) : (s.modNumber n f).dead = s.dead := rfl

@[simp] theorem State.modUport_turns (s : State) (p : Nat) (f : Port → Port) : (s.modUport p f).turns = s.turns := rfl
@[simp] theorem State.modUport_cur (s : State) (p : Nat) (f : Port → Port) : (s.modUport p f).cur = s.cur := rfl
@[simp] theorem State.modUport_stalled (s : State) (p : Nat) (f : Port → Port) : (s.modUport p f).stalled = s.stalled := rfl
@[simp] theorem State.modUport_inPlace (s : State) (p : Nat) (f : Port → Port) : (s.modUport p f).inPlace = s.inPlace := rfl
@[simp] theorem State.modUport_clock (s : State) (p : Nat) (f : Port → Port) : (s.modUport p f).clock = s.clock := rfl
@[simp] theorem State.modUport_stamp (s : State) (p : Nat) (f : Port → Port) : (s.modUport p f).stamp = s.stamp := rfl
@[simp] theorem State.modUport_freeCtr (s : State) (p : Nat) (f : Port → Port) : (s.modUport p f).freeCtr = s.freeCtr := rfl
@[simp] theorem State.modUport_now (s : State) (p : Nat) (f : Port → Port) : (s.modUport p f).now = s.now := rfl
@[simp] theorem State.modUport_cycle (s : State) (p : Nat) (f : Port → Port) : (s.modUport p f).cycle = s.cycle := rfl
@[simp] theorem State.modUport_cores (s : State) (p : Nat) (f : Port → Port) : (s.modUport p f).cores = s.cores := rfl
@[simp] theorem State.modUport_bands (s : State) (p : Nat) (f : Port → Port) : (s.modUport p f).bands = s.bands := rfl
@[simp] theorem State.modUport_gangs (s : State) (p : Nat) (f : Port → Port) : (s.modUport p f).gangs = s.gangs := rfl
@[simp] theorem State.modUport_ctxs (s : State) (p : Nat) (f : Port → Port) : (s.modUport p f).ctxs = s.ctxs := rfl
@[simp] theorem State.modUport_parts (s : State) (p : Nat) (f : Port → Port) : (s.modUport p f).parts = s.parts := rfl
@[simp] theorem State.modUport_launches (s : State) (p : Nat) (f : Port → Port) : (s.modUport p f).launches = s.launches := rfl
@[simp] theorem State.modUport_lcc (s : State) (p : Nat) (f : Port → Port) : (s.modUport p f).lcc = s.lcc := rfl
@[simp] theorem State.modUport_kregs (s : State) (p : Nat) (f : Port → Port) : (s.modUport p f).kregs = s.kregs := rfl
@[simp] theorem State.modUport_hbm (s : State) (p : Nat) (f : Port → Port) : (s.modUport p f).hbm = s.hbm := rfl
@[simp] theorem State.modUport_host (s : State) (p : Nat) (f : Port → Port) : (s.modUport p f).host = s.host := rfl
@[simp] theorem State.modUport_hist (s : State) (p : Nat) (f : Port → Port) : (s.modUport p f).hist = s.hist := rfl
@[simp] theorem State.modUport_cmds (s : State) (p : Nat) (f : Port → Port) : (s.modUport p f).cmds = s.cmds := rfl
@[simp] theorem State.modUport_reqs (s : State) (p : Nat) (f : Port → Port) : (s.modUport p f).reqs = s.reqs := rfl
@[simp] theorem State.modUport_buoys (s : State) (p : Nat) (f : Port → Port) : (s.modUport p f).buoys = s.buoys := rfl
@[simp] theorem State.modUport_xl (s : State) (p : Nat) (f : Port → Port) : (s.modUport p f).xl = s.xl := rfl
@[simp] theorem State.modUport_ats (s : State) (p : Nat) (f : Port → Port) : (s.modUport p f).ats = s.ats := rfl
@[simp] theorem State.modUport_atsInvals (s : State) (p : Nat) (f : Port → Port) : (s.modUport p f).atsInvals = s.atsInvals := rfl
@[simp] theorem State.modUport_accImages (s : State) (p : Nat) (f : Port → Port) : (s.modUport p f).accImages = s.accImages := rfl
@[simp] theorem State.modUport_tags (s : State) (p : Nat) (f : Port → Port) : (s.modUport p f).tags = s.tags := rfl
@[simp] theorem State.modUport_spares (s : State) (p : Nat) (f : Port → Port) : (s.modUport p f).spares = s.spares := rfl
@[simp] theorem State.modUport_poison (s : State) (p : Nat) (f : Port → Port) : (s.modUport p f).poison = s.poison := rfl
@[simp] theorem State.modUport_sinceC3 (s : State) (p : Nat) (f : Port → Port) : (s.modUport p f).sinceC3 = s.sinceC3 := rfl
@[simp] theorem State.modUport_hbmIf (s : State) (p : Nat) (f : Port → Port) : (s.modUport p f).hbmIf = s.hbmIf := rfl
@[simp] theorem State.modUport_ports (s : State) (p : Nat) (f : Port → Port) : (s.modUport p f).ports = SMap.set s.ports Port.idle p (f (s.uport p)) := rfl
@[simp] theorem State.modUport_chans (s : State) (p : Nat) (f : Port → Port) : (s.modUport p f).chans = s.chans := rfl
@[simp] theorem State.modUport_comms (s : State) (p : Nat) (f : Port → Port) : (s.modUport p f).comms = s.comms := rfl
@[simp] theorem State.modUport_numbers (s : State) (p : Nat) (f : Port → Port) : (s.modUport p f).numbers = s.numbers := rfl
@[simp] theorem State.modUport_lastNumber (s : State) (p : Nat) (f : Port → Port) : (s.modUport p f).lastNumber = s.lastNumber := rfl
@[simp] theorem State.modUport_cancels (s : State) (p : Nat) (f : Port → Port) : (s.modUport p f).cancels = s.cancels := rfl
@[simp] theorem State.modUport_promoted (s : State) (p : Nat) (f : Port → Port) : (s.modUport p f).promoted = s.promoted := rfl
@[simp] theorem State.modUport_beaconLost (s : State) (p : Nat) (f : Port → Port) : (s.modUport p f).beaconLost = s.beaconLost := rfl
@[simp] theorem State.modUport_standbyUp (s : State) (p : Nat) (f : Port → Port) : (s.modUport p f).standbyUp = s.standbyUp := rfl
@[simp] theorem State.modUport_heartbeatAt (s : State) (p : Nat) (f : Port → Port) : (s.modUport p f).heartbeatAt = s.heartbeatAt := rfl
@[simp] theorem State.modUport_raiseOff (s : State) (p : Nat) (f : Port → Port) : (s.modUport p f).raiseOff = s.raiseOff := rfl
@[simp] theorem State.modUport_powerAt (s : State) (p : Nat) (f : Port → Port) : (s.modUport p f).powerAt = s.powerAt := rfl
@[simp] theorem State.modUport_hot (s : State) (p : Nat) (f : Port → Port) : (s.modUport p f).hot = s.hot := rfl
@[simp] theorem State.modUport_overLimit (s : State) (p : Nat) (f : Port → Port) : (s.modUport p f).overLimit = s.overLimit := rfl
@[simp] theorem State.modUport_coolSince (s : State) (p : Nat) (f : Port → Port) : (s.modUport p f).coolSince = s.coolSince := rfl
@[simp] theorem State.modUport_accel (s : State) (p : Nat) (f : Port → Port) : (s.modUport p f).accel = s.accel := rfl
@[simp] theorem State.modUport_boot (s : State) (p : Nat) (f : Port → Port) : (s.modUport p f).boot = s.boot := rfl
@[simp] theorem State.modUport_powerOff (s : State) (p : Nat) (f : Port → Port) : (s.modUport p f).powerOff = s.powerOff := rfl
@[simp] theorem State.modUport_hostStatus (s : State) (p : Nat) (f : Port → Port) : (s.modUport p f).hostStatus = s.hostStatus := rfl
@[simp] theorem State.modUport_mcast (s : State) (p : Nat) (f : Port → Port) : (s.modUport p f).mcast = s.mcast := rfl
@[simp] theorem State.modUport_flaws (s : State) (p : Nat) (f : Port → Port) : (s.modUport p f).flaws = s.flaws := rfl
@[simp] theorem State.modUport_dead (s : State) (p : Nat) (f : Port → Port) : (s.modUport p f).dead = s.dead := rfl

@[simp] theorem State.setReq_turns (s : State) (id : Nat) (r : FarReq) : (s.setReq id r).turns = s.turns := rfl
@[simp] theorem State.setReq_cur (s : State) (id : Nat) (r : FarReq) : (s.setReq id r).cur = s.cur := rfl
@[simp] theorem State.setReq_stalled (s : State) (id : Nat) (r : FarReq) : (s.setReq id r).stalled = s.stalled := rfl
@[simp] theorem State.setReq_inPlace (s : State) (id : Nat) (r : FarReq) : (s.setReq id r).inPlace = s.inPlace := rfl
@[simp] theorem State.setReq_clock (s : State) (id : Nat) (r : FarReq) : (s.setReq id r).clock = s.clock := rfl
@[simp] theorem State.setReq_stamp (s : State) (id : Nat) (r : FarReq) : (s.setReq id r).stamp = s.stamp := rfl
@[simp] theorem State.setReq_freeCtr (s : State) (id : Nat) (r : FarReq) : (s.setReq id r).freeCtr = s.freeCtr := rfl
@[simp] theorem State.setReq_now (s : State) (id : Nat) (r : FarReq) : (s.setReq id r).now = s.now := rfl
@[simp] theorem State.setReq_cycle (s : State) (id : Nat) (r : FarReq) : (s.setReq id r).cycle = s.cycle := rfl
@[simp] theorem State.setReq_cores (s : State) (id : Nat) (r : FarReq) : (s.setReq id r).cores = s.cores := rfl
@[simp] theorem State.setReq_bands (s : State) (id : Nat) (r : FarReq) : (s.setReq id r).bands = s.bands := rfl
@[simp] theorem State.setReq_gangs (s : State) (id : Nat) (r : FarReq) : (s.setReq id r).gangs = s.gangs := rfl
@[simp] theorem State.setReq_ctxs (s : State) (id : Nat) (r : FarReq) : (s.setReq id r).ctxs = s.ctxs := rfl
@[simp] theorem State.setReq_parts (s : State) (id : Nat) (r : FarReq) : (s.setReq id r).parts = s.parts := rfl
@[simp] theorem State.setReq_launches (s : State) (id : Nat) (r : FarReq) : (s.setReq id r).launches = s.launches := rfl
@[simp] theorem State.setReq_lcc (s : State) (id : Nat) (r : FarReq) : (s.setReq id r).lcc = s.lcc := rfl
@[simp] theorem State.setReq_kregs (s : State) (id : Nat) (r : FarReq) : (s.setReq id r).kregs = s.kregs := rfl
@[simp] theorem State.setReq_hbm (s : State) (id : Nat) (r : FarReq) : (s.setReq id r).hbm = s.hbm := rfl
@[simp] theorem State.setReq_host (s : State) (id : Nat) (r : FarReq) : (s.setReq id r).host = s.host := rfl
@[simp] theorem State.setReq_hist (s : State) (id : Nat) (r : FarReq) : (s.setReq id r).hist = s.hist := rfl
@[simp] theorem State.setReq_cmds (s : State) (id : Nat) (r : FarReq) : (s.setReq id r).cmds = s.cmds := rfl
@[simp] theorem State.setReq_reqs (s : State) (id : Nat) (r : FarReq) : (s.setReq id r).reqs = SMap.insert s.reqs id r := rfl
@[simp] theorem State.setReq_buoys (s : State) (id : Nat) (r : FarReq) : (s.setReq id r).buoys = s.buoys := rfl
@[simp] theorem State.setReq_xl (s : State) (id : Nat) (r : FarReq) : (s.setReq id r).xl = s.xl := rfl
@[simp] theorem State.setReq_ats (s : State) (id : Nat) (r : FarReq) : (s.setReq id r).ats = s.ats := rfl
@[simp] theorem State.setReq_atsInvals (s : State) (id : Nat) (r : FarReq) : (s.setReq id r).atsInvals = s.atsInvals := rfl
@[simp] theorem State.setReq_accImages (s : State) (id : Nat) (r : FarReq) : (s.setReq id r).accImages = s.accImages := rfl
@[simp] theorem State.setReq_tags (s : State) (id : Nat) (r : FarReq) : (s.setReq id r).tags = s.tags := rfl
@[simp] theorem State.setReq_spares (s : State) (id : Nat) (r : FarReq) : (s.setReq id r).spares = s.spares := rfl
@[simp] theorem State.setReq_poison (s : State) (id : Nat) (r : FarReq) : (s.setReq id r).poison = s.poison := rfl
@[simp] theorem State.setReq_sinceC3 (s : State) (id : Nat) (r : FarReq) : (s.setReq id r).sinceC3 = s.sinceC3 := rfl
@[simp] theorem State.setReq_hbmIf (s : State) (id : Nat) (r : FarReq) : (s.setReq id r).hbmIf = s.hbmIf := rfl
@[simp] theorem State.setReq_ports (s : State) (id : Nat) (r : FarReq) : (s.setReq id r).ports = s.ports := rfl
@[simp] theorem State.setReq_chans (s : State) (id : Nat) (r : FarReq) : (s.setReq id r).chans = s.chans := rfl
@[simp] theorem State.setReq_comms (s : State) (id : Nat) (r : FarReq) : (s.setReq id r).comms = s.comms := rfl
@[simp] theorem State.setReq_numbers (s : State) (id : Nat) (r : FarReq) : (s.setReq id r).numbers = s.numbers := rfl
@[simp] theorem State.setReq_lastNumber (s : State) (id : Nat) (r : FarReq) : (s.setReq id r).lastNumber = s.lastNumber := rfl
@[simp] theorem State.setReq_cancels (s : State) (id : Nat) (r : FarReq) : (s.setReq id r).cancels = s.cancels := rfl
@[simp] theorem State.setReq_promoted (s : State) (id : Nat) (r : FarReq) : (s.setReq id r).promoted = s.promoted := rfl
@[simp] theorem State.setReq_beaconLost (s : State) (id : Nat) (r : FarReq) : (s.setReq id r).beaconLost = s.beaconLost := rfl
@[simp] theorem State.setReq_standbyUp (s : State) (id : Nat) (r : FarReq) : (s.setReq id r).standbyUp = s.standbyUp := rfl
@[simp] theorem State.setReq_heartbeatAt (s : State) (id : Nat) (r : FarReq) : (s.setReq id r).heartbeatAt = s.heartbeatAt := rfl
@[simp] theorem State.setReq_raiseOff (s : State) (id : Nat) (r : FarReq) : (s.setReq id r).raiseOff = s.raiseOff := rfl
@[simp] theorem State.setReq_powerAt (s : State) (id : Nat) (r : FarReq) : (s.setReq id r).powerAt = s.powerAt := rfl
@[simp] theorem State.setReq_hot (s : State) (id : Nat) (r : FarReq) : (s.setReq id r).hot = s.hot := rfl
@[simp] theorem State.setReq_overLimit (s : State) (id : Nat) (r : FarReq) : (s.setReq id r).overLimit = s.overLimit := rfl
@[simp] theorem State.setReq_coolSince (s : State) (id : Nat) (r : FarReq) : (s.setReq id r).coolSince = s.coolSince := rfl
@[simp] theorem State.setReq_accel (s : State) (id : Nat) (r : FarReq) : (s.setReq id r).accel = s.accel := rfl
@[simp] theorem State.setReq_boot (s : State) (id : Nat) (r : FarReq) : (s.setReq id r).boot = s.boot := rfl
@[simp] theorem State.setReq_powerOff (s : State) (id : Nat) (r : FarReq) : (s.setReq id r).powerOff = s.powerOff := rfl
@[simp] theorem State.setReq_hostStatus (s : State) (id : Nat) (r : FarReq) : (s.setReq id r).hostStatus = s.hostStatus := rfl
@[simp] theorem State.setReq_mcast (s : State) (id : Nat) (r : FarReq) : (s.setReq id r).mcast = s.mcast := rfl
@[simp] theorem State.setReq_flaws (s : State) (id : Nat) (r : FarReq) : (s.setReq id r).flaws = s.flaws := rfl
@[simp] theorem State.setReq_dead (s : State) (id : Nat) (r : FarReq) : (s.setReq id r).dead = s.dead := rfl

@[simp] theorem State.dropReq_turns (s : State) (id : Nat) : (s.dropReq id).turns = s.turns := rfl
@[simp] theorem State.dropReq_cur (s : State) (id : Nat) : (s.dropReq id).cur = s.cur := rfl
@[simp] theorem State.dropReq_stalled (s : State) (id : Nat) : (s.dropReq id).stalled = s.stalled := rfl
@[simp] theorem State.dropReq_inPlace (s : State) (id : Nat) : (s.dropReq id).inPlace = s.inPlace := rfl
@[simp] theorem State.dropReq_clock (s : State) (id : Nat) : (s.dropReq id).clock = s.clock := rfl
@[simp] theorem State.dropReq_stamp (s : State) (id : Nat) : (s.dropReq id).stamp = s.stamp := rfl
@[simp] theorem State.dropReq_freeCtr (s : State) (id : Nat) : (s.dropReq id).freeCtr = s.freeCtr := rfl
@[simp] theorem State.dropReq_now (s : State) (id : Nat) : (s.dropReq id).now = s.now := rfl
@[simp] theorem State.dropReq_cycle (s : State) (id : Nat) : (s.dropReq id).cycle = s.cycle := rfl
@[simp] theorem State.dropReq_cores (s : State) (id : Nat) : (s.dropReq id).cores = s.cores := rfl
@[simp] theorem State.dropReq_bands (s : State) (id : Nat) : (s.dropReq id).bands = s.bands := rfl
@[simp] theorem State.dropReq_gangs (s : State) (id : Nat) : (s.dropReq id).gangs = s.gangs := rfl
@[simp] theorem State.dropReq_ctxs (s : State) (id : Nat) : (s.dropReq id).ctxs = s.ctxs := rfl
@[simp] theorem State.dropReq_parts (s : State) (id : Nat) : (s.dropReq id).parts = s.parts := rfl
@[simp] theorem State.dropReq_launches (s : State) (id : Nat) : (s.dropReq id).launches = s.launches := rfl
@[simp] theorem State.dropReq_lcc (s : State) (id : Nat) : (s.dropReq id).lcc = s.lcc := rfl
@[simp] theorem State.dropReq_kregs (s : State) (id : Nat) : (s.dropReq id).kregs = s.kregs := rfl
@[simp] theorem State.dropReq_hbm (s : State) (id : Nat) : (s.dropReq id).hbm = s.hbm := rfl
@[simp] theorem State.dropReq_host (s : State) (id : Nat) : (s.dropReq id).host = s.host := rfl
@[simp] theorem State.dropReq_hist (s : State) (id : Nat) : (s.dropReq id).hist = s.hist := rfl
@[simp] theorem State.dropReq_cmds (s : State) (id : Nat) : (s.dropReq id).cmds = s.cmds := rfl
@[simp] theorem State.dropReq_reqs (s : State) (id : Nat) : (s.dropReq id).reqs = SMap.erase s.reqs id := rfl
@[simp] theorem State.dropReq_buoys (s : State) (id : Nat) : (s.dropReq id).buoys = s.buoys := rfl
@[simp] theorem State.dropReq_xl (s : State) (id : Nat) : (s.dropReq id).xl = s.xl := rfl
@[simp] theorem State.dropReq_ats (s : State) (id : Nat) : (s.dropReq id).ats = s.ats := rfl
@[simp] theorem State.dropReq_atsInvals (s : State) (id : Nat) : (s.dropReq id).atsInvals = s.atsInvals := rfl
@[simp] theorem State.dropReq_accImages (s : State) (id : Nat) : (s.dropReq id).accImages = s.accImages := rfl
@[simp] theorem State.dropReq_tags (s : State) (id : Nat) : (s.dropReq id).tags = s.tags := rfl
@[simp] theorem State.dropReq_spares (s : State) (id : Nat) : (s.dropReq id).spares = s.spares := rfl
@[simp] theorem State.dropReq_poison (s : State) (id : Nat) : (s.dropReq id).poison = s.poison := rfl
@[simp] theorem State.dropReq_sinceC3 (s : State) (id : Nat) : (s.dropReq id).sinceC3 = s.sinceC3 := rfl
@[simp] theorem State.dropReq_hbmIf (s : State) (id : Nat) : (s.dropReq id).hbmIf = s.hbmIf := rfl
@[simp] theorem State.dropReq_ports (s : State) (id : Nat) : (s.dropReq id).ports = s.ports := rfl
@[simp] theorem State.dropReq_chans (s : State) (id : Nat) : (s.dropReq id).chans = s.chans := rfl
@[simp] theorem State.dropReq_comms (s : State) (id : Nat) : (s.dropReq id).comms = s.comms := rfl
@[simp] theorem State.dropReq_numbers (s : State) (id : Nat) : (s.dropReq id).numbers = s.numbers := rfl
@[simp] theorem State.dropReq_lastNumber (s : State) (id : Nat) : (s.dropReq id).lastNumber = s.lastNumber := rfl
@[simp] theorem State.dropReq_cancels (s : State) (id : Nat) : (s.dropReq id).cancels = s.cancels := rfl
@[simp] theorem State.dropReq_promoted (s : State) (id : Nat) : (s.dropReq id).promoted = s.promoted := rfl
@[simp] theorem State.dropReq_beaconLost (s : State) (id : Nat) : (s.dropReq id).beaconLost = s.beaconLost := rfl
@[simp] theorem State.dropReq_standbyUp (s : State) (id : Nat) : (s.dropReq id).standbyUp = s.standbyUp := rfl
@[simp] theorem State.dropReq_heartbeatAt (s : State) (id : Nat) : (s.dropReq id).heartbeatAt = s.heartbeatAt := rfl
@[simp] theorem State.dropReq_raiseOff (s : State) (id : Nat) : (s.dropReq id).raiseOff = s.raiseOff := rfl
@[simp] theorem State.dropReq_powerAt (s : State) (id : Nat) : (s.dropReq id).powerAt = s.powerAt := rfl
@[simp] theorem State.dropReq_hot (s : State) (id : Nat) : (s.dropReq id).hot = s.hot := rfl
@[simp] theorem State.dropReq_overLimit (s : State) (id : Nat) : (s.dropReq id).overLimit = s.overLimit := rfl
@[simp] theorem State.dropReq_coolSince (s : State) (id : Nat) : (s.dropReq id).coolSince = s.coolSince := rfl
@[simp] theorem State.dropReq_accel (s : State) (id : Nat) : (s.dropReq id).accel = s.accel := rfl
@[simp] theorem State.dropReq_boot (s : State) (id : Nat) : (s.dropReq id).boot = s.boot := rfl
@[simp] theorem State.dropReq_powerOff (s : State) (id : Nat) : (s.dropReq id).powerOff = s.powerOff := rfl
@[simp] theorem State.dropReq_hostStatus (s : State) (id : Nat) : (s.dropReq id).hostStatus = s.hostStatus := rfl
@[simp] theorem State.dropReq_mcast (s : State) (id : Nat) : (s.dropReq id).mcast = s.mcast := rfl
@[simp] theorem State.dropReq_flaws (s : State) (id : Nat) : (s.dropReq id).flaws = s.flaws := rfl
@[simp] theorem State.dropReq_dead (s : State) (id : Nat) : (s.dropReq id).dead = s.dead := rfl

@[simp] theorem State.sendReq_turns (s : State) (r : FarReq) : (s.sendReq r).turns = s.turns := rfl
@[simp] theorem State.sendReq_cur (s : State) (r : FarReq) : (s.sendReq r).cur = s.cur := rfl
@[simp] theorem State.sendReq_stalled (s : State) (r : FarReq) : (s.sendReq r).stalled = s.stalled := rfl
@[simp] theorem State.sendReq_inPlace (s : State) (r : FarReq) : (s.sendReq r).inPlace = s.inPlace := rfl
@[simp] theorem State.sendReq_clock (s : State) (r : FarReq) : (s.sendReq r).clock = s.clock := rfl
@[simp] theorem State.sendReq_stamp (s : State) (r : FarReq) : (s.sendReq r).stamp = s.stamp + 1 := rfl
@[simp] theorem State.sendReq_freeCtr (s : State) (r : FarReq) : (s.sendReq r).freeCtr = s.freeCtr := rfl
@[simp] theorem State.sendReq_now (s : State) (r : FarReq) : (s.sendReq r).now = s.now := rfl
@[simp] theorem State.sendReq_cycle (s : State) (r : FarReq) : (s.sendReq r).cycle = s.cycle := rfl
@[simp] theorem State.sendReq_cores (s : State) (r : FarReq) : (s.sendReq r).cores = s.cores := rfl
@[simp] theorem State.sendReq_bands (s : State) (r : FarReq) : (s.sendReq r).bands = s.bands := rfl
@[simp] theorem State.sendReq_gangs (s : State) (r : FarReq) : (s.sendReq r).gangs = s.gangs := rfl
@[simp] theorem State.sendReq_ctxs (s : State) (r : FarReq) : (s.sendReq r).ctxs = s.ctxs := rfl
@[simp] theorem State.sendReq_parts (s : State) (r : FarReq) : (s.sendReq r).parts = s.parts := rfl
@[simp] theorem State.sendReq_launches (s : State) (r : FarReq) : (s.sendReq r).launches = s.launches := rfl
@[simp] theorem State.sendReq_lcc (s : State) (r : FarReq) : (s.sendReq r).lcc = s.lcc := rfl
@[simp] theorem State.sendReq_kregs (s : State) (r : FarReq) : (s.sendReq r).kregs = s.kregs := rfl
@[simp] theorem State.sendReq_hbm (s : State) (r : FarReq) : (s.sendReq r).hbm = s.hbm := rfl
@[simp] theorem State.sendReq_host (s : State) (r : FarReq) : (s.sendReq r).host = s.host := rfl
@[simp] theorem State.sendReq_hist (s : State) (r : FarReq) : (s.sendReq r).hist = s.hist := rfl
@[simp] theorem State.sendReq_cmds (s : State) (r : FarReq) : (s.sendReq r).cmds = s.cmds := rfl
@[simp] theorem State.sendReq_reqs (s : State) (r : FarReq) : (s.sendReq r).reqs = SMap.insert s.reqs s.stamp { r with stamp := s.stamp, at_ := s.now, stampD := s.deadline r.part r.cls } := rfl
@[simp] theorem State.sendReq_buoys (s : State) (r : FarReq) : (s.sendReq r).buoys = s.buoys := rfl
@[simp] theorem State.sendReq_xl (s : State) (r : FarReq) : (s.sendReq r).xl = s.xl := rfl
@[simp] theorem State.sendReq_ats (s : State) (r : FarReq) : (s.sendReq r).ats = s.ats := rfl
@[simp] theorem State.sendReq_atsInvals (s : State) (r : FarReq) : (s.sendReq r).atsInvals = s.atsInvals := rfl
@[simp] theorem State.sendReq_accImages (s : State) (r : FarReq) : (s.sendReq r).accImages = s.accImages := rfl
@[simp] theorem State.sendReq_tags (s : State) (r : FarReq) : (s.sendReq r).tags = s.tags := rfl
@[simp] theorem State.sendReq_spares (s : State) (r : FarReq) : (s.sendReq r).spares = s.spares := rfl
@[simp] theorem State.sendReq_poison (s : State) (r : FarReq) : (s.sendReq r).poison = s.poison := rfl
@[simp] theorem State.sendReq_sinceC3 (s : State) (r : FarReq) : (s.sendReq r).sinceC3 = s.sinceC3 := rfl
@[simp] theorem State.sendReq_hbmIf (s : State) (r : FarReq) : (s.sendReq r).hbmIf = s.hbmIf := rfl
@[simp] theorem State.sendReq_ports (s : State) (r : FarReq) : (s.sendReq r).ports = s.ports := rfl
@[simp] theorem State.sendReq_chans (s : State) (r : FarReq) : (s.sendReq r).chans = s.chans := rfl
@[simp] theorem State.sendReq_comms (s : State) (r : FarReq) : (s.sendReq r).comms = s.comms := rfl
@[simp] theorem State.sendReq_numbers (s : State) (r : FarReq) : (s.sendReq r).numbers = s.numbers := rfl
@[simp] theorem State.sendReq_lastNumber (s : State) (r : FarReq) : (s.sendReq r).lastNumber = s.lastNumber := rfl
@[simp] theorem State.sendReq_cancels (s : State) (r : FarReq) : (s.sendReq r).cancels = s.cancels := rfl
@[simp] theorem State.sendReq_promoted (s : State) (r : FarReq) : (s.sendReq r).promoted = s.promoted := rfl
@[simp] theorem State.sendReq_beaconLost (s : State) (r : FarReq) : (s.sendReq r).beaconLost = s.beaconLost := rfl
@[simp] theorem State.sendReq_standbyUp (s : State) (r : FarReq) : (s.sendReq r).standbyUp = s.standbyUp := rfl
@[simp] theorem State.sendReq_heartbeatAt (s : State) (r : FarReq) : (s.sendReq r).heartbeatAt = s.heartbeatAt := rfl
@[simp] theorem State.sendReq_raiseOff (s : State) (r : FarReq) : (s.sendReq r).raiseOff = s.raiseOff := rfl
@[simp] theorem State.sendReq_powerAt (s : State) (r : FarReq) : (s.sendReq r).powerAt = s.powerAt := rfl
@[simp] theorem State.sendReq_hot (s : State) (r : FarReq) : (s.sendReq r).hot = s.hot := rfl
@[simp] theorem State.sendReq_overLimit (s : State) (r : FarReq) : (s.sendReq r).overLimit = s.overLimit := rfl
@[simp] theorem State.sendReq_coolSince (s : State) (r : FarReq) : (s.sendReq r).coolSince = s.coolSince := rfl
@[simp] theorem State.sendReq_accel (s : State) (r : FarReq) : (s.sendReq r).accel = s.accel := rfl
@[simp] theorem State.sendReq_boot (s : State) (r : FarReq) : (s.sendReq r).boot = s.boot := rfl
@[simp] theorem State.sendReq_powerOff (s : State) (r : FarReq) : (s.sendReq r).powerOff = s.powerOff := rfl
@[simp] theorem State.sendReq_hostStatus (s : State) (r : FarReq) : (s.sendReq r).hostStatus = s.hostStatus := rfl
@[simp] theorem State.sendReq_mcast (s : State) (r : FarReq) : (s.sendReq r).mcast = s.mcast := rfl
@[simp] theorem State.sendReq_flaws (s : State) (r : FarReq) : (s.sendReq r).flaws = s.flaws := rfl
@[simp] theorem State.sendReq_dead (s : State) (r : FarReq) : (s.sendReq r).dead = s.dead := rfl

@[simp] theorem State.addCycles_turns (s : State) (core n : Nat) : (s.addCycles core n).turns = s.turns := rfl
@[simp] theorem State.addCycles_cur (s : State) (core n : Nat) : (s.addCycles core n).cur = s.cur := rfl
@[simp] theorem State.addCycles_stalled (s : State) (core n : Nat) : (s.addCycles core n).stalled = s.stalled := rfl
@[simp] theorem State.addCycles_inPlace (s : State) (core n : Nat) : (s.addCycles core n).inPlace = s.inPlace := rfl
@[simp] theorem State.addCycles_clock (s : State) (core n : Nat) : (s.addCycles core n).clock = s.clock := rfl
@[simp] theorem State.addCycles_stamp (s : State) (core n : Nat) : (s.addCycles core n).stamp = s.stamp := rfl
@[simp] theorem State.addCycles_freeCtr (s : State) (core n : Nat) : (s.addCycles core n).freeCtr = s.freeCtr := rfl
@[simp] theorem State.addCycles_now (s : State) (core n : Nat) : (s.addCycles core n).now = s.now := rfl
@[simp] theorem State.addCycles_cycle (s : State) (core n : Nat) : (s.addCycles core n).cycle = SMap.set s.cycle 0 core (s.cycleOf core + BitVec.ofNat 64 n) := rfl
@[simp] theorem State.addCycles_cores (s : State) (core n : Nat) : (s.addCycles core n).cores = s.cores := rfl
@[simp] theorem State.addCycles_bands (s : State) (core n : Nat) : (s.addCycles core n).bands = s.bands := rfl
@[simp] theorem State.addCycles_gangs (s : State) (core n : Nat) : (s.addCycles core n).gangs = s.gangs := rfl
@[simp] theorem State.addCycles_ctxs (s : State) (core n : Nat) : (s.addCycles core n).ctxs = s.ctxs := rfl
@[simp] theorem State.addCycles_parts (s : State) (core n : Nat) : (s.addCycles core n).parts = s.parts := rfl
@[simp] theorem State.addCycles_launches (s : State) (core n : Nat) : (s.addCycles core n).launches = s.launches := rfl
@[simp] theorem State.addCycles_lcc (s : State) (core n : Nat) : (s.addCycles core n).lcc = s.lcc := rfl
@[simp] theorem State.addCycles_kregs (s : State) (core n : Nat) : (s.addCycles core n).kregs = s.kregs := rfl
@[simp] theorem State.addCycles_hbm (s : State) (core n : Nat) : (s.addCycles core n).hbm = s.hbm := rfl
@[simp] theorem State.addCycles_host (s : State) (core n : Nat) : (s.addCycles core n).host = s.host := rfl
@[simp] theorem State.addCycles_hist (s : State) (core n : Nat) : (s.addCycles core n).hist = s.hist := rfl
@[simp] theorem State.addCycles_cmds (s : State) (core n : Nat) : (s.addCycles core n).cmds = s.cmds := rfl
@[simp] theorem State.addCycles_reqs (s : State) (core n : Nat) : (s.addCycles core n).reqs = s.reqs := rfl
@[simp] theorem State.addCycles_buoys (s : State) (core n : Nat) : (s.addCycles core n).buoys = s.buoys := rfl
@[simp] theorem State.addCycles_xl (s : State) (core n : Nat) : (s.addCycles core n).xl = s.xl := rfl
@[simp] theorem State.addCycles_ats (s : State) (core n : Nat) : (s.addCycles core n).ats = s.ats := rfl
@[simp] theorem State.addCycles_atsInvals (s : State) (core n : Nat) : (s.addCycles core n).atsInvals = s.atsInvals := rfl
@[simp] theorem State.addCycles_accImages (s : State) (core n : Nat) : (s.addCycles core n).accImages = s.accImages := rfl
@[simp] theorem State.addCycles_tags (s : State) (core n : Nat) : (s.addCycles core n).tags = s.tags := rfl
@[simp] theorem State.addCycles_spares (s : State) (core n : Nat) : (s.addCycles core n).spares = s.spares := rfl
@[simp] theorem State.addCycles_poison (s : State) (core n : Nat) : (s.addCycles core n).poison = s.poison := rfl
@[simp] theorem State.addCycles_sinceC3 (s : State) (core n : Nat) : (s.addCycles core n).sinceC3 = s.sinceC3 := rfl
@[simp] theorem State.addCycles_hbmIf (s : State) (core n : Nat) : (s.addCycles core n).hbmIf = s.hbmIf := rfl
@[simp] theorem State.addCycles_ports (s : State) (core n : Nat) : (s.addCycles core n).ports = s.ports := rfl
@[simp] theorem State.addCycles_chans (s : State) (core n : Nat) : (s.addCycles core n).chans = s.chans := rfl
@[simp] theorem State.addCycles_comms (s : State) (core n : Nat) : (s.addCycles core n).comms = s.comms := rfl
@[simp] theorem State.addCycles_numbers (s : State) (core n : Nat) : (s.addCycles core n).numbers = s.numbers := rfl
@[simp] theorem State.addCycles_lastNumber (s : State) (core n : Nat) : (s.addCycles core n).lastNumber = s.lastNumber := rfl
@[simp] theorem State.addCycles_cancels (s : State) (core n : Nat) : (s.addCycles core n).cancels = s.cancels := rfl
@[simp] theorem State.addCycles_promoted (s : State) (core n : Nat) : (s.addCycles core n).promoted = s.promoted := rfl
@[simp] theorem State.addCycles_beaconLost (s : State) (core n : Nat) : (s.addCycles core n).beaconLost = s.beaconLost := rfl
@[simp] theorem State.addCycles_standbyUp (s : State) (core n : Nat) : (s.addCycles core n).standbyUp = s.standbyUp := rfl
@[simp] theorem State.addCycles_heartbeatAt (s : State) (core n : Nat) : (s.addCycles core n).heartbeatAt = s.heartbeatAt := rfl
@[simp] theorem State.addCycles_raiseOff (s : State) (core n : Nat) : (s.addCycles core n).raiseOff = s.raiseOff := rfl
@[simp] theorem State.addCycles_powerAt (s : State) (core n : Nat) : (s.addCycles core n).powerAt = s.powerAt := rfl
@[simp] theorem State.addCycles_hot (s : State) (core n : Nat) : (s.addCycles core n).hot = s.hot := rfl
@[simp] theorem State.addCycles_overLimit (s : State) (core n : Nat) : (s.addCycles core n).overLimit = s.overLimit := rfl
@[simp] theorem State.addCycles_coolSince (s : State) (core n : Nat) : (s.addCycles core n).coolSince = s.coolSince := rfl
@[simp] theorem State.addCycles_accel (s : State) (core n : Nat) : (s.addCycles core n).accel = s.accel := rfl
@[simp] theorem State.addCycles_boot (s : State) (core n : Nat) : (s.addCycles core n).boot = s.boot := rfl
@[simp] theorem State.addCycles_powerOff (s : State) (core n : Nat) : (s.addCycles core n).powerOff = s.powerOff := rfl
@[simp] theorem State.addCycles_hostStatus (s : State) (core n : Nat) : (s.addCycles core n).hostStatus = s.hostStatus := rfl
@[simp] theorem State.addCycles_mcast (s : State) (core n : Nat) : (s.addCycles core n).mcast = s.mcast := rfl
@[simp] theorem State.addCycles_flaws (s : State) (core n : Nat) : (s.addCycles core n).flaws = s.flaws := rfl
@[simp] theorem State.addCycles_dead (s : State) (core n : Nat) : (s.addCycles core n).dead = s.dead := rfl

@[simp] theorem State.kset_turns (s : State) (r : KReg) (v : W64) : (s.kset r v).turns = s.turns := rfl
@[simp] theorem State.kset_cur (s : State) (r : KReg) (v : W64) : (s.kset r v).cur = s.cur := rfl
@[simp] theorem State.kset_stalled (s : State) (r : KReg) (v : W64) : (s.kset r v).stalled = s.stalled := rfl
@[simp] theorem State.kset_inPlace (s : State) (r : KReg) (v : W64) : (s.kset r v).inPlace = s.inPlace := rfl
@[simp] theorem State.kset_clock (s : State) (r : KReg) (v : W64) : (s.kset r v).clock = s.clock := rfl
@[simp] theorem State.kset_stamp (s : State) (r : KReg) (v : W64) : (s.kset r v).stamp = s.stamp := rfl
@[simp] theorem State.kset_freeCtr (s : State) (r : KReg) (v : W64) : (s.kset r v).freeCtr = s.freeCtr := rfl
@[simp] theorem State.kset_now (s : State) (r : KReg) (v : W64) : (s.kset r v).now = s.now := rfl
@[simp] theorem State.kset_cycle (s : State) (r : KReg) (v : W64) : (s.kset r v).cycle = s.cycle := rfl
@[simp] theorem State.kset_cores (s : State) (r : KReg) (v : W64) : (s.kset r v).cores = s.cores := rfl
@[simp] theorem State.kset_bands (s : State) (r : KReg) (v : W64) : (s.kset r v).bands = s.bands := rfl
@[simp] theorem State.kset_gangs (s : State) (r : KReg) (v : W64) : (s.kset r v).gangs = s.gangs := rfl
@[simp] theorem State.kset_ctxs (s : State) (r : KReg) (v : W64) : (s.kset r v).ctxs = s.ctxs := rfl
@[simp] theorem State.kset_parts (s : State) (r : KReg) (v : W64) : (s.kset r v).parts = s.parts := rfl
@[simp] theorem State.kset_launches (s : State) (r : KReg) (v : W64) : (s.kset r v).launches = s.launches := rfl
@[simp] theorem State.kset_lcc (s : State) (r : KReg) (v : W64) : (s.kset r v).lcc = s.lcc := rfl
@[simp] theorem State.kset_hbm (s : State) (r : KReg) (v : W64) : (s.kset r v).hbm = s.hbm := rfl
@[simp] theorem State.kset_host (s : State) (r : KReg) (v : W64) : (s.kset r v).host = s.host := rfl
@[simp] theorem State.kset_hist (s : State) (r : KReg) (v : W64) : (s.kset r v).hist = s.hist := rfl
@[simp] theorem State.kset_cmds (s : State) (r : KReg) (v : W64) : (s.kset r v).cmds = s.cmds := rfl
@[simp] theorem State.kset_reqs (s : State) (r : KReg) (v : W64) : (s.kset r v).reqs = s.reqs := rfl
@[simp] theorem State.kset_buoys (s : State) (r : KReg) (v : W64) : (s.kset r v).buoys = s.buoys := rfl
@[simp] theorem State.kset_xl (s : State) (r : KReg) (v : W64) : (s.kset r v).xl = s.xl := rfl
@[simp] theorem State.kset_ats (s : State) (r : KReg) (v : W64) : (s.kset r v).ats = s.ats := rfl
@[simp] theorem State.kset_atsInvals (s : State) (r : KReg) (v : W64) : (s.kset r v).atsInvals = s.atsInvals := rfl
@[simp] theorem State.kset_accImages (s : State) (r : KReg) (v : W64) : (s.kset r v).accImages = s.accImages := rfl
@[simp] theorem State.kset_tags (s : State) (r : KReg) (v : W64) : (s.kset r v).tags = s.tags := rfl
@[simp] theorem State.kset_spares (s : State) (r : KReg) (v : W64) : (s.kset r v).spares = s.spares := rfl
@[simp] theorem State.kset_poison (s : State) (r : KReg) (v : W64) : (s.kset r v).poison = s.poison := rfl
@[simp] theorem State.kset_sinceC3 (s : State) (r : KReg) (v : W64) : (s.kset r v).sinceC3 = s.sinceC3 := rfl
@[simp] theorem State.kset_hbmIf (s : State) (r : KReg) (v : W64) : (s.kset r v).hbmIf = s.hbmIf := rfl
@[simp] theorem State.kset_ports (s : State) (r : KReg) (v : W64) : (s.kset r v).ports = s.ports := rfl
@[simp] theorem State.kset_chans (s : State) (r : KReg) (v : W64) : (s.kset r v).chans = s.chans := rfl
@[simp] theorem State.kset_comms (s : State) (r : KReg) (v : W64) : (s.kset r v).comms = s.comms := rfl
@[simp] theorem State.kset_numbers (s : State) (r : KReg) (v : W64) : (s.kset r v).numbers = s.numbers := rfl
@[simp] theorem State.kset_lastNumber (s : State) (r : KReg) (v : W64) : (s.kset r v).lastNumber = s.lastNumber := rfl
@[simp] theorem State.kset_cancels (s : State) (r : KReg) (v : W64) : (s.kset r v).cancels = s.cancels := rfl
@[simp] theorem State.kset_promoted (s : State) (r : KReg) (v : W64) : (s.kset r v).promoted = s.promoted := rfl
@[simp] theorem State.kset_beaconLost (s : State) (r : KReg) (v : W64) : (s.kset r v).beaconLost = s.beaconLost := rfl
@[simp] theorem State.kset_standbyUp (s : State) (r : KReg) (v : W64) : (s.kset r v).standbyUp = s.standbyUp := rfl
@[simp] theorem State.kset_heartbeatAt (s : State) (r : KReg) (v : W64) : (s.kset r v).heartbeatAt = s.heartbeatAt := rfl
@[simp] theorem State.kset_raiseOff (s : State) (r : KReg) (v : W64) : (s.kset r v).raiseOff = s.raiseOff := rfl
@[simp] theorem State.kset_powerAt (s : State) (r : KReg) (v : W64) : (s.kset r v).powerAt = s.powerAt := rfl
@[simp] theorem State.kset_hot (s : State) (r : KReg) (v : W64) : (s.kset r v).hot = s.hot := rfl
@[simp] theorem State.kset_overLimit (s : State) (r : KReg) (v : W64) : (s.kset r v).overLimit = s.overLimit := rfl
@[simp] theorem State.kset_coolSince (s : State) (r : KReg) (v : W64) : (s.kset r v).coolSince = s.coolSince := rfl
@[simp] theorem State.kset_accel (s : State) (r : KReg) (v : W64) : (s.kset r v).accel = s.accel := rfl
@[simp] theorem State.kset_boot (s : State) (r : KReg) (v : W64) : (s.kset r v).boot = s.boot := rfl
@[simp] theorem State.kset_powerOff (s : State) (r : KReg) (v : W64) : (s.kset r v).powerOff = s.powerOff := rfl
@[simp] theorem State.kset_hostStatus (s : State) (r : KReg) (v : W64) : (s.kset r v).hostStatus = s.hostStatus := rfl
@[simp] theorem State.kset_mcast (s : State) (r : KReg) (v : W64) : (s.kset r v).mcast = s.mcast := rfl
@[simp] theorem State.kset_flaws (s : State) (r : KReg) (v : W64) : (s.kset r v).flaws = s.flaws := rfl
@[simp] theorem State.kset_dead (s : State) (r : KReg) (v : W64) : (s.kset r v).dead = s.dead := rfl

@[simp] theorem State.setHbmIf_turns (s : State) (stack : Nat) (x : HbmIf) : (s.setHbmIf stack x).turns = s.turns := rfl
@[simp] theorem State.setHbmIf_cur (s : State) (stack : Nat) (x : HbmIf) : (s.setHbmIf stack x).cur = s.cur := rfl
@[simp] theorem State.setHbmIf_stalled (s : State) (stack : Nat) (x : HbmIf) : (s.setHbmIf stack x).stalled = s.stalled := rfl
@[simp] theorem State.setHbmIf_inPlace (s : State) (stack : Nat) (x : HbmIf) : (s.setHbmIf stack x).inPlace = s.inPlace := rfl
@[simp] theorem State.setHbmIf_clock (s : State) (stack : Nat) (x : HbmIf) : (s.setHbmIf stack x).clock = s.clock := rfl
@[simp] theorem State.setHbmIf_stamp (s : State) (stack : Nat) (x : HbmIf) : (s.setHbmIf stack x).stamp = s.stamp := rfl
@[simp] theorem State.setHbmIf_freeCtr (s : State) (stack : Nat) (x : HbmIf) : (s.setHbmIf stack x).freeCtr = s.freeCtr := rfl
@[simp] theorem State.setHbmIf_now (s : State) (stack : Nat) (x : HbmIf) : (s.setHbmIf stack x).now = s.now := rfl
@[simp] theorem State.setHbmIf_cycle (s : State) (stack : Nat) (x : HbmIf) : (s.setHbmIf stack x).cycle = s.cycle := rfl
@[simp] theorem State.setHbmIf_cores (s : State) (stack : Nat) (x : HbmIf) : (s.setHbmIf stack x).cores = s.cores := rfl
@[simp] theorem State.setHbmIf_bands (s : State) (stack : Nat) (x : HbmIf) : (s.setHbmIf stack x).bands = s.bands := rfl
@[simp] theorem State.setHbmIf_gangs (s : State) (stack : Nat) (x : HbmIf) : (s.setHbmIf stack x).gangs = s.gangs := rfl
@[simp] theorem State.setHbmIf_ctxs (s : State) (stack : Nat) (x : HbmIf) : (s.setHbmIf stack x).ctxs = s.ctxs := rfl
@[simp] theorem State.setHbmIf_parts (s : State) (stack : Nat) (x : HbmIf) : (s.setHbmIf stack x).parts = s.parts := rfl
@[simp] theorem State.setHbmIf_launches (s : State) (stack : Nat) (x : HbmIf) : (s.setHbmIf stack x).launches = s.launches := rfl
@[simp] theorem State.setHbmIf_lcc (s : State) (stack : Nat) (x : HbmIf) : (s.setHbmIf stack x).lcc = s.lcc := rfl
@[simp] theorem State.setHbmIf_kregs (s : State) (stack : Nat) (x : HbmIf) : (s.setHbmIf stack x).kregs = s.kregs := rfl
@[simp] theorem State.setHbmIf_hbm (s : State) (stack : Nat) (x : HbmIf) : (s.setHbmIf stack x).hbm = s.hbm := rfl
@[simp] theorem State.setHbmIf_host (s : State) (stack : Nat) (x : HbmIf) : (s.setHbmIf stack x).host = s.host := rfl
@[simp] theorem State.setHbmIf_hist (s : State) (stack : Nat) (x : HbmIf) : (s.setHbmIf stack x).hist = s.hist := rfl
@[simp] theorem State.setHbmIf_cmds (s : State) (stack : Nat) (x : HbmIf) : (s.setHbmIf stack x).cmds = s.cmds := rfl
@[simp] theorem State.setHbmIf_reqs (s : State) (stack : Nat) (x : HbmIf) : (s.setHbmIf stack x).reqs = s.reqs := rfl
@[simp] theorem State.setHbmIf_buoys (s : State) (stack : Nat) (x : HbmIf) : (s.setHbmIf stack x).buoys = s.buoys := rfl
@[simp] theorem State.setHbmIf_xl (s : State) (stack : Nat) (x : HbmIf) : (s.setHbmIf stack x).xl = s.xl := rfl
@[simp] theorem State.setHbmIf_ats (s : State) (stack : Nat) (x : HbmIf) : (s.setHbmIf stack x).ats = s.ats := rfl
@[simp] theorem State.setHbmIf_atsInvals (s : State) (stack : Nat) (x : HbmIf) : (s.setHbmIf stack x).atsInvals = s.atsInvals := rfl
@[simp] theorem State.setHbmIf_accImages (s : State) (stack : Nat) (x : HbmIf) : (s.setHbmIf stack x).accImages = s.accImages := rfl
@[simp] theorem State.setHbmIf_tags (s : State) (stack : Nat) (x : HbmIf) : (s.setHbmIf stack x).tags = s.tags := rfl
@[simp] theorem State.setHbmIf_spares (s : State) (stack : Nat) (x : HbmIf) : (s.setHbmIf stack x).spares = s.spares := rfl
@[simp] theorem State.setHbmIf_poison (s : State) (stack : Nat) (x : HbmIf) : (s.setHbmIf stack x).poison = s.poison := rfl
@[simp] theorem State.setHbmIf_sinceC3 (s : State) (stack : Nat) (x : HbmIf) : (s.setHbmIf stack x).sinceC3 = s.sinceC3 := rfl
@[simp] theorem State.setHbmIf_hbmIf (s : State) (stack : Nat) (x : HbmIf) : (s.setHbmIf stack x).hbmIf = SMap.set s.hbmIf HbmIf.idle stack x := rfl
@[simp] theorem State.setHbmIf_ports (s : State) (stack : Nat) (x : HbmIf) : (s.setHbmIf stack x).ports = s.ports := rfl
@[simp] theorem State.setHbmIf_chans (s : State) (stack : Nat) (x : HbmIf) : (s.setHbmIf stack x).chans = s.chans := rfl
@[simp] theorem State.setHbmIf_comms (s : State) (stack : Nat) (x : HbmIf) : (s.setHbmIf stack x).comms = s.comms := rfl
@[simp] theorem State.setHbmIf_numbers (s : State) (stack : Nat) (x : HbmIf) : (s.setHbmIf stack x).numbers = s.numbers := rfl
@[simp] theorem State.setHbmIf_lastNumber (s : State) (stack : Nat) (x : HbmIf) : (s.setHbmIf stack x).lastNumber = s.lastNumber := rfl
@[simp] theorem State.setHbmIf_cancels (s : State) (stack : Nat) (x : HbmIf) : (s.setHbmIf stack x).cancels = s.cancels := rfl
@[simp] theorem State.setHbmIf_promoted (s : State) (stack : Nat) (x : HbmIf) : (s.setHbmIf stack x).promoted = s.promoted := rfl
@[simp] theorem State.setHbmIf_beaconLost (s : State) (stack : Nat) (x : HbmIf) : (s.setHbmIf stack x).beaconLost = s.beaconLost := rfl
@[simp] theorem State.setHbmIf_standbyUp (s : State) (stack : Nat) (x : HbmIf) : (s.setHbmIf stack x).standbyUp = s.standbyUp := rfl
@[simp] theorem State.setHbmIf_heartbeatAt (s : State) (stack : Nat) (x : HbmIf) : (s.setHbmIf stack x).heartbeatAt = s.heartbeatAt := rfl
@[simp] theorem State.setHbmIf_raiseOff (s : State) (stack : Nat) (x : HbmIf) : (s.setHbmIf stack x).raiseOff = s.raiseOff := rfl
@[simp] theorem State.setHbmIf_powerAt (s : State) (stack : Nat) (x : HbmIf) : (s.setHbmIf stack x).powerAt = s.powerAt := rfl
@[simp] theorem State.setHbmIf_hot (s : State) (stack : Nat) (x : HbmIf) : (s.setHbmIf stack x).hot = s.hot := rfl
@[simp] theorem State.setHbmIf_overLimit (s : State) (stack : Nat) (x : HbmIf) : (s.setHbmIf stack x).overLimit = s.overLimit := rfl
@[simp] theorem State.setHbmIf_coolSince (s : State) (stack : Nat) (x : HbmIf) : (s.setHbmIf stack x).coolSince = s.coolSince := rfl
@[simp] theorem State.setHbmIf_accel (s : State) (stack : Nat) (x : HbmIf) : (s.setHbmIf stack x).accel = s.accel := rfl
@[simp] theorem State.setHbmIf_boot (s : State) (stack : Nat) (x : HbmIf) : (s.setHbmIf stack x).boot = s.boot := rfl
@[simp] theorem State.setHbmIf_powerOff (s : State) (stack : Nat) (x : HbmIf) : (s.setHbmIf stack x).powerOff = s.powerOff := rfl
@[simp] theorem State.setHbmIf_hostStatus (s : State) (stack : Nat) (x : HbmIf) : (s.setHbmIf stack x).hostStatus = s.hostStatus := rfl
@[simp] theorem State.setHbmIf_mcast (s : State) (stack : Nat) (x : HbmIf) : (s.setHbmIf stack x).mcast = s.mcast := rfl
@[simp] theorem State.setHbmIf_flaws (s : State) (stack : Nat) (x : HbmIf) : (s.setHbmIf stack x).flaws = s.flaws := rfl
@[simp] theorem State.setHbmIf_dead (s : State) (stack : Nat) (x : HbmIf) : (s.setHbmIf stack x).dead = s.dead := rfl

end Sys2Proof.Machine
end

