-- ==== Sys2Proof/Laws/Ops.lean ====
section
/-! SUPPORT. The shared operations of Machine/Ops.lean and Machine/Word.lean: bands, wefts and cores after a change, a word
that issues, and a word that finishes with no lane trapped. -/
namespace Sys2Proof.Machine
open Sys2Proof.Safety

/-! ## Bands, wefts, cores, contexts, registers of the keeper -/

theorem State.band?_modBand (s : State) (b c : Nat) (f : Band → Band) :
    (s.modBand b f).band? c = if c = b then (s.band? b).map f else s.band? c := by
  simp [State.band?, SMap.find?_modify]

theorem State.band?_modBand_self {s : State} {b : Nat} {bd : Band} (f : Band → Band) (h : s.band? b = some bd) :
    (s.modBand b f).band? b = some (f bd) := by simp [State.band?_modBand, h]

theorem State.band?_modBand_ne (s : State) {b c : Nat} (f : Band → Band) (h : c ≠ b) :
    (s.modBand b f).band? c = s.band? c := by simp [State.band?_modBand, h]

theorem State.band?_modWeft_self {s : State} {b : Nat} {bd : Band} (i : Nat) (f : Weft → Weft) (h : s.band? b = some bd) :
    (s.modWeft b i f).band? b = some (bd.modWeft i f) := State.band?_modBand_self _ h

theorem State.band?_modWeft_ne (s : State) {b c : Nat} (i : Nat) (f : Weft → Weft) (h : c ≠ b) :
    (s.modWeft b i f).band? c = s.band? c := State.band?_modBand_ne _ _ h

theorem Band.weft?_modWeft_self {bd : Band} {i : Nat} {w : Weft} (f : Weft → Weft) (h : bd.weft? i = some w) :
    (bd.modWeft i f).weft? i = some (f w) := by
  unfold Band.weft? at h
  simp [Band.modWeft, Band.weft?, h]

theorem Band.weft?_modWeft_ne (bd : Band) {i j : Nat} (f : Weft → Weft) (h : j ≠ i) :
    (bd.modWeft i f).weft? j = bd.weft? j := by
  simp [Band.modWeft, Band.weft?, Ne.symm h]

theorem State.weft?_some {s : State} {b i : Nat} {w : Weft} (h : s.weft? b i = some w) :
    ∃ bd, s.band? b = some bd ∧ bd.weft? i = some w := by
  unfold State.weft? at h
  cases hb : s.band? b with
  | none => simp [hb] at h
  | some bd => exact ⟨bd, rfl, by simpa [hb] using h⟩

theorem State.weft?_of {s : State} {b i : Nat} {bd : Band} {w : Weft} (hb : s.band? b = some bd)
    (h : bd.weft? i = some w) : s.weft? b i = some w := by simp [State.weft?, hb, h]

theorem State.weft?_modWeft_self {s : State} {b i : Nat} {w : Weft} (f : Weft → Weft) (h : s.weft? b i = some w) :
    (s.modWeft b i f).weft? b i = some (f w) := by
  obtain ⟨bd, hb, hw⟩ := State.weft?_some h
  exact State.weft?_of (State.band?_modWeft_self i f hb) (Band.weft?_modWeft_self f hw)

theorem State.weft?_modWeft_ne (s : State) {b i c j : Nat} (f : Weft → Weft) (h : ¬(c = b ∧ j = i)) :
    (s.modWeft b i f).weft? c j = s.weft? c j := by
  unfold State.weft?
  by_cases hc : c = b
  · subst c
    have hj : j ≠ i := fun e => h ⟨rfl, e⟩
    rw [State.modWeft, State.band?_modBand, if_pos rfl]
    cases s.band? b with
    | none => rfl
    | some bd => exact Band.weft?_modWeft_ne bd f hj
  · rw [State.band?_modWeft_ne s i f hc]

theorem State.core_modCore (s : State) (c d : Nat) (f : Core → Core) :
    (s.modCore c f).core d = if d = c then f (s.core c) else s.core d := SMap.get_set _ _ _ _ _

theorem State.ctx?_modCtx (s : State) (c d : Nat) (f : Context → Context) :
    (s.modCtx c f).ctx? d = if d = c then (s.ctx? c).map f else s.ctx? d := SMap.find?_modify _ _ _ _

theorem State.part?_modPart (s : State) (p q : Nat) (f : Partition → Partition) :
    (s.modPart p f).part? q = if q = p then (s.part? p).map f else s.part? q := SMap.find?_modify _ _ _ _

theorem State.uport_modUport (s : State) (p q : Nat) (f : Port → Port) :
    (s.modUport p f).uport q = if q = p then f (s.uport p) else s.uport q := SMap.get_set _ _ _ _ _

theorem State.chan_modChan (s : State) (n k : Nat) (f : Channel → Channel) :
    (s.modChan n f).chan k = if k = n then f (s.chan n) else s.chan k := SMap.get_set _ _ _ _ _

theorem State.req?_setReq (s : State) (id k : Nat) (r : FarReq) :
    (s.setReq id r).req? k = if k = id then some r else s.req? k := SMap.find?_insert _ _ _ _

theorem State.req?_dropReq (s : State) (id k : Nat) :
    (s.dropReq id).req? k = if k = id then none else s.req? k := SMap.find?_erase _ _ _

theorem State.kget_kset (s : State) (r x : KReg) (v : W64) :
    (s.kset r v).kget x = if x = r then v else s.kget x := by
  have others : ∀ l : List (KReg × W64), (l.filter (fun e => decide (e.1 ≠ r))).find? (fun e => decide (e.1 = x))
      = if x = r then none else l.find? (fun e => decide (e.1 = x)) := by
    intro l
    induction l with
    | nil => simp
    | cons e l ih =>
      by_cases he : e.1 = r
      · rw [List.filter_cons, if_neg (by simp [he]), ih]
        by_cases hx : x = r
        · simp [hx]
        · rw [if_neg hx, if_neg hx, List.find?_cons]
          have : ¬e.1 = x := fun h => hx (h ▸ he)
          simp [this]
      · rw [List.filter_cons, if_pos (by simp [he]), List.find?_cons, List.find?_cons, ih]
        by_cases hex : e.1 = x
        · have : x ≠ r := fun h => he (hex.trans h)
          simp [hex, this]
        · simp [hex]
  unfold State.kset State.kget
  simp only
  split
  · rename_i hv
    rw [others]
    by_cases hx : x = r
    · simp [hx, hv]
    · simp [hx]
  · rw [List.find?_cons]
    by_cases hx : x = r
    · simp [hx]
    · have : ¬r = x := fun h => hx h.symm
      simp only [this, decide_false, others, hx, if_false]

/-! ## Memory by place -/

theorem State.mem_setMem_hbm (s : State) (m : Mem) : (s.setMem .hbm m).mem .hbm = m := rfl

theorem State.mem_setMem_host (s : State) (m : Mem) : (s.setMem .host m).mem .host = m := rfl

theorem State.mem_setMem_band (s : State) (b : Nat) (m : Mem) (h : (s.band? b).isSome) :
    (s.setMem (.band b) m).mem (.band b) = m := by
  obtain ⟨bd, hb⟩ := Option.isSome_iff_exists.mp h
  simp [State.setMem, State.mem, State.band?_modBand, hb]

theorem State.mem_setMem_die (s : State) (c d : Nat) (m : Mem) (h : (s.ctx? c).isSome) :
    (s.setMem (.die c d) m).mem (.die c d) = m := by
  obtain ⟨x, hx⟩ := Option.isSome_iff_exists.mp h
  simp [State.setMem, State.mem, State.ctx?_modCtx, hx, SMap.get_set]

theorem State.mem_setMem_ne (s : State) (p q : Place) (m : Mem) (h : q ≠ p) : (s.setMem p m).mem q = s.mem q := by
  cases p <;> cases q <;>
    simp only [State.setMem, State.mem, State.band?_modBand, State.ctx?_modCtx, ne_eq, Place.band.injEq, Place.die.injEq,
      not_true_eq_false, State.modBand_hbm, State.modBand_host, State.modCtx_hbm, State.modCtx_host] at h ⊢
  · rw [if_neg h]
  · rfl
  · rfl
  · rename_i c d c' d'
    by_cases hc : c' = c
    · subst c'
      have hd : d' ≠ d := fun e => h ⟨rfl, e⟩
      rw [if_pos rfl]
      cases s.ctx? c with
      | none => rfl
      | some x => simp [SMap.get_set, hd]
    · rw [if_neg hc]
  all_goals rfl

/-! ## Issuing a word -/

theorem State.current_some {s : State} {b i : Nat} {bd : Band} {w : Weft} (h : s.current = some (b, i, bd, w)) :
    s.cur = some (b, i) ∧ s.band? b = some bd ∧ bd.weft? i = some w ∧ w.bundle ≠ 0 := by
  unfold State.current at h
  split at h
  · simp at h
  · rename_i b' i' hc
    split at h
    · simp at h
    · rename_i bd' hb
      split at h
      · simp at h
      · rename_i w' hw
        split at h
        · simp at h
        · rename_i hz
          simp only [Option.some.injEq, Prod.mk.injEq] at h
          obtain ⟨rfl, rfl, rfl, rfl⟩ := h
          exact ⟨hc, hb, hw, hz⟩

/-- A word whose checks pass and whose registers have come runs its own effect. -/
theorem State.issue_of {s : State} {b i : Nat} {bd : Band} {w : Weft} {n : Needs} (h : Issues s b i bd w n)
    (k : Nat → Nat → Band → Weft → Out) : s.issue n k = k b i bd w := by
  have ha := h.awaits
  simp only [Weft.awaits, List.any_eq_false] at ha
  have hm : w.await.any (fun a => n.keys.contains a.key && !bd.mrdWaits a) = false := by
    rw [List.any_eq_false]
    intro x hx
    simpa using fun hk => absurd (by simpa using hk) (ha x hx)
  unfold State.issue
  rw [h.current]
  simp only [h.checks, h.awaits, h.latches, hm, Bool.or_false, Bool.false_eq_true, if_false]

/-- A word that a decode-time check refuses traps every lane of its bundle. -/
theorem State.issue_refused {s : State} {b i : Nat} {bd : Band} {w : Weft} {n : Needs} {c : Cause}
    (h : s.current = some (b, i, bd, w)) (hc : preCheck bd w n = some c) (k : Nat → Nat → Band → Weft → Out) :
    s.issue n k = .next (s.trapAll b i bd w n.latch c) := by
  simp [State.issue, h, hc]

/-- Without a current weft no word issues. -/
theorem State.issue_none {s : State} (h : s.current = none) (n : Needs) (k : Nat → Nat → Band → Weft → Out) :
    s.issue n k = .refused .noBundle := by simp [State.issue, h]

/-- A lane word whose checks pass finishes with what its weft makes of it. -/
theorem State.runPrep_of {s : State} {b i : Nat} {bd : Band} {w : Weft} (mk : Weft → Prep)
    (h : Issues s b i bd w (mk w).needs) :
    s.runPrep mk = .next (s.finish b i bd w (mk w).needs.latch (mk w).eff) := by
  unfold State.runPrep
  rw [h.current]
  exact State.issue_of h _

/-! ## Finishing a word -/

/-- No trap is no change. -/
theorem State.trapWeft_nil (s : State) (b i : Nat) (pc resume : W64) (chain : Bool) :
    s.trapWeft b i [] pc resume chain = match s.band? b, s.weft? b i with
      | some _, some _ => s.modWeft b i id
      | _, _ => s := by
  unfold State.trapWeft State.enterTraps
  simp only [List.filter_nil, List.isEmpty_nil, if_true, List.foldl_nil]
  cases hb : s.band? b with
  | none => rfl
  | some bd =>
    cases hw : s.weft? b i with
    | none => rfl
    | some w =>
      have e : (fun w : Weft => ({ { w with reform := w.reform || !true } with subs := w.subs } : Weft)) = id := by
        funext w; cases w; simp
      simp only [e, List.map_nil, List.eraseDups_nil, List.isEmpty_nil, if_true, List.foldl_nil]

/-- A change of one weft changes nothing else. -/
theorem State.onlyWeft_modWeft (s : State) (b i : Nat) (f : Weft → Weft) : OnlyWeft s (s.modWeft b i f) b i := by
  refine ⟨rfl, fun c hc => State.band?_modWeft_ne s i f hc, fun bd hb => ⟨bd.wefts.modify i f, ?_, fun j hj => ?_⟩⟩
  · exact State.band?_modWeft_self i f hb
  · simp [Ne.symm hj]

theorem State.onlyWeft_trans {s t u : State} {b i : Nat} (h : OnlyWeft s t b i) (k : OnlyWeft t u b i) : OnlyWeft s u b i := by
  refine ⟨?_, fun c hc => (k.bands c hc).trans (h.bands c hc), fun bd hb => ?_⟩
  · have := k.rest
    rw [h.rest] at this
    exact this
  · obtain ⟨ws, e, p⟩ := h.band bd hb
    obtain ⟨vs, e', p'⟩ := k.band _ e
    exact ⟨vs, e', fun j hj => (p' j hj).trans (p j hj)⟩

theorem State.onlyWeft_addCycles (s : State) (c n b i : Nat) : OnlyWeft s (s.addCycles c n) b i :=
  ⟨rfl, fun _ _ => rfl, fun bd hb => ⟨bd.wefts, hb, fun _ _ => rfl⟩⟩

theorem State.onlyWeft_refl (s : State) (b i : Nat) : OnlyWeft s s b i :=
  ⟨rfl, fun _ _ => rfl, fun bd hb => ⟨bd.wefts, hb, fun _ _ => rfl⟩⟩

/-- A word that no lane's trap stops: its weft is what `apply` makes of it, and nothing else changes but the cycle count. -/
theorem State.finish_calm {s : State} {b i : Nat} {bd : Band} {w : Weft} (hb : s.band? b = some bd)
    (hw : bd.weft? i = some w) (latch : List (Nat × Nat)) (eff : Eff) (h : eff.traps = []) :
    OnlyWeft s (s.finish b i bd w latch eff) b i ∧
      (s.finish b i bd w latch eff).weft? b i = some (w.apply eff (w.chainFor (latch.map (fun r => r.2)))) := by
  have hw0 : (s.countCore bd w).weft? b i = some w := State.weft?_of (s := s.countCore bd w) hb hw
  have e : s.finish b i bd w latch eff
      = ((s.countCore bd w).modWeft b i (fun w => w.apply eff (w.chainFor (latch.map (fun r => r.2))))).modWeft b i id := by
    have hm := State.weft?_modWeft_self (fun v => v.apply eff (w.chainFor (latch.map (fun r => r.2)))) hw0
    obtain ⟨bd', hb', -⟩ := State.weft?_some hm
    unfold State.finish
    rw [h]
    simp only [State.trapWeft_nil, hb', hm]
    congr 1
    unfold State.modWeft State.modBand
    have hbc : SMap.find? (s.countCore bd w).bands b = some bd := hb
    simp only [SMap.modify, hbc]
    have : bd.modWeft i (fun v => v.apply eff (w.chainFor (latch.map (fun r => r.2))))
        = bd.modWeft i (fun v => v.apply eff (v.chainFor (latch.map (fun r => r.2)))) := by
      unfold Band.modWeft
      congr 1
      apply List.ext_getElem?
      intro j
      rw [List.getElem?_modify, List.getElem?_modify]
      split
      · subst j
        have : bd.wefts[i]? = some w := hw
        simp [this]
      · rfl
    rw [this]
  rw [e]
  refine ⟨?_, ?_⟩
  · exact State.onlyWeft_trans (State.onlyWeft_trans (State.onlyWeft_addCycles s _ _ b i) (State.onlyWeft_modWeft _ b i _))
      (State.onlyWeft_modWeft _ b i _)
  · rw [State.weft?_modWeft_self id (State.weft?_modWeft_self _ hw0)]; rfl

end Sys2Proof.Machine
end

