-- ==== Sys2Proof/Laws/Words.lean ====
section
/-! SUPPORT. What a lane word does to its weft: registers, predicates, flags and lanes after the writes of its lanes, the latch
entry that it pushes, and the effect of one operation where nothing traps. -/
namespace Sys2Proof.Machine
open Sys2Proof.Safety

/-! ## Lanes and masks -/

theorem laneMem {width : Nat} {m : W64} {l : Nat} : l ∈ laneList width m ↔ l < width ∧ m.getLsbD l = true := by
  simp [laneList]

theorem laneList_nodup (width : Nat) (m : W64) : (laneList width m).Nodup := List.nodup_range.filter _

theorem laneList_lt64 {width : Nat} {m : W64} {l : Nat} (h : l ∈ laneList width m) : l < 64 := by
  have := (laneMem.mp h).2
  exact BitVec.lt_of_getLsbD this

theorem acts_iff {w : Weft} {g : Guard} {l : Nat} : Acts w g l ↔ l ∈ laneList w.width (w.act g) := laneMem.symm

theorem acts_lt64 {w : Weft} {g : Guard} {l : Nat} (h : Acts w g l) : l < 64 := BitVec.lt_of_getLsbD h.2

theorem acts_bundle {w : Weft} {g : Guard} {l : Nat} (h : Acts w g l) : w.bundle.getLsbD l = true := by
  have := h.2
  simp [Weft.act] at this
  exact this.1

theorem bundleLanes_mem {w : Weft} {l : Nat} : l ∈ w.bundleLanes ↔ l < w.width ∧ w.bundle.getLsbD l = true := laneMem

theorem lane_modLanes (w : Weft) (m : W64) (f : Lane → Lane) (l : Nat) (h : l < w.lanes.length) :
    (w.modLanes m f).lane l = if m.getLsbD l then f (w.lane l) else w.lane l := by
  simp [Weft.modLanes, Weft.lane, List.getD_eq_getElem?_getD, h]

theorem lane_modLanes_out (w : Weft) (m : W64) (f : Lane → Lane) (l : Nat) (h : w.lanes.length ≤ l) :
    (w.modLanes m f).lane l = w.lane l := by
  simp [Weft.modLanes, Weft.lane, List.getD_eq_getElem?_getD, h]

theorem lane_modLane (w : Weft) (i : Nat) (f : Lane → Lane) (l : Nat) :
    (w.modLane i f).lane l = if l = i ∧ l < w.lanes.length then f (w.lane l) else w.lane l := by
  simp only [Weft.modLane, Weft.lane, List.getD_eq_getElem?_getD, List.getElem?_modify]
  by_cases h : i = l
  · subst i
    by_cases hl : l < w.lanes.length
    · simp [hl]
    · simp [hl]
  · have : ¬l = i := fun e => h e.symm
    simp [h, this]

/-! ## Registers -/

theorem vget_vset (w : Weft) (r k : Nat) (x : W32) (q l : Nat) (hk : k < 64) (hl : l < 64) :
    (w.vset r k x).vget q l = if q = r ∧ l = k then x else w.vget q l := by
  simp only [Weft.vset, Weft.vget, SMap.get_set]
  have : q * 64 + l = r * 64 + k ↔ q = r ∧ l = k := by omega
  simp only [this]

theorem sget_swrite (w : Weft) (r q : Nat) (x : W64) : (w.swrite r x).sget q = if q = r then x else w.sget q := by
  simp only [Weft.swrite, Weft.sset, Weft.sget, SMap.get_set]

theorem pget_pset (w : Weft) (p q : Nat) (m x : W64) (h : p ≠ 7) :
    (w.pset p m x).pget q = if q = p then (w.pget p &&& ~~~m) ||| (x &&& m) else w.pget q := by
  unfold Weft.pget Weft.pset
  by_cases hq : q = 7
  · subst q; simp [Ne.symm h]
  · simp only [hq, if_false, SMap.get_set]
    split
    · simp [Weft.pget, h]
    · rfl

theorem pget7 (w : Weft) : w.pget 7 = allLanes := by simp [Weft.pget]

/-- A register after a list of writes of its lane. -/
def lastV (vs : List (Nat × W32)) (r : Nat) (old : W32) : W32 := vs.foldl (fun a x => if x.1 = r then x.2 else a) old

/-- A predicate bit after a list of writes of its lane. -/
def lastP (ps : List (Nat × Bool)) (r : Nat) (old : Bool) : Bool := ps.foldl (fun a x => if x.1 = r then x.2 else a) old

theorem vget_foldl_vset (vs : List (Nat × W32)) (w : Weft) (k r l : Nat) (hk : k < 64) (hl : l < 64) :
    (vs.foldl (fun w x => w.vset x.1 k x.2) w).vget r l = if l = k then lastV vs r (w.vget r l) else w.vget r l := by
  induction vs generalizing w with
  | nil => simp [lastV]
  | cons x xs ih =>
    rw [List.foldl_cons, ih, vget_vset _ _ _ _ _ _ hk hl]
    by_cases h : l = k
    · simp only [h, if_true, and_true, lastV, List.foldl_cons]
      by_cases hx : x.1 = r
      · simp [hx]
      · simp [hx, Ne.symm hx]
    · simp [h]

/-- The parts of a weft that the writes of its lanes may touch. -/
def LaneWrites (w w' : Weft) : Prop := ∃ v p f a fl ls, w' = { w with v := v, p := p, failed := f, await := a, flags := fl, lanes := ls }

theorem LaneWrites.refl' (w : Weft) : LaneWrites w w := ⟨_, _, _, _, _, _, rfl⟩

theorem LaneWrites.trans' {a b c : Weft} (h : LaneWrites a b) (k : LaneWrites b c) : LaneWrites a c := by
  obtain ⟨_, _, _, _, _, _, rfl⟩ := h
  obtain ⟨_, _, _, _, _, _, rfl⟩ := k
  exact ⟨_, _, _, _, _, _, rfl⟩

theorem laneWrites_foldl {β : Type} (f : Weft → β → Weft) (h : ∀ w x, LaneWrites w (f w x)) (xs : List β) (w : Weft) :
    LaneWrites w (xs.foldl f w) := by
  induction xs generalizing w with
  | nil => exact .refl' w
  | cons x xs ih => exact (h w x).trans' (ih _)

/-- The registers and predicates of a lane's writes. -/
def Weft.laneRegs (w : Weft) (e : LaneEff) : Weft :=
  e.p.foldl (fun w x => w.pset x.1 (1#64 <<< e.lane) (if x.2 then allLanes else 0))
    (e.v.foldl (fun w x => w.vset x.1 e.lane x.2) w)

/-- The stochastic-rounding state of a lane's writes. -/
def Weft.laneRs (w : Weft) (e : LaneEff) : Weft :=
  match e.rs with
  | none => w
  | some x => w.modLane e.lane (fun l => { l with rs := x })

theorem applyLane_form (w : Weft) (e : LaneEff) : w.applyLane e = if (((w.laneRegs e).laneRs e).lane e.lane).helper = true
    then (w.laneRegs e).laneRs e else ((w.laneRegs e).laneRs e).raiseFlags e.exc := rfl

theorem applyLane_cases (w : Weft) (e : LaneEff) (P : Weft → Prop) (h1 : P ((w.laneRegs e).laneRs e))
    (h2 : P (((w.laneRegs e).laneRs e).raiseFlags e.exc)) : P (w.applyLane e) := by
  rw [applyLane_form]
  by_cases h : (((w.laneRegs e).laneRs e).lane e.lane).helper = true
  · rw [if_pos h]; exact h1
  · rw [if_neg h]; exact h2

theorem laneRs_shape (w : Weft) (e : LaneEff) : ∃ ls, w.laneRs e = { w with lanes := ls } := by
  unfold Weft.laneRs
  cases e.rs with
  | none => exact ⟨_, rfl⟩
  | some x => exact ⟨_, rfl⟩

theorem laneWrites_applyLane (w : Weft) (e : LaneEff) : LaneWrites w (w.applyLane e) := by
  have hv := laneWrites_foldl (fun w (x : Nat × W32) => w.vset x.1 e.lane x.2) (fun w x => ⟨_, _, _, _, _, _, rfl⟩) e.v w
  have hp := laneWrites_foldl (fun w (x : Nat × Bool) => w.pset x.1 (1#64 <<< e.lane) (if x.2 then allLanes else 0))
    (fun w x => ⟨_, _, _, _, _, _, rfl⟩) e.p (e.v.foldl (fun w x => w.vset x.1 e.lane x.2) w)
  refine (hv.trans' hp).trans' ?_
  obtain ⟨ls, h⟩ := laneRs_shape (w.laneRegs e) e
  refine applyLane_cases w e (fun u => LaneWrites (w.laneRegs e) u) ?_ ?_
  · rw [h]; exact ⟨_, _, _, _, _, _, rfl⟩
  · rw [h]; exact ⟨_, _, _, _, _, _, rfl⟩

/-- What the predicate and register folds of a lane leave alone of each other. -/
theorem vget_foldl_pset (ps : List (Nat × Bool)) (w : Weft) (m : W64) (r l : Nat) :
    (ps.foldl (fun w x => w.pset x.1 m (if x.2 then allLanes else 0)) w).vget r l = w.vget r l := by
  induction ps generalizing w with
  | nil => rfl
  | cons x xs ih => rw [List.foldl_cons, ih]; rfl

theorem pget_foldl_vset (vs : List (Nat × W32)) (w : Weft) (k r : Nat) :
    (vs.foldl (fun w x => w.vset x.1 k x.2) w).pget r = w.pget r := by
  induction vs generalizing w with
  | nil => rfl
  | cons x xs ih => rw [List.foldl_cons, ih]; rfl

theorem pget_foldl_pset (ps : List (Nat × Bool)) (w : Weft) (k r l : Nat) (h7 : ∀ x ∈ ps, x.1 ≠ 7) (hl : l < 64) :
    ((ps.foldl (fun w x => w.pset x.1 (1#64 <<< k) (if x.2 then allLanes else 0)) w).pget r).getLsbD l
      = if l = k then lastP ps r ((w.pget r).getLsbD l) else (w.pget r).getLsbD l := by
  induction ps generalizing w with
  | nil => simp [lastP]
  | cons x xs ih =>
    rw [List.foldl_cons, ih _ (fun y hy => h7 y (List.mem_cons_of_mem _ hy)), pget_pset _ _ _ _ _ (h7 x (List.mem_cons_self ..))]
    have hbit : (1#64 <<< k).getLsbD l = decide (l = k) := by
      rw [BitVec.getLsbD_shiftLeft, BitVec.getLsbD_one]
      by_cases e : l = k
      · simp [e] at hl ⊢; exact hl
      · by_cases lt : l < k
        · simp [e, lt]
        · have : l - k ≠ 0 := by omega
          simp [e, this]
    by_cases hr : r = x.1
    · subst hr
      rw [if_pos rfl]
      by_cases e : l = k
      · subst e
        simp only [if_true, lastP, List.foldl_cons]
        congr 1
        rw [BitVec.getLsbD_or, BitVec.getLsbD_and, BitVec.getLsbD_and, BitVec.getLsbD_not, hbit]
        cases x.2 <;> simp [allLanes, hl, -BitVec.reduceAllOnes]
      · rw [BitVec.getLsbD_or, BitVec.getLsbD_and, BitVec.getLsbD_and, BitVec.getLsbD_not, hbit]
        simp [e, hl]
    · rw [if_neg hr]
      simp only [lastP, List.foldl_cons, if_neg (Ne.symm hr : ¬x.1 = r)]

theorem applyLane_vget (w : Weft) (e : LaneEff) (r l : Nat) (he : e.lane < 64) (hl : l < 64) :
    (w.applyLane e).vget r l = if l = e.lane then lastV e.v r (w.vget r l) else w.vget r l := by
  rw [← vget_foldl_vset e.v w e.lane r l he hl,
    ← vget_foldl_pset e.p (e.v.foldl (fun w x => w.vset x.1 e.lane x.2) w) (1#64 <<< e.lane)]
  obtain ⟨ls, h⟩ := laneRs_shape (w.laneRegs e) e
  refine applyLane_cases w e (fun u => u.vget r l = (w.laneRegs e).vget r l) ?_ ?_
  · rw [h]; rfl
  · rw [h]; rfl

theorem applyLane_pget (w : Weft) (e : LaneEff) (r l : Nat) (h7 : ∀ x ∈ e.p, x.1 ≠ 7) (hl : l < 64) :
    ((w.applyLane e).pget r).getLsbD l
      = if l = e.lane then lastP e.p r ((w.pget r).getLsbD l) else (w.pget r).getLsbD l := by
  have := pget_foldl_pset e.p (e.v.foldl (fun w x => w.vset x.1 e.lane x.2) w) e.lane r l h7 hl
  rw [pget_foldl_vset] at this
  rw [← this]
  obtain ⟨ls, h⟩ := laneRs_shape (w.laneRegs e) e
  refine applyLane_cases w e (fun u => (u.pget r).getLsbD l = ((w.laneRegs e).pget r).getLsbD l) ?_ ?_
  · rw [h]; rfl
  · rw [h]; rfl

/-- A lane's register after the writes of lanes with different numbers. -/
theorem foldl_applyLane_vget (es : List LaneEff) (w : Weft) (r l : Nat) (hl : l < 64) (nd : (es.map LaneEff.lane).Nodup)
    (h64 : ∀ e ∈ es, e.lane < 64) :
    (es.foldl Weft.applyLane w).vget r l = match es.find? (fun e => e.lane == l) with
      | some e => lastV e.v r (w.vget r l)
      | none => w.vget r l := by
  induction es generalizing w with
  | nil => rfl
  | cons e es ih =>
    rw [List.map_cons, List.nodup_cons] at nd
    rw [List.foldl_cons, ih _ nd.2 (fun x hx => h64 x (List.mem_cons_of_mem _ hx)),
      applyLane_vget _ _ _ _ (h64 e (List.mem_cons_self ..)) hl, List.find?_cons]
    by_cases h : e.lane = l
    · subst h
      have hn : es.find? (fun x => x.lane == e.lane) = none := by
        rw [List.find?_eq_none]
        intro x hx hc
        exact nd.1 (List.mem_map.mpr ⟨x, hx, by simpa using hc⟩)
      simp [hn]
    · have : ¬l = e.lane := fun x => h x.symm
      simp only [if_neg this, beq_eq_false_iff_ne.mpr h]

theorem foldl_applyLane_pget (es : List LaneEff) (w : Weft) (r l : Nat) (hl : l < 64) (nd : (es.map LaneEff.lane).Nodup)
    (h7 : ∀ e ∈ es, ∀ x ∈ e.p, x.1 ≠ 7) :
    ((es.foldl Weft.applyLane w).pget r).getLsbD l = match es.find? (fun e => e.lane == l) with
      | some e => lastP e.p r ((w.pget r).getLsbD l)
      | none => (w.pget r).getLsbD l := by
  induction es generalizing w with
  | nil => rfl
  | cons e es ih =>
    rw [List.map_cons, List.nodup_cons] at nd
    rw [List.foldl_cons, ih _ nd.2 (fun x hx => h7 x (List.mem_cons_of_mem _ hx)),
      applyLane_pget _ _ _ _ (h7 e (List.mem_cons_self ..)) hl, List.find?_cons]
    by_cases h : e.lane = l
    · subst h
      have hn : es.find? (fun x => x.lane == e.lane) = none := by
        rw [List.find?_eq_none]
        intro x hx hc
        exact nd.1 (List.mem_map.mpr ⟨x, hx, by simpa using hc⟩)
      simp [hn]
    · have : ¬l = e.lane := fun x => h x.symm
      simp only [if_neg this, beq_eq_false_iff_ne.mpr h]

/-! ## Lanes and flags -/

/-- A lane but its stochastic-rounding state. -/
def Lane.sansRs (l : Lane) : Lane := { l with rs := 0 }

theorem laneRegs_same (w : Weft) (e : LaneEff) : (w.laneRegs e).lanes = w.lanes ∧ (w.laneRegs e).flags = w.flags := by
  have hv : ∀ (vs : List (Nat × W32)) (u : Weft),
      (vs.foldl (fun w x => w.vset x.1 e.lane x.2) u).lanes = u.lanes ∧
      (vs.foldl (fun w x => w.vset x.1 e.lane x.2) u).flags = u.flags := by
    intro vs
    induction vs with
    | nil => intro u; exact ⟨rfl, rfl⟩
    | cons x xs ih => intro u; rw [List.foldl_cons, (ih _).1, (ih _).2]; exact ⟨rfl, rfl⟩
  have hp : ∀ (ps : List (Nat × Bool)) (u : Weft),
      (ps.foldl (fun w x => w.pset x.1 (1#64 <<< e.lane) (if x.2 then allLanes else 0)) u).lanes = u.lanes ∧
      (ps.foldl (fun w x => w.pset x.1 (1#64 <<< e.lane) (if x.2 then allLanes else 0)) u).flags = u.flags := by
    intro ps
    induction ps with
    | nil => intro u; exact ⟨rfl, rfl⟩
    | cons x xs ih => intro u; rw [List.foldl_cons, (ih _).1, (ih _).2]; exact ⟨rfl, rfl⟩
  exact ⟨(hp _ _).1.trans (hv _ _).1, (hp _ _).2.trans (hv _ _).2⟩

theorem lane_of_lanes {w u : Weft} (h : u.lanes = w.lanes) (l : Nat) : u.lane l = w.lane l := by simp [Weft.lane, h]

theorem laneRs_lane (w : Weft) (e : LaneEff) (l : Nat) :
    ((w.laneRs e).lane l).sansRs = (w.lane l).sansRs ∧ (w.laneRs e).lanes.length = w.lanes.length ∧
      (w.laneRs e).flags = w.flags := by
  unfold Weft.laneRs
  cases e.rs with
  | none => exact ⟨rfl, rfl, rfl⟩
  | some x =>
    refine ⟨?_, by simp [Weft.modLane], rfl⟩
    simp only [lane_modLane]
    split <;> rfl

theorem applyLane_lane (w : Weft) (e : LaneEff) (l : Nat) :
    ((w.applyLane e).lane l).sansRs = (w.lane l).sansRs ∧ (w.applyLane e).lanes.length = w.lanes.length := by
  have h1 := laneRs_lane (w.laneRegs e) e l
  have h2 := laneRegs_same w e
  rw [lane_of_lanes h2.1, h2.1] at h1
  exact applyLane_cases w e (fun u => (u.lane l).sansRs = (w.lane l).sansRs ∧ u.lanes.length = w.lanes.length)
    ⟨h1.1, h1.2.1⟩ ⟨h1.1, h1.2.1⟩

theorem foldl_applyLane_lane (es : List LaneEff) (w : Weft) (l : Nat) :
    ((es.foldl Weft.applyLane w).lane l).sansRs = (w.lane l).sansRs ∧
      (es.foldl Weft.applyLane w).lanes.length = w.lanes.length := by
  induction es generalizing w with
  | nil => exact ⟨rfl, rfl⟩
  | cons e es ih =>
    rw [List.foldl_cons]
    exact ⟨(ih _).1.trans (applyLane_lane w e l).1, (ih _).2.trans (applyLane_lane w e l).2⟩

/-- The flags that a lane adds: none where it is a helper (R94). -/
def laneFlags (w : Weft) (e : LaneEff) : W64 := if (w.lane e.lane).helper then 0 else e.exc.setWidth 64

theorem sansRs_helper {a b : Lane} (h : a.sansRs = b.sansRs) : a.helper = b.helper := by
  have : a.sansRs.helper = b.sansRs.helper := by rw [h]
  exact this

theorem applyLane_flags (w : Weft) (e : LaneEff) : (w.applyLane e).flags = w.flags ||| laneFlags w e := by
  have h1 := laneRs_lane (w.laneRegs e) e e.lane
  have h2 := laneRegs_same w e
  rw [lane_of_lanes h2.1] at h1
  rw [applyLane_form, laneFlags, sansRs_helper h1.1]
  split
  · rw [h1.2.2, h2.2]; simp
  · simp [Weft.raiseFlags, h1.2.2, h2.2]

theorem foldl_applyLane_flags (es : List LaneEff) (w : Weft) :
    (es.foldl Weft.applyLane w).flags = es.foldl (fun a e => a ||| laneFlags w e) w.flags := by
  have gen : ∀ (es : List LaneEff) (u : Weft) (x : W64), u.flags = x → (∀ k, (u.lane k).helper = (w.lane k).helper) →
      (es.foldl Weft.applyLane u).flags = es.foldl (fun a e => a ||| laneFlags w e) x := by
    intro es
    induction es with
    | nil => intro u x h _; exact h
    | cons e es ih =>
      intro u x hx hh
      rw [List.foldl_cons, List.foldl_cons]
      refine ih _ _ ?_ (fun k => (sansRs_helper (applyLane_lane u e k).1).trans (hh k))
      rw [applyLane_flags, hx]
      simp [laneFlags, hh]
  exact gen es w w.flags rfl (fun _ => rfl)

theorem sansRs_pc {a b : Lane} (h : a.sansRs = b.sansRs) (x : W64) :
    ({ a with pc := a.pc + x } : Lane).sansRs = ({ b with pc := b.pc + x } : Lane).sansRs := by
  cases a; cases b
  simp [Lane.sansRs] at h ⊢
  simp [h]

/-! ## The whole word -/

/-- What `apply` does where no lane traps: its registers, predicates, s registers, latch entries, flags and lanes, and the rest
as it was. -/
structure Applied (w w' : Weft) (eff : Eff) : Prop where
  v : ∀ r l, l < 64 → w'.vget r l = match eff.lanes.find? (fun e => e.lane == l) with
    | some e => lastV e.v r (w.vget r l)
    | none => w.vget r l
  p : ∀ r l, l < 64 → (w'.pget r).getLsbD l = match eff.lanes.find? (fun e => e.lane == l) with
    | some e => lastP e.p r ((w.pget r).getLsbD l)
    | none => (w.pget r).getLsbD l
  s : ∀ r, w'.sget r = eff.s.foldl (fun a x => if x.1 = r then x.2.1 else a) (w.sget r)
  latches : w'.latches = (eff.pushes.map (w.entryOf w.pc)).foldl (fun a e => (e :: a).take 4) w.latches
  flags : w'.flags = eff.lanes.foldl (fun a e => a ||| laneFlags w e) w.flags
  lane : ∀ l, l < w.lanes.length → (w'.lane l).sansRs
    = (if w.bundle.getLsbD l then { w.lane l with pc := (w.lane l).pc + BitVec.ofNat 64 (8 * eff.words) } else w.lane l).sansRs
  laneOut : ∀ l, w.lanes.length ≤ l → w'.lane l = w.lane l
  rest : ∃ v p s uni aw f la ls iss sq ch fl sl, w' = { w with v := v, p := p, s := s, uni := uni, await := aw, failed := f, latches := la, lanes := ls, issued := iss, seq := sq, chain := ch, flags := fl, slotCycles := sl }

theorem sget_foldl_swrite (xs : List (Nat × W64 × List Nat)) (w : Weft) (r : Nat) :
    (xs.foldl (fun w x => w.swrite x.1 x.2.1) w).sget r = xs.foldl (fun a x => if x.1 = r then x.2.1 else a) (w.sget r) := by
  induction xs generalizing w with
  | nil => rfl
  | cons x xs ih =>
    rw [List.foldl_cons, List.foldl_cons, ih, sget_swrite]
    by_cases h : r = x.1
    · simp [h]
    · simp [h, Ne.symm h]

theorem foldl_swrite_shape (xs : List (Nat × W64 × List Nat)) (w : Weft) :
    ∃ s a f, xs.foldl (fun w x => w.swrite x.1 x.2.1) w = { w with s := s, await := a, failed := f } := by
  induction xs generalizing w with
  | nil => exact ⟨_, _, _, rfl⟩
  | cons x xs ih =>
    obtain ⟨s, a, f, h⟩ := ih (w.swrite x.1 x.2.1)
    exact ⟨s, a, f, by rw [List.foldl_cons, h]; rfl⟩

theorem foldl_push_shape (es : List Latch) (w : Weft) :
    es.foldl Weft.push w = { w with latches := es.foldl (fun a e => (e :: a).take 4) w.latches } := by
  induction es generalizing w with
  | nil => rfl
  | cons e es ih => rw [List.foldl_cons, ih]; rfl

theorem Weft.apply_spec (w : Weft) (eff : Eff) (ch : Option ChainSt) (hc : ∀ e ∈ eff.lanes, e.cause = none)
    (nd : (eff.lanes.map LaneEff.lane).Nodup) (h64 : ∀ e ∈ eff.lanes, e.lane < 64)
    (h7 : ∀ e ∈ eff.lanes, ∀ x ∈ e.p, x.1 ≠ 7) : Applied w (w.apply eff ch) eff := by
  have hbad : eff.bad = 0#64 := by
    unfold Eff.bad
    have : eff.lanes.filter (fun e => e.cause.isSome) = [] := by
      rw [List.filter_eq_nil_iff]; intro e he; simp [hc e he]
    rw [this]; rfl
  have hstep : ∀ (es : List LaneEff) (u : Weft), (∀ e ∈ es, e.cause = none) →
      es.foldl Weft.landLane u = es.foldl Weft.applyLane u := by
    intro es
    induction es with
    | nil => intro u _; rfl
    | cons e es ih =>
      intro u h
      rw [List.foldl_cons, List.foldl_cons, ih _ (fun x hx => h x (List.mem_cons_of_mem _ hx))]
      simp [Weft.landLane, h e (List.mem_cons_self ..)]
  have hs : Weft.landS 0#64 = (fun (w : Weft) x => w.swrite x.1 x.2.1) := by
    funext w x
    have : (!x.2.2.isEmpty && x.2.2.all (fun l => (0#64).getLsbD l)) = false := by cases x.2.2 <;> simp
    unfold Weft.landS
    rw [this]; rfl
  have hform : w.apply eff ch = ((({ (eff.s.foldl (fun w x => w.swrite x.1 x.2.1) (eff.lanes.foldl Weft.applyLane w)) with
        uni := w.uniAfter eff, latches := (eff.pushes.map (w.entryOf w.pc)).foldl (fun a e => (e :: a).take 4)
          (eff.s.foldl (fun w x => w.swrite x.1 x.2.1) (eff.lanes.foldl Weft.applyLane w)).latches } : Weft).count ch).advance
        w.bundle (8 * eff.words)) := by
    unfold Weft.apply
    simp only
    rw [hstep _ _ hc, hbad, hs, foldl_push_shape]
    have : w.bundle &&& ~~~0#64 = w.bundle := by rw [BitVec.not_zero, BitVec.and_allOnes]
    rw [this]
  obtain ⟨v, p, f, a, fl, ls, hL⟩ := laneWrites_foldl Weft.applyLane laneWrites_applyLane eff.lanes w
  obtain ⟨s', a', f', hS⟩ := foldl_swrite_shape eff.s (eff.lanes.foldl Weft.applyLane w)
  refine ⟨?_, ?_, ?_, ?_, ?_, ?_, ?_, ?_⟩
  · intro r l hl
    rw [← foldl_applyLane_vget eff.lanes w r l hl nd h64, hform, hS]; rfl
  · intro r l hl
    rw [← foldl_applyLane_pget eff.lanes w r l hl nd h7, hform, hS]; rfl
  · intro r
    have : w.sget r = (eff.lanes.foldl Weft.applyLane w).sget r := by rw [hL]; rfl
    rw [this, ← sget_foldl_swrite, hform]; rfl
  · rw [hform, hS, hL]; rfl
  · rw [← foldl_applyLane_flags, hform, hS]; rfl
  · intro l hl
    have key := foldl_applyLane_lane eff.lanes w l
    rw [hform, hS]
    show (Weft.lane (Weft.modLanes _ _ _) l).sansRs = _
    rw [lane_modLanes _ _ _ _ (by show l < (eff.lanes.foldl Weft.applyLane w).lanes.length; rw [key.2]; exact hl)]
    have k1 : ((eff.lanes.foldl Weft.applyLane w).lane l).sansRs = (w.lane l).sansRs := key.1
    split
    · exact sansRs_pc k1 _
    · exact k1
  · intro l hl
    have key := foldl_applyLane_lane eff.lanes w l
    rw [hform, hS]
    show Weft.lane (Weft.modLanes _ _ _) l = _
    rw [lane_modLanes_out _ _ _ _ (by show (eff.lanes.foldl Weft.applyLane w).lanes.length ≤ l; rw [key.2]; exact hl)]
    show Weft.lane (eff.lanes.foldl Weft.applyLane w) l = _
    have h1 : (eff.lanes.foldl Weft.applyLane w).lanes.length ≤ l := by rw [key.2]; exact hl
    simp [Weft.lane, List.getD_eq_getElem?_getD, hl, h1]
  · rw [hform, hS, hL]
    exact ⟨_, _, _, _, _, _, _, _, _, _, _, _, _, rfl⟩

/-! ## One operation of a word -/

theorem marks_nil (w : Weft) (h : w.failed = []) (r : FieldRead) (l : Nat) : r.marks w l = [] := by
  have m : ∀ k j, w.mark k j = none := fun k j => by simp [Weft.mark, h, SMap.find?]
  unfold FieldRead.marks
  simp only [m]
  have f : ∀ xs : List Nat, xs.filterMap (fun _ => (none : Option Cause)) = [] := fun xs => by simp
  cases r.from_ l <;> cases r.o <;> simp [f]

theorem arithTrap_off (flags : W64) (h : enables flags = 0) (opc : Nat) (half : Bool) (xs : List Exc) :
    arithTrap flags opc half xs = none := by simp [arithTrap, h]

theorem Part.cause_calm (x : Part) (w : Weft) (h : Calm w) (l : Nat) (o : LaneOut) : x.cause w l o = none := by
  have hm : (x.uses l).flatMap (fun u => x.fields.flatMap (fun r => r.marks w u)) = [] := by
    simp [marks_nil w h.failed]
  unfold Part.cause
  simp only [hm, List.foldl_nil, arithTrap_off _ h.enables]
  cases (w.lane l).helper <;> rfl

/-- The register writes of a lane. -/
def Part.regsOf (x : Part) (o : LaneOut) : List (Nat × W32) :=
  if x.nwb then [] else
  match x.dk with
  | .v => [(x.dst, o.val.setWidth 32)]
  | .vpair => [(x.dst, o.val.setWidth 32), (x.dst + 1, (o.val >>> 32).setWidth 32)]
  | _ => []

/-- The predicate writes of a lane. -/
def Part.predsOf (x : Part) (o : LaneOut) : List (Nat × Bool) :=
  (match x.dk with
    | .p => [(x.dst, o.pv)]
    | _ => []) ++ x.carry.toList.map (fun k => (k, o.pv))

/-- What a lane does. -/
def Part.laneEff (x : Part) (w : Weft) (l : Nat) : LaneEff :=
  {
    lane := l, cause := x.cause w l (x.out l), v := x.regsOf (x.out l), p := x.predsOf (x.out l)
    exc := Exc.all (x.out l).exc, rs := (x.out l).rs }

theorem Part.eff_lanes (x : Part) (w : Weft) : (x.eff w).lanes = (laneList w.width x.act).map (x.laneEff w) := by
  unfold Part.eff
  simp only [List.map_map]
  exact List.map_congr_left (fun l _ => rfl)

theorem Part.eff_calm (x : Part) (w : Weft) (h : Calm w) : ∀ e ∈ (x.eff w).lanes, e.cause = none := by
  rw [Part.eff_lanes]
  intro e he
  obtain ⟨l, -, rfl⟩ := List.mem_map.mp he
  exact x.cause_calm w h l _

theorem Part.eff_nodup (x : Part) (w : Weft) : ((x.eff w).lanes.map LaneEff.lane).Nodup := by
  rw [Part.eff_lanes, List.map_map]
  have : (LaneEff.lane ∘ x.laneEff w) = id := by funext l; rfl
  rw [this, List.map_id]
  exact laneList_nodup _ _

theorem Part.eff_lt (x : Part) (w : Weft) : ∀ e ∈ (x.eff w).lanes, e.lane < 64 := by
  rw [Part.eff_lanes]
  intro e he
  obtain ⟨l, hl, rfl⟩ := List.mem_map.mp he
  exact laneList_lt64 hl

theorem find?_laneEff (x : Part) (w : Weft) (ls : List Nat) (l : Nat) :
    (ls.map (x.laneEff w)).find? (fun e => e.lane == l) = if l ∈ ls then some (x.laneEff w l) else none := by
  induction ls with
  | nil => rfl
  | cons k ks ih =>
    rw [List.map_cons, List.find?_cons]
    by_cases h : k = l
    · subst h; simp [Part.laneEff]
    · have h1 : ((x.laneEff w k).lane == l) = false := beq_eq_false_iff_ne.mpr h
      rw [h1]
      have h2 : l ∈ k :: ks ↔ l ∈ ks := by
        rw [List.mem_cons]; exact ⟨fun e => e.resolve_left (Ne.symm h), .inr⟩
      simp only [ih, h2]

/-- The predicates that an operation writes. -/
def Part.predDsts (x : Part) : List Nat :=
  (match x.dk with
    | .p => [x.dst]
    | _ => []) ++ x.carry.toList

theorem Part.predsOf_mem (x : Part) (o : LaneOut) {y : Nat × Bool} (h : y ∈ x.predsOf o) : y.1 ∈ x.predDsts := by
  unfold Part.predsOf Part.predDsts at *
  rw [List.mem_append] at h ⊢
  rcases h with h | h
  · left
    cases hd : x.dk <;> simp_all
  · right
    obtain ⟨k, hk, rfl⟩ := List.mem_map.mp h
    exact hk

theorem lastV_ne (vs : List (Nat × W32)) (r : Nat) (old : W32) (h : ∀ x ∈ vs, x.1 ≠ r) : lastV vs r old = old := by
  induction vs generalizing old with
  | nil => rfl
  | cons x xs ih =>
    rw [lastV, List.foldl_cons, if_neg (h x (List.mem_cons_self ..))]
    exact ih old (fun y hy => h y (List.mem_cons_of_mem _ hy))

theorem lastP_ne (ps : List (Nat × Bool)) (r : Nat) (old : Bool) (h : ∀ x ∈ ps, x.1 ≠ r) : lastP ps r old = old := by
  induction ps generalizing old with
  | nil => rfl
  | cons x xs ih =>
    rw [lastP, List.foldl_cons, if_neg (h x (List.mem_cons_self ..))]
    exact ih old (fun y hy => h y (List.mem_cons_of_mem _ hy))

/-- A v register after a word of one operation, by lane. -/
theorem Part.applied_v {x : Part} {w w' : Weft} {eff : Eff} (h : Applied w w' eff) (he : eff.lanes = (x.eff w).lanes)
    (r l : Nat) (hl : l < 64) :
    w'.vget r l = if l < w.width ∧ x.act.getLsbD l = true then lastV (x.regsOf (x.out l)) r (w.vget r l) else w.vget r l := by
  rw [h.v r l hl, he, Part.eff_lanes, find?_laneEff]
  by_cases m : l ∈ laneList w.width x.act
  · rw [if_pos m, if_pos (laneMem.mp m)]; rfl
  · rw [if_neg m, if_neg (fun c => m (laneMem.mpr c))]

/-- A predicate bit after a word of one operation. -/
theorem Part.applied_p {x : Part} {w w' : Weft} {eff : Eff} (h : Applied w w' eff) (he : eff.lanes = (x.eff w).lanes)
    (r l : Nat) (hl : l < 64) :
    (w'.pget r).getLsbD l = if l < w.width ∧ x.act.getLsbD l = true
      then lastP (x.predsOf (x.out l)) r ((w.pget r).getLsbD l) else (w.pget r).getLsbD l := by
  rw [h.p r l hl, he, Part.eff_lanes, find?_laneEff]
  by_cases m : l ∈ laneList w.width x.act
  · rw [if_pos m, if_pos (laneMem.mp m)]; rfl
  · rw [if_neg m, if_neg (fun c => m (laneMem.mpr c))]

/-- The newest latch entry of a word that pushes one value, in a lane of its bundle. -/
theorem entryOf_get (w : Weft) (pc : W64) (x : Push) (l : Nat) (h : l < w.width ∧ w.bundle.getLsbD l = true) :
    SMap.get (w.entryOf pc x).vals 0 l = ((x.vals.find? (fun e => e.1 == l)).map (fun e => e.2)).getD
      (if x.nwb then 0 else if x.wide then w.vget64 x.dst l else (w.vget x.dst l).setWidth 64) := by
  have gen : ∀ (ls : List Nat) (g : Nat → W64) (m : SMap W64), SMap.get ((ls.map (fun l => (l, g l))).foldl
      (fun m e => SMap.set m 0 e.1 e.2) m) 0 l = if l ∈ ls then g l else SMap.get m 0 l := by
    intro ls g
    induction ls with
    | nil => intro m; simp
    | cons k ks ih =>
      intro m
      rw [List.map_cons, List.foldl_cons, ih, SMap.get_set]
      by_cases hk : l ∈ ks
      · simp [hk]
      · by_cases e : l = k
        · subst e; simp
        · simp [hk, e]
  unfold Weft.entryOf
  simp only
  rw [gen, if_pos (bundleLanes_mem.mpr h)]

/-- An F3 word that issues in a calm weft: what its weft is afterwards, and that nothing else changes but a cycle count. -/
theorem runF3With_calm {op : F3Op} {f : F3} {fx : Option FX} {sem : Sem} {s : State} {b i : Nat} {bd : Band} {w : Weft}
    (h : Issues s b i bd w (f3Needs op f fx w)) (hc : Calm w)
    (h7 : ∀ r ∈ (f3Part op f fx sem w).predDsts, r ≠ 7) :
    ∃ t w', runF3With op f fx sem s = .next t ∧ OnlyWeft s t b i ∧ t.weft? b i = some w' ∧
      Applied w w' { (f3Part op f fx sem w).eff w with words := if fx.isSome then 2 else 1 } := by
  have hcur := State.current_some h.current
  have hn : ∀ e ∈ ((f3Part op f fx sem w).eff w).lanes, e.cause = none := Part.eff_calm _ w hc
  have ht : Eff.traps { (f3Part op f fx sem w).eff w with words := if fx.isSome then 2 else 1 } = [] := by
    unfold Eff.traps
    rw [List.filterMap_eq_nil_iff]
    intro e he
    rw [hn e he]; rfl
  have fin := State.finish_calm hcur.2.1 hcur.2.2.1 (f3Needs op f fx w).latch
    { (f3Part op f fx sem w).eff w with words := if fx.isSome then 2 else 1 } ht
  refine ⟨_, _, State.runPrep_of (fun w => (⟨f3Needs op f fx w,
    { (f3Part op f fx sem w).eff w with words := if fx.isSome then 2 else 1 }⟩ : Prep)) h, fin.1, fin.2, ?_⟩
  refine Weft.apply_spec w _ _ hn (Part.eff_nodup _ w) (Part.eff_lt _ w) ?_
  intro e he y hy
  have he' : e ∈ ((f3Part op f fx sem w).eff w).lanes := he
  rw [Part.eff_lanes] at he'
  obtain ⟨l, -, rfl⟩ := List.mem_map.mp he'
  exact h7 _ (Part.predsOf_mem _ _ hy)

end Sys2Proof.Machine
end

