-- ==== Sys2Proof/Tests/Slice0.lean ====
section
/-! SUPPORT. The model's own tests: ill-formed terms that are refused, words written out from the spec's encodings, single steps
on small states, and for every statement states that meet its hypotheses. -/
namespace Sys2Proof.Tests
open Sys2Proof Sys2Proof.Machine Sys2Proof.Safety Sys2Proof.Claims

/-! ## Small states -/

/-- A live lane at code address 0x100. -/
def lane0 : Lane := ⟨0x100, .live, false, 0, false, 0, 0, 0, 0, 0, 1, 0⟩

/-- A weft of four lanes, lane 3 a helper, all in its bundle. -/
def weft0 : Weft where
  width := 4
  slot := 0
  lanes := [lane0, lane0, lane0, { lane0 with helper := true }]
  v := [(64, 7), (65, 8), (66, 0xFFFFFFFF), (67, 10), (128, 3), (129, 5), (130, 1), (131, 2)]
  p := [(1, 5)]
  s := [(4, 0x40), (5, 0x1000000020), (6, 8)]
  uni := []
  await := []
  failed := []
  replies := []
  latches := []
  bundle := 15
  run := 0
  reform := false
  issued := 0
  seq := 0
  chain := none
  rb := []
  flags := 0
  hangk := 0
  wlast := 0
  ext := false
  subs := 0
  snap := 0
  seen := []
  fenced := []
  wbuf := []
  phase := none
  fences := []
  held := none
  stop := none
  frozen := false
  slack := 0
  begun := false
  spent := false
  spill := []
  uspill := []
  fetched := []
  late := []
  retired := false
  slotCycles := 0

/-- A band of one weft on core 0, with 32 base registers and 16 of an extended block. -/
def band0 (w : Weft) : Band where
  launch := 1
  ctx := 0
  part := 0
  core := 0
  gang := 0
  gangPos := 0
  gangSize := 1
  index := 0
  x := 0
  y := 0
  z := 0
  width := 4
  base8 := 4
  ext8 := 2
  spillBytes := 64
  padBytes := 4096
  prio := 0
  pclass := 0
  comm := false
  trapEntry := 0x800
  since := 0
  wefts := [w]
  pad := [(0x40, 1), (0x41, 2), (0x42, 3), (0x43, 4), (0x47, 5)]
  signals := []
  old := []
  absent := []
  ctr := []
  ctrFault := []
  it := []
  bar := []
  mq := []
  mfault := none
  restartable := true
  wroteFar := false
  stopped := false
  state := .resident
  save := none
  image := 0

/-- A context of partition 0 on die 0, its code behind segment 0. -/
def ctx0 : Context := ⟨0, 0, 0x1000, 16, [0], 0x1000, 4096, 0, 9, [(0, [(0x40, 6), (0x41, 7)])], [], [], []⟩

/-- A partition of granule 0. -/
def part0 : Partition := ⟨[0], false, [], [], 63, false⟩

/-- A package with one band. -/
def with0 (bd : Band) : State :=
  { State.reset with
    cur := some (0, 0)
    stamp := 5
    now := 100
    bands := [(0, bd)]
    gangs := [(0, ⟨[0], []⟩)]
    ctxs := [(0, ctx0)]
    parts := [(0, part0)]
    cores := [(0, { Core.idle with serving := [(0, (0, 0))] })] }

/-- A package with one weft. -/
def pkg (w : Weft) : State := with0 (band0 w)

/-- An F3 word: v3 from v1, v2 and v1, the guard p1. -/
def f3w : F3 := ⟨3, false, .op (.v 1), .op (.v 2), .op (.v 1), 0, false, 0, ⟨false, 1⟩, .none, .identity⟩

theorem calm0 : Calm weft0 := ⟨rfl, by decide⟩

/-- Nothing of the small package's near storage is missing, in flight or older than what it holds. -/
theorem settled0 (n off : Nat) (h : (pkg weft0).absentLines (.band 0) off n = []) : Settled (pkg weft0) n (.at_ (.band 0) off) := by
  refine ⟨h, by decide, fun id x e hx => ?_⟩
  cases e
  rw [show (pkg weft0).band? 0 = some (band0 weft0) from rfl] at hx
  cases hx
  rfl
theorem settledDie (n off : Nat) (h : (pkg weft0).absentLines (.die 0 0) off n = []) : Settled (pkg weft0) n (.at_ (.die 0 0) off) :=
  ⟨h, by decide, fun _ _ e => by cases e⟩
/-! ## States that meet the hypotheses of the statements about lane words -/

theorem iss {s : State} {b i : Nat} {bd : Band} {w : Weft} {n : Needs} (h : s.current = some (b, i, bd, w))
    (h2 : preCheck bd w n = none) (h3 : w.awaits n.keys = false) (h4 : w.latchAwaits n.latch = false) : Issues s b i bd w n :=
  ⟨h, h2, h3, h4⟩

theorem wit_integer : (⟨.iadd, .iadd, fun f a b _ => orSat f (a.toInt + b.toInt)⟩ : Row32) ∈ intRows ++ dotRows ∧
    Issues (pkg weft0) 0 0 (band0 weft0) weft0 (f3Needs .iadd f3w none weft0) ∧ Calm weft0 ∧ Acts weft0 f3w.guard 2 :=
  ⟨.head _, iss (by decide) (by decide) (by decide) (by decide), calm0, by decide, by decide⟩

theorem wit_float : (⟨.fadd, .fadd, fun f a b _ => bitsOf (FInfo.f32.fadd (rndOf f) a.toNat b.toNat)⟩ : Row32) ∈ floatRows ++ specialRows ∧
    Issues (pkg weft0) 0 0 (band0 weft0) weft0 (f3Needs .fadd f3w none weft0) ∧ Calm weft0 :=
  ⟨.head _, iss (by decide) (by decide) (by decide) (by decide), calm0⟩

/-- IADD64 of pairs into v4. -/
def f3wide : F3 := ⟨4, false, .op (.v 2), .op (.s 4), .none, 0, false, 0, ⟨true, 1⟩, .none, .identity⟩

theorem wit_wide : Issues (pkg weft0) 0 0 (band0 weft0) weft0 (f3Needs .iadd64 f3wide none weft0) ∧ Calm weft0 ∧
    Acts weft0 f3wide.guard 1 :=
  ⟨iss (by decide) (by decide) (by decide) (by decide), calm0, by decide, by decide⟩

/-- IADDC with its carry in p6, the highest. -/
def f3carry : F3 := ⟨3, false, .op (.v 1), .op (.v 2), .none, 0, false, 6, Guard.always, .none, .identity⟩

theorem wit_carry : f3carry.ext.val < 7 ∧ Issues (pkg weft0) 0 0 (band0 weft0) weft0 (f3Needs .iaddc f3carry none weft0) ∧
    Issues (pkg weft0) 0 0 (band0 weft0) weft0 (f3Needs .isubb f3carry none weft0) ∧ Calm weft0 :=
  ⟨by decide, iss (by decide) (by decide) (by decide) (by decide), iss (by decide) (by decide) (by decide) (by decide), calm0⟩

/-- R104's worked word with the reserved carry code 7. -/
theorem wit_carry_reserved : bits 0x424050381dc000 63 54 = F3Op.iaddc.info.opc ∧ bits 0x424050381dc000 20 18 = 7 := by decide

/-- ICMP.lt p6, v1, v2. -/
def f3icmp : F3 := ⟨6, false, .op (.v 1), .op (.v 2), .none, 0, false, 2, Guard.always, .none, .identity⟩

theorem wit_predicate : f3icmp.dst.val < 7 ∧ Issues (pkg weft0) 0 0 (band0 weft0) weft0 (f3Needs .icmp f3icmp none weft0) ∧ Calm weft0 :=
  ⟨by decide, iss (by decide) (by decide) (by decide) (by decide), calm0⟩

/-- QSWAP.d v3, v1. -/
def f3swap : F3 := ⟨3, false, .op (.v 1), .none, .none, 0, false, 2, Guard.always, .none, .identity⟩

theorem wit_move : (F3Op.qswap = .qswap → f3swap.ext.val < 3) ∧ weft0.width ≤ 64 ∧
    Issues (pkg weft0) 0 0 (band0 weft0) weft0 (f3Needs .qswap f3swap none weft0) ∧ Calm weft0 :=
  ⟨by decide, by decide, iss (by decide) (by decide) (by decide) (by decide), calm0⟩

/-- MOV s7, v1 as 64 bits: ext 3. -/
def f3movS : F3 := ⟨7, false, .op (.v 2), .none, .none, 0, false, 3, ⟨false, 1⟩, .none, .identity⟩
/-- LSTK into s6: dst 13. -/
def f3lstk : F3 := ⟨13, false, .op (.v 1), .op (.v 2), .op (.s 4), 0, false, 0, Guard.always, .none, .identity⟩
/-- BALLOT s63, p1. -/
def f3ballot : F3 := ⟨63, false, .pred 1, .none, .none, 0, false, 0, Guard.always, .none, .identity⟩

theorem wit_scalar_mov : Issues (pkg weft0) 0 0 (band0 weft0) weft0 (f3Needs .mov f3movS none weft0) ∧ Calm weft0 ∧
    Leads weft0 f3movS.guard 0 ∧ (f3movS.ext.val = 1 ∨ f3movS.ext.val = 3) :=
  ⟨iss (by decide) (by decide) (by decide) (by decide), calm0, rfl, by decide⟩
theorem wit_scalar_movi : Issues (pkg weft0) 0 0 (band0 weft0) weft0 (moviNeeds ⟨63, false, 2, Guard.always, 0x80000000⟩ weft0) ∧
    Calm weft0 := ⟨iss (by decide) (by decide) (by decide) (by decide), calm0⟩
theorem wit_scalar_lstk : Issues (pkg weft0) 0 0 (band0 weft0) weft0 (f3Needs .lstk f3lstk none weft0) ∧ Calm weft0 ∧
    f3lstk.dst.val % 2 = 1 ∧ Leads weft0 f3lstk.guard 0 :=
  ⟨iss (by decide) (by decide) (by decide) (by decide), calm0, by decide, rfl⟩
theorem wit_scalar_ballot : Issues (pkg weft0) 0 0 (band0 weft0) weft0 (f3Needs .ballot f3ballot none weft0) ∧ Calm weft0 :=
  ⟨iss (by decide) (by decide) (by decide) (by decide), calm0⟩

/-- FCVT.f16.f32 v3, v1, and FCVT.f32.f16 of both halves into v4. -/
def f3cvt : F3 := ⟨3, false, .op (.v 1), .fmt .f16 .f32, .none, 0, false, 0, Guard.always, .none, .identity⟩

theorem wit_conversion : Issues (pkg weft0) 0 0 (band0 weft0) weft0 (f3Needs .fcvt f3cvt none weft0) ∧ Calm weft0 ∧
    f3cvt.dstKind .fcvt = .v :=
  ⟨iss (by decide) (by decide) (by decide) (by decide), calm0, by decide⟩

theorem wit_immediate : Issues (pkg weft0) 0 0 (band0 weft0) weft0 (fiNeeds .i32 ⟨3, false, .v 1, ⟨false, 1⟩, 0x80000000⟩ weft0) ∧
    Calm weft0 := ⟨iss (by decide) (by decide) (by decide) (by decide), calm0⟩

theorem wit_pair : pairOk .iadd ⟨1, .v 2, 7, 1⟩ .sMov ⟨6, .s 4, 1, 0⟩ = true ∧ weft0.width ≤ 64 ∧
    Issues (pkg weft0) 0 0 (band0 weft0) weft0 (pairNeeds .iadd ⟨1, .v 2, 7, 1⟩ .sMov ⟨6, .k 4, 1, 0⟩ weft0) ∧ Calm weft0 :=
  ⟨by decide, by decide, iss (by decide) (by decide) (by decide) (by decide), calm0⟩

theorem wit_routex : Issues (pkg weft0) 0 0 (band0 weft0) weft0
    (f3Needs .imad f3w (some ⟨.rotate 0 1, .a, .broadcast 1 3, .b⟩) weft0) ∧ Calm weft0 :=
  ⟨iss (by decide) (by decide) (by decide) (by decide), calm0⟩

theorem wit_frame : F3.ok .imad f3w = true ∧ weft0.width ≤ 64 ∧
    Issues (pkg weft0) 0 0 (band0 weft0) weft0 (f3Needs .imad f3w none weft0) ∧ Calm weft0 :=
  ⟨by decide, by decide, iss (by decide) (by decide) (by decide) (by decide), calm0⟩

/-- A weft whose v1 and v2 give a division of infinities in lane 0, with IV enabled. -/
def weftIv : Weft := { weft0 with v := [(64, 0x7F800000), (128, 0xFF800000)], flags := 0x0100 }

/-- The trap entry can be fetched: segment 0 is a local entry of the partition's table, with every right. -/
def mapped (s : State) : State :=
  { s with hbm := loadTables [] [], tags := [(0, 0), (1, 0), (2, 0)], parts := [(0, part0)] }

/-- FADD v3, v1, v2. -/
def f3add : F3 := { f3w with c := .none }
theorem wit_exceptions : Issues (mapped (pkg weftIv)) 0 0 (band0 weftIv) weftIv (f3Needs .fadd f3add none weftIv) ∧
    F3.ok .fadd f3add = true ∧ weftIv.width ≤ 64 ∧ weftIv.failed = [] ∧ weftIv.latches = [] ∧ f3add.nwb = false ∧ Handled (mapped (pkg weftIv)) (band0 weftIv) ∧
    (∀ l ∈ weftIv.bundleLanes, (weftIv.lane l).group = 0) ∧ weftIv.bundleLanes.length ≤ weftIv.lanes.length ∧
    (FInfo.f32.fadd .rne 0x7F800000 0xFF800000).exc &&& enables weftIv.flags ≠ 0 :=
  ⟨iss (by decide) (by decide) (by decide) (by decide), by decide, by decide, rfl, rfl, rfl, ⟨by decide, by decide⟩, by decide, by decide, by decide⟩
theorem wit_exceptions_off : Issues (pkg weft0) 0 0 (band0 weft0) weft0 (f3Needs .fadd f3w none weft0) ∧ weft0.failed = [] ∧
    enables weft0.flags = 0 := ⟨iss (by decide) (by decide) (by decide) (by decide), rfl, by decide⟩

/-- A word that names v48, one register beyond the block of 32 + 16. -/
def f3beyond : F3 := { f3w with dst := 48 }

theorem wit_decode_traps : (mapped (pkg weft0)).current = some (0, 0, band0 weft0, weft0) ∧
    preCheck (band0 weft0) weft0 (f3Needs .iadd f3beyond none weft0) = some ⟨7, 2, 0x0002_0430, false⟩ ∧ weft0.latches = [] ∧
    Handled (mapped (pkg weft0)) (band0 weft0) ∧ (∀ l ∈ weft0.bundleLanes, (weft0.lane l).group = 0) :=
  ⟨by decide, by decide, rfl, ⟨by decide, by decide⟩, by decide⟩

theorem wit_fclass : Issues (pkg weft0) 0 0 (band0 weft0) weft0 (f3Needs .fclass ⟨3, false, .op (.v 1), .none, .none, 0, false, 0, Guard.always, .none, .identity⟩ none weft0) ∧
    weft0.failed = [] := ⟨iss (by decide) (by decide) (by decide) (by decide), rfl⟩

/-- VOTE.uni p6, p1. -/
def f3vote : F3 := ⟨6, false, .pred 1, .none, .none, 0, false, 2, Guard.always, .none, .identity⟩

theorem wit_vote : F3.ok .vote f3vote = true ∧ Issues (pkg weft0) 0 0 (band0 weft0) weft0 (f3Needs .vote f3vote none weft0) ∧
    weft0.failed = [] := ⟨by decide, iss (by decide) (by decide) (by decide) (by decide), rfl⟩
theorem wit_vote_reserved : (0x2881_8000_000D_C000 : Nat) < 2 ^ 64 ∧ bits 0x2881_8000_000D_C000 63 54 = 0x0A2 ∧
    3 ≤ bits 0x2881_8000_000D_C000 20 18 := by decide
/-! ## Control words -/

/-- A taken-in-lanes-0-and-2 control word with an operand and an offset of -4. -/
def fbw (o : Option Operand) : FB := ⟨false, 0, ⟨false, 1⟩, o, 0xFFFFFFFC⟩

theorem uniformOff (w : Weft) (f : FB) (out : Nat → Option W64) (h : f.u = false) : Uniform w f out := by
  intro hu; rw [h] at hu; cases hu

theorem wit_bra : Calm weft0 ∧ weft0.width ≤ 64 ∧ Issues (pkg weft0) 0 0 (band0 weft0) weft0 Needs.none ∧
    Uniform weft0 { fbw none with u := true, guard := Guard.always } (out weft0 Guard.always (fun _ => true) (fun _ => near weft0 (fbw none))) :=
  ⟨calm0, by decide, iss (by decide) (by decide) (by decide) (by decide), by intro _; decide⟩
theorem wit_brx_v : (fbw (some (.v 2))).operand = some (.v 2) ∧
    Issues (pkg weft0) 0 0 (band0 weft0) weft0 (ctlNeeds [⟨.v 2, true, .s32, fun l => some l, none⟩]) ∧
    Uniform weft0 (fbw (some (.v 2))) (out weft0 (fbw none).guard (fun _ => true) (fun l => aligned (weft0.vget64 2 l))) :=
  ⟨rfl, iss (by decide) (by decide) (by decide) (by decide), uniformOff _ _ _ rfl⟩
theorem wit_brx_s : (fbw (some (.s 4))).operand = some (.s 4) ∧ Issues (pkg weft0) 0 0 (band0 weft0) weft0 (ctlNeeds [sReg 4]) ∧
    Uniform weft0 (fbw (some (.s 4))) (out weft0 (fbw none).guard (fun _ => true) (fun _ => aligned (weft0.sget 4))) :=
  ⟨rfl, iss (by decide) (by decide) (by decide) (by decide), uniformOff _ _ _ rfl⟩
theorem wit_call : (fbw (some (.s 63))).operand = some (.s 63) ∧ Issues (pkg weft0) 0 0 (band0 weft0) weft0 Needs.none ∧
    Uniform weft0 (fbw (some (.s 63))) (out weft0 (fbw none).guard (fun _ => true) (fun _ => near weft0 (fbw none))) :=
  ⟨rfl, iss (by decide) (by decide) (by decide) (by decide), uniformOff _ _ _ rfl⟩
theorem wit_callx : (fbw (some (.s 62))).operand = some (.s 62) ∧ (62 : Fin 64).val < 63 ∧
    Issues (pkg weft0) 0 0 (band0 weft0) weft0 (ctlNeeds [sReg 63]) ∧
    Uniform weft0 (fbw (some (.s 62))) (out weft0 (fbw none).guard (fun _ => true) (fun _ => aligned (weft0.sget 63))) :=
  ⟨rfl, by decide, iss (by decide) (by decide) (by decide) (by decide), uniformOff _ _ _ rfl⟩
theorem wit_loop_v : (fbw (some (.v 2))).operand = some (.v 2) ∧
    Issues (pkg weft0) 0 0 (band0 weft0) weft0 (ctlNeeds [⟨.v 2, false, .s32, fun l => some l, none⟩]) ∧
    Uniform weft0 (fbw (some (.v 2))) (out weft0 (fbw none).guard (fun l => decide (weft0.vget 2 l ≠ 1)) (fun _ => near weft0 (fbw none))) :=
  ⟨rfl, iss (by decide) (by decide) (by decide) (by decide), uniformOff _ _ _ rfl⟩
theorem wit_loop_s : (fbw (some (.s 6))).operand = some (.s 6) ∧ Issues (pkg weft0) 0 0 (band0 weft0) weft0 (ctlNeeds [sReg 6]) ∧
    Uniform weft0 (fbw (some (.s 6))) (out weft0 (fbw none).guard (fun _ => decide (weft0.sget 6 ≠ 1)) (fun _ => near weft0 (fbw none))) :=
  ⟨rfl, iss (by decide) (by decide) (by decide) (by decide), uniformOff _ _ _ rfl⟩
/-- A word that asks for one outcome where lane 1 alone of the lanes that are no helpers does not act. -/
def fbu : FB := { fbw none with u := true }
theorem wit_split : Calm weft0 ∧ Issues (mapped (pkg weft0)) 0 0 (band0 weft0) weft0 Needs.none ∧ fbu.u = true ∧
    Apart weft0 (out weft0 fbu.guard (fun _ => true) (fun _ => near weft0 fbu)) 0 1 ∧ Handled (mapped (pkg weft0)) (band0 weft0) ∧
    ∀ l ∈ weft0.bundleLanes, (weft0.lane l).group = 0 :=
  ⟨calm0, iss (by decide) (by decide) (by decide) (by decide), rfl, ⟨by decide, by decide, by decide, by decide⟩,
    ⟨by decide, by decide⟩, by decide⟩
/-- A barrier that lanes 0 and 2, or lane 1 with them, have armed. -/
def weftRb (m : W64) : Weft := { weft0 with rb := [(3, ⟨m, 0x200⟩)] }
theorem wit_rbwait : Issues (pkg (weftRb 5)) 0 0 (band0 (weftRb 5)) (weftRb 5) Needs.none ∧ (weftRb 5).width ≤ (weftRb 5).lanes.length ∧
    SMap.find? (weftRb 5).rb 3 = some ⟨5, 0x200⟩ ∧
    (∀ l, l < (weftRb 5).width → (5 : W64).getLsbD l = true → ((weftRb 5).act ⟨false, 1⟩).getLsbD l = true) ∧
    (7 : W64).getLsbD 1 = true ∧ ((weftRb 7).act ⟨false, 1⟩).getLsbD 1 = false ∧ ((weftRb 7).lane 1).state = .live :=
  ⟨iss (by decide) (by decide) (by decide) (by decide), by decide, by decide, by decide, by decide, by decide, by decide⟩
theorem wit_lane_state : Issues (pkg weft0) 0 0 (band0 weft0) weft0 Needs.none ∧
    ∃ x, SMap.find? { weft0 with rb := [(3, ⟨7, 0x200⟩)] }.rb 3 = some x ∧ x.members.getLsbD 2 = true :=
  ⟨iss (by decide) (by decide) (by decide) (by decide), ⟨7, 0x200⟩, by decide, by decide⟩
/-! ## Near memory, barriers, ordering, records and counters -/

/-- A near-memory word on s4 in a space, on v8 or s8, of a size. -/
def fmw (size : Fin 5) (sp : Space) (acq rel : Bool) : FM := ⟨8, .s 4, size, sp, ⟨false, 1⟩, acq, rel, 0⟩

/-- The acting lanes of p1 that are no helpers are 0 and 2. -/
theorem acting {P : Nat → Prop} (h0 : P 0) (h2 : P 2) : ∀ l ∈ weft0.nonHelpers (weft0.act ⟨false, 1⟩), P l := by
  have : weft0.nonHelpers (weft0.act ⟨false, 1⟩) = [0, 2] := by decide
  simpa [this] using ⟨h0, h2⟩

theorem wit_near_loads : FM.ok .ld (fmw 3 .band false false) = true ∧
    Issues (pkg weft0) 0 0 (band0 weft0) weft0 (fmNeeds (fmw 3 .band false false) (ldWord (fmw 3 .band false false)) weft0) ∧ Calm weft0 ∧
    (pkg weft0).flaws = [] ∧ weft0.held? .lane false = false ∧
    ∀ l, Acts weft0 (fmw 3 .band false false).guard l →
      (pkg weft0).nearLoc 0 (band0 weft0) .band (some l) (fmAddr (fmw 3 .band false false) weft0 l) 8 false = .ok (.at_ (.band 0) 0x40) ∧
      Settled (pkg weft0) 8 (.at_ (.band 0) 0x40) := by
  refine ⟨by decide, iss (by decide) (by decide) (by decide) (by decide), calm0, rfl, by decide, fun l h => ?_⟩
  match l, h.1 with
  | 0, _ | 1, _ | 2, _ | 3, _ => exact ⟨rfl, settled0 _ _ (by decide)⟩
theorem wit_near_loads_spill : FM.ok .ld (fmw 2 .spill false false) = true ∧
    ∀ l, l < 4 → (pkg weft0).nearLoc 0 (band0 weft0) .spill (some l) 60 4 false = .ok (.spill l 60) ∧ Settled (pkg weft0) 4 (.spill l 60) := by
  refine ⟨by decide, fun l h => ?_⟩
  match l, h with
  | 0, _ | 1, _ | 2, _ | 3, _ => exact ⟨rfl, trivial⟩

/-- Addresses that are not aligned, and addresses beyond the band's scratchpad. -/
def fmOdd : FM := { fmw 3 .band false false with offset := 4 }
/-- The same, aligned. -/
def fmBeyond : FM := { fmw 3 .band false false with offset := 0x4000 }
theorem wit_bad_address : Calm weft0 ∧ weft0.held? .lane false = false ∧ weft0.latches = [] ∧ Handled (mapped (pkg weft0)) (band0 weft0) ∧
    ∀ f ∈ [fmOdd, fmBeyond], ∀ e ∈ [(ldWord f, false), (stWord f, true), (atomWord .add f, true)],
      Issues (mapped (pkg weft0)) 0 0 (band0 weft0) weft0 (fmNeeds f e.1 weft0) ∧ e.1.store = e.2 ∧
      ∀ l, Acts weft0 f.guard l → (weft0.lane l).helper = false ∧ (weft0.lane l).group = 0 ∧
        ∃ r, BadAddress (mapped (pkg weft0)) 0 (band0 weft0) f (some l) (fmAddr f weft0 l) e.2 r := by
  refine ⟨calm0, by decide, rfl, ⟨by decide, by decide⟩, fun f hf e he => ?_⟩
  have hf : f = fmOdd ∨ f = fmBeyond := by simpa using hf
  have he : e = (ldWord f, false) ∨ e = (stWord f, true) ∨ e = (atomWord .add f, true) := by simpa using he
  rcases hf with rfl | rfl <;> rcases he with rfl | rfl | rfl <;>
    refine ⟨iss (by decide) (by decide) (by decide) (by decide), rfl, fun l h => ?_⟩ <;>
    (have hl : l = 0 ∨ l = 2 := by
      match l, h.1, h.2 with
      | 0, _, _ => exact .inl rfl
      | 2, _, _ => exact .inr rfl
      | 1, _, h2 => exact absurd h2 (by decide)
      | 3, _, h2 => exact absurd h2 (by decide)) <;>
    rcases hl with rfl | rfl
  all_goals first
    | exact ⟨rfl, rfl, 1, .inl ⟨by decide, rfl⟩⟩
    | exact ⟨rfl, rfl, _, .inr rfl⟩
theorem wit_bad_uniform : Leads weft0 fmOdd.guard 0 ∧ Issues (mapped (pkg weft0)) 0 0 (band0 weft0) weft0 (uniNeeds fmOdd false) ∧
    Issues (mapped (pkg weft0)) 0 0 (band0 weft0) weft0 (uniNeeds fmOdd true) ∧
    (∀ k ∈ weft0.nonHelpers (weft0.act fmOdd.guard), (weft0.lane k).group = 0) ∧
    BadAddress (mapped (pkg weft0)) 0 (band0 weft0) fmOdd none (fmAddr fmOdd weft0 0) true 1 :=
  ⟨rfl, iss (by decide) (by decide) (by decide) (by decide), iss (by decide) (by decide) (by decide) (by decide), by decide,
    .inl ⟨by decide, rfl⟩⟩
theorem wit_release_near : FM.ok .st (fmw 2 .band false true) = true ∧ (fmw 2 .band false true).space ≠ .die ∧
    Issues (pkg weft0) 0 0 (band0 weft0) weft0 (fmNeeds (fmw 2 .band false true) (stWord (fmw 2 .band false true)) weft0) ∧
    FM.ok .stu (fmw 3 .spill false true) = true ∧ (fmw 3 .spill false true).space ≠ .die ∧
    ∀ l ∈ weft0.nonHelpers (weft0.act (fmw 2 .band false true).guard),
      (pkg weft0).nearLoc 0 (band0 weft0) .band (some l) (fmAddr (fmw 2 .band false true) weft0 l) 4 true = .ok (.at_ (.band 0) 0x40) ∧
      (pkg weft0).absentLines (.band 0) 0x40 4 = [] :=
  ⟨by decide, by decide, iss (by decide) (by decide) (by decide) (by decide), by decide, by decide, acting ⟨rfl, by decide⟩ ⟨rfl, by decide⟩⟩

theorem wit_near_stores : FM.ok .st (fmw 2 .die false false) = true ∧ (fmw 2 .die false false).rel = false ∧
    Issues (pkg weft0) 0 0 (band0 weft0) weft0 (fmNeeds (fmw 2 .die false false) (stWord (fmw 2 .die false false)) weft0) ∧ Calm weft0 ∧
    weft0.held? .lane true = false ∧
    ∀ l ∈ weft0.nonHelpers (weft0.act (fmw 2 .die false false).guard),
      (pkg weft0).nearLoc 0 (band0 weft0) .die (some l) (fmAddr (fmw 2 .die false false) weft0 l) 4 true = .ok (.at_ (.die 0 0) 0x40) ∧
      (pkg weft0).absentLines (.die 0 0) 0x40 4 = [] :=
  ⟨by decide, rfl, iss (by decide) (by decide) (by decide) (by decide), calm0, by decide, acting ⟨rfl, by decide⟩ ⟨rfl, by decide⟩⟩

theorem wit_release_stores : (fmw 2 .die false true).rel = true ∧ (fmw 2 .die false true).space = .die ∧ Calm weft0 ∧
    weft0.held? .lane true = false ∧ ((pkg weft0).ctx? (band0 weft0).ctx).isSome = true ∧ FM.ok .st (fmw 2 .die false true) = true ∧
    Issues (pkg weft0) 0 0 (band0 weft0) weft0 (fmNeeds (fmw 2 .die false true) (stWord (fmw 2 .die false true)) weft0) ∧
    weft0.nonHelpers (weft0.act (fmw 2 .die false true).guard) ≠ [] ∧
    ∀ l ∈ weft0.nonHelpers (weft0.act (fmw 2 .die false true).guard),
      (pkg weft0).nearLoc 0 (band0 weft0) .die (some l) (fmAddr (fmw 2 .die false true) weft0 l) 4 true = .ok (.at_ (.die 0 0) 0x40) :=
  ⟨rfl, rfl, calm0, by decide, by decide, by decide, iss (by decide) (by decide) (by decide) (by decide), by decide, acting rfl rfl⟩
theorem wit_release_stu : FM.ok .stu (fmw 2 .die false true) = true ∧
    Issues (pkg weft0) 0 0 (band0 weft0) weft0 (uniNeeds (fmw 2 .die false true) true) ∧ Leads weft0 (fmw 2 .die false true).guard 0 ∧
    (pkg weft0).nearLoc 0 (band0 weft0) .die none (fmAddr (fmw 2 .die false true) weft0 0) 4 true = .ok (.at_ (.die 0 0) 0x40) ∧
    (pkg weft0).absentLines (.die 0 0) 0x40 4 = [] :=
  ⟨by decide, iss (by decide) (by decide) (by decide) (by decide), rfl, rfl, by decide⟩

theorem wit_uniform_ldu : FM.ok .ldu (fmw 3 .band false false) = true ∧
    Issues (pkg weft0) 0 0 (band0 weft0) weft0 (uniNeeds (fmw 3 .band false false) false) ∧ Calm weft0 ∧
    weft0.held? .lane false = false ∧ Leads weft0 (fmw 3 .band false false).guard 0 ∧
    (pkg weft0).nearLoc 0 (band0 weft0) .band none (fmAddr (fmw 3 .band false false) weft0 0) 8 false = .ok (.at_ (.band 0) 0x40) ∧
    Settled (pkg weft0) 8 (.at_ (.band 0) 0x40) :=
  ⟨by decide, iss (by decide) (by decide) (by decide) (by decide), calm0, by decide, rfl, rfl, settled0 _ _ (by decide)⟩
theorem wit_uniform_stu : FM.ok .stu (fmw 3 .spill false false) = true ∧
    Issues (pkg weft0) 0 0 (band0 weft0) weft0 (uniNeeds (fmw 3 .spill false false) true) ∧
    (pkg weft0).nearLoc 0 (band0 weft0) .spill none (fmAddr (fmw 3 .spill false false) weft0 0) 8 true = .ok (.uspill 0x40) :=
  ⟨by decide, iss (by decide) (by decide) (by decide) (by decide), rfl⟩

theorem wit_near_atomics : WellFormed (.aadd (fmw 3 .band false false)) = true ∧
    Issues (pkg weft0) 0 0 (band0 weft0) weft0 (fmNeeds (fmw 3 .band false false) (atomWord .add (fmw 3 .band false false)) weft0) ∧
    Calm weft0 ∧ weft0.wbuf = [] ∧ weft0.held? .lane false = false ∧
    ∀ l ∈ weft0.nonHelpers (weft0.act (fmw 3 .band false false).guard),
      (pkg weft0).nearLoc 0 (band0 weft0) .band (some l) (fmAddr (fmw 3 .band false false) weft0 l) 8 true = .ok (.at_ (.band 0) 0x40) ∧
      (pkg weft0).absentLines (.band 0) 0x40 8 = [] :=
  ⟨by decide, iss (by decide) (by decide) (by decide) (by decide), calm0, rfl, by decide, acting ⟨rfl, by decide⟩ ⟨rfl, by decide⟩⟩

/-- The weft holds its extended block. -/
def weftExt : Weft := { weft0 with ext := true }
/-- A package whose register file leaves no room for an extended block. -/
def full0 : State := with0 { band0 weft0 with base8 := 6130, ext8 := 31 }

theorem wit_racq_held : Issues (pkg weftExt) 0 0 (band0 weftExt) weftExt Needs.none ∧ weftExt.ext = true ∧
    ((pkg weftExt).core 0).grants = [] := ⟨iss (by decide) (by decide) (by decide) (by decide), rfl, rfl⟩
theorem wit_racq_now : Issues (pkg weft0) 0 0 (band0 weft0) weft0 Needs.none ∧ weft0.ext = false ∧ ((pkg weft0).core 0).grants = [] ∧
    (band0 weft0).extCost weft0 ≤ (pkg weft0).pool 0 :=
  ⟨iss (by decide) (by decide) (by decide) (by decide), rfl, rfl, by decide⟩
theorem wit_racq_waits : Issues full0 0 0 { band0 weft0 with base8 := 6130, ext8 := 31 } weft0 Needs.none ∧
    full0.pool 0 < Band.extCost { band0 weft0 with base8 := 6130, ext8 := 31 } weft0 :=
  ⟨iss (by decide) (by decide) (by decide) (by decide), by decide⟩
/-- The weft is at the head of the grant queue. -/
def granting : State := { pkg weft0 with cores := [(0, { Core.idle with grants := [(0, 0, 3), (0, 1, 3)] })] }
theorem wit_grant : (granting.core 0).grants = (0, 0, 3) :: [(0, 1, 3)] ∧ granting.band? 0 = some (band0 weft0) ∧
    granting.weft? 0 0 = some weft0 ∧ weft0.ext = false ∧ (band0 weft0).extCost weft0 ≤ granting.pool 0 := by decide

theorem wit_phase : Issues (pkg weft0) 0 0 (band0 weft0) weft0 Needs.none ∧ weft0.phase = none ∧ (pkg weft0).bareStores 0 0 = false ∧
    weft0.held = none ∧ ((pkg weft0).ctx? 0).isSome = true :=
  ⟨iss (by decide) (by decide) (by decide) (by decide), rfl, by decide, rfl, by decide⟩
/-- A weft whose PHASE and fence may complete, with a store to publish. -/
def weftPhase : Weft :=
  { weft0 with phase := some ⟨.dev, 5, true, false, none⟩, fences := [⟨4, .copy, .matrix, 5⟩], wbuf := [⟨0x80, [1, 2]⟩] }
theorem wit_phase_complete : (pkg weftPhase).band? 0 = some (band0 weftPhase) ∧ (pkg weftPhase).weft? 0 0 = some weftPhase ∧
    weftPhase.phase = some ⟨.dev, 5, true, false, none⟩ ∧ (pkg weftPhase).phaseBusy 0 0 (band0 weftPhase) ⟨.dev, 5, true, false, none⟩ = false ∧
    ((pkg weftPhase).ctx? 0).isSome = true ∧ weftPhase.fences = ⟨4, .copy, .matrix, 5⟩ :: [] ∧
    (pkg weftPhase).pathBusy 0 0 (band0 weftPhase) weftPhase 5 .copy = false ∧
    (pkg weftPhase).pathBusy 0 0 (band0 weftPhase) weftPhase 5 .matrix = false := by decide

theorem wit_barrier : ((pkg weft0).ctx? 0).isSome = true ∧ (SMap.find? (pkg weft0).gangs 0).isSome = true ∧
    Issues (pkg weft0) 0 0 (band0 weft0) weft0 Needs.none ∧ weft0.phase = none ∧
    laneList weft0.width (weft0.act ⟨false, 1⟩) ≠ [] ∧ Short (pkg weft0) 0 0 false 15 (laneList weft0.width (weft0.act ⟨false, 1⟩)) ∧
    Short (pkg weft0) 0 0 true 3 (laneList weft0.width (weft0.act ⟨false, 1⟩)) :=
  ⟨by decide, by decide, iss (by decide) (by decide) (by decide) (by decide), rfl, by decide,
    ⟨1, by decide, by decide, by decide⟩, ⟨1, by decide, by decide, by decide⟩⟩
theorem wit_barrier_token : Issues (pkg weft0) 0 0 (band0 weft0) weft0 (baraNeeds 5 ⟨false, 1⟩ weft0) ∧
    Issues (pkg weft0) 0 0 (band0 weft0) weft0 (barwNeeds (.v 1)) ∧ Calm weft0 :=
  ⟨iss (by decide) (by decide) (by decide) (by decide), iss (by decide) (by decide) (by decide) (by decide), calm0⟩
/-- Each of the four lanes of the package's one weft has arrived or is among those that arrive. -/
theorem there {s : State} {g : Bool} {n : Nat} {ls : List Nat} (hb : s.barrierBands 0 g = [0])
    (hw : ∀ j, s.weft? 0 j = if j = 0 then some weft0 else none)
    (h : ∀ l, l < 4 → arrivalCode g 0 0 l ∈ (s.barrier 0 g n).arrived ∨ l ∈ ls) : AllThere s 0 0 g n ls := by
  intro id hid j l v hv hl _ _
  rw [hb] at hid
  have hid : id = 0 := by simpa using hid
  subst hid
  rw [hw j] at hv
  split at hv
  · cases hv
    subst j
    exact (h l hl).imp id fun h => ⟨rfl, rfl, h⟩
  · cases hv
theorem wit_barrier_release : Issues (pkg weft0) 0 0 (band0 weft0) weft0 Needs.none ∧ weft0.phase = none ∧
    laneList weft0.width (weft0.act Guard.always) ≠ [] ∧ (0 : Nat) ∈ (pkg weft0).barrierBands 0 true ∧
    (∀ g n, AllThere (pkg weft0) 0 0 g n (laneList weft0.width (weft0.act Guard.always))) ∧
    Issues (pkg weft0) 0 0 (band0 weft0) weft0 (baraNeeds 5 Guard.always weft0) :=
  ⟨iss (by decide) (by decide) (by decide) (by decide), rfl, by decide, by decide, fun g n => there (by cases g <;> rfl) (fun j => by cases j <;> rfl) fun l h => .inr (by
      match l, h with
      | 0, _ | 1, _ | 2, _ | 3, _ => decide),
    iss (by decide) (by decide) (by decide) (by decide)⟩
/-- Lanes 1 and 3 have arrived at a band barrier and a gang barrier, and their wefts' lanes 0 and 2 exit. -/
def barS (a : List Nat) : State :=
  { with0 { band0 weft0 with bar := [(2, ⟨7, a, [], []⟩)] } with gangs := [(0, ⟨[0], [(1, ⟨7, a, [], []⟩)]⟩)] }
theorem wit_barrier_exit : Issues (barS [1, 3]) 0 0 { band0 weft0 with bar := [(2, ⟨7, [1, 3], [], []⟩)] } weft0 Needs.none ∧
    ((barS [1, 3]).barrier 0 false 2).arrived ≠ [] ∧ ((barS [1, 3]).barrier 0 true 1).arrived ≠ [] ∧
    AllThere (barS [1, 3]) 0 0 false 2 (laneList 4 (weft0.act ⟨false, 1⟩)) ∧
    AllThere (barS [1, 3]) 0 0 true 1 (laneList 4 (weft0.act ⟨false, 1⟩)) ∧
    ¬AllThere (barS [1]) 0 0 false 2 (laneList 4 (weft0.act ⟨false, 1⟩)) :=
  ⟨iss (by decide) (by decide) (by decide) (by decide), by decide, by decide, there rfl (fun j => by cases j <;> rfl) (by decide), there rfl (fun j => by cases j <;> rfl) (by decide),
    fun h => by
      have h := h 0 (by decide) 0 3 weft0 rfl (by decide) (by decide) (by decide)
      exact absurd h (by decide)⟩

theorem wit_itset : Calm weft0 ∧ Leads weft0 Guard.always 0 ∧
    Issues (pkg weft0) 0 0 (band0 weft0) weft0 (feNeeds (itsetFields (.dim 11) (.v 1) (.s 4)) []) :=
  ⟨calm0, rfl, iss (by decide) (by decide) (by decide) (by decide)⟩
theorem wit_itld : Issues (pkg weft0) 0 0 (band0 weft0) weft0 (feNeeds [(1, feField true (.s 4))] []) ∧
    ((feField true (.s 4)).value weft0 0).toNat % 32 = 0 ∧ weft0.held? .lane false = false ∧
    (pkg weft0).nearAddr 0 (band0 weft0) false 0 0x40 32 false = .ok (.band 0, 0x40) ∧ Settled (pkg weft0) 32 (.at_ (.band 0) 0x40) :=
  ⟨iss (by decide) (by decide) (by decide) (by decide), by decide, by decide, rfl, settled0 _ _ (by decide)⟩

/-- A band whose counter 63 stands at 2^48 - 1. -/
def bandCtr : Band := { band0 weft0 with ctr := [(63, 0x0000FFFFFFFFFFFF)] }
theorem wit_counter : Calm weft0 ∧ Leads weft0 ⟨false, 1⟩ 0 ∧
    Issues (with0 bandCtr) 0 0 bandCtr weft0 (feNeeds [(1, feField true (.s 4))] []) ∧ weft0.held = none ∧
    (bandCtr.counter 63).getLsbD 63 = false ∧ weft0.latches = [] :=
  ⟨calm0, rfl, iss (by decide) (by decide) (by decide) (by decide), rfl, by decide, rfl⟩

/-! ## Engine commands, far words, matrix words, collectives, system words -/

/-- Binary32 in one dimension of band scratchpad. -/
def rec1 (base : W64) (n : W32) : Rec := ⟨base, 0x101, 0, [⟨4, n, 0⟩] ++ List.replicate 11 Dim.zero, 0⟩
/-- Sixteen bytes a row, two rows, in band scratchpad. -/
def rec2 (base : W64) : Rec := ⟨base, 0x102, 0, [⟨4, 4, 0⟩, ⟨32, 2, 0⟩] ++ List.replicate 10 Dim.zero, 0⟩
/-- Bytes of E4M3 in band scratchpad, in two rows. -/
def rec3 (base : W64) : Rec := ⟨base, 0x132, 0, [⟨1, 4, 0⟩, ⟨32, 2, 0⟩] ++ List.replicate 10 Dim.zero, 0⟩

/-- A band with records: 0 to 2 of four elements, 3 of eight, 4 and 5 of two rows. -/
def bandRec : Band :=
  { band0 weft0 with it := [(0, rec1 0x80 4), (1, rec1 0xC0 4), (2, rec1 0x100 4), (3, rec1 0x140 8), (4, rec2 0x200), (5, rec3 0x280)] }

/-- A copy command of the band's. -/
def copyCmd : CmdSpec := ⟨.copy, 63, [(0, rec1 0x80 4), (1, rec1 0xC0 4)], .tcopy true, Rec.byAddress (rec1 0x80 4), none⟩

theorem wit_engine_copy : Issues (with0 bandRec) 0 0 bandRec weft0 Needs.none ∧ Leads weft0 ⟨false, 1⟩ 0 ∧
    checkRecs 0x122 [(0, bandRec.rec_ 0, true), (1, bandRec.rec_ 1, false)] true true none = none :=
  ⟨iss (by decide) (by decide) (by decide) (by decide), rfl, by decide⟩
theorem wit_room : Room (with0 bandRec) 0 bandRec weft0 copyCmd ∧
    Room (with0 bandRec) 0 bandRec { weft0 with phase := some ⟨.dev, 5, true, false, none⟩ } copyCmd :=
  ⟨⟨.inl rfl, by decide, by decide⟩, ⟨.inr ⟨by decide, fun _ e => (by cases e)⟩, by decide, by decide⟩⟩
theorem wit_engine_fill : Issues (with0 bandRec) 0 0 bandRec weft0 (feNeeds [(2, feField true (.s 4))] []) ∧
    checkRecs 0x12A [(0, bandRec.rec_ 0, true)] true false none = none ∧
    Room (with0 bandRec) 0 bandRec weft0 ⟨.copy, 0, [(0, bandRec.rec_ 0)], .fill 0x40 true,
      Rec.byAddress (bandRec.rec_ 0), none⟩ :=
  ⟨iss (by decide) (by decide) (by decide) (by decide), by decide, .inl rfl, by decide, by decide⟩

/-- The spec's worked CHAIN: three steps. -/
def chainW : FChain := ⟨1, 0, 1, none, none, 5, false, ⟨false, 1⟩, 0, 0⟩
theorem wit_engine_chain : Issues (with0 bandRec) 0 0 bandRec weft0 (feNeeds [] [chainW.ks.val]) ∧
    checkRecs 0x129 [(0, bandRec.rec_ 0, true), (1, bandRec.rec_ 1, false)] true false none = none ∧
    Rec.overlaps 0 (bandRec.rec_ 0) (bandRec.rec_ 1) = false ∧ FChain.badList chainW = false ∧ (with0 bandRec).stalled = false ∧
    Room (with0 bandRec) 0 bandRec weft0 ⟨.chain, 1, [(0, bandRec.rec_ 0), (1, bandRec.rec_ 1)], .chain chainW 0x20 0x10,
      Rec.byWalk (bandRec.rec_ 0), none⟩ :=
  ⟨iss (by decide) (by decide) (by decide) (by decide), by decide, by decide, by decide, rfl, .inl rfl, by decide, by decide⟩

/-- A sum with a witness at the address in s4, band scratchpad. -/
def wredW : FWred := ⟨1, 0, 3, some (2, 1), 0, false, 0, ⟨false, 1⟩⟩
theorem wit_engine_wred : Issues (with0 bandRec) 0 0 bandRec weft0 (feNeeds [] [4]) ∧
    wredCheck 0 wredW (bandRec.rec_ 0) (bandRec.rec_ 3) (weft0.sget 0) (some (1, weft0.sget 4)) = none ∧ (with0 bandRec).stalled = false ∧
    Room (with0 bandRec) 0 bandRec weft0
      ⟨.chain, 1, [(0, bandRec.rec_ 0), (3, bandRec.rec_ 3)], .wred 0 false (weft0.sget 0) (some (1, weft0.sget 4, 9)),
        wredPlan 0 (bandRec.rec_ 0) (bandRec.rec_ 3) (some (1, weft0.sget 4)), some 1⟩ :=
  ⟨iss (by decide) (by decide) (by decide) (by decide), by decide, rfl, .inl rfl, by decide, by decide⟩
/-- An adjoint broadcast of record 0 over record 3. -/
def adjbW : FAdjb := ⟨1, 3, 0, 2, true, 1, ⟨false, 1⟩⟩
theorem wit_engine_adjb : Issues (with0 bandRec) 0 0 bandRec weft0 (feNeeds [] [4, 5]) ∧
    checkRecs 0x132 [(3, bandRec.rec_ 3, true), (0, bandRec.rec_ 0, false)] false false none = none ∧
    Rec.overlaps 0 (bandRec.rec_ 3) (bandRec.rec_ 0) = false ∧ Rec.meets 0 (bandRec.rec_ 3) 1 (weft0.sget 4) 16 = false ∧
    Rec.len (bandRec.rec_ 3) % Rec.len (bandRec.rec_ 0) = 0 ∧ Rec.fmt (bandRec.rec_ 3) = .f32 ∧ (weft0.sget 4).toNat % 16 = 0 ∧
    Room (with0 bandRec) 0 bandRec weft0 ⟨.chain, 1, [(3, bandRec.rec_ 3), (0, bandRec.rec_ 0)], .adjb true 1 0x40 0x1000000020 none,
      [.hdrRead], some 1⟩ :=
  ⟨iss (by decide) (by decide) (by decide) (by decide), by decide, by decide, by decide, by decide, by decide, by decide,
    .inl rfl, by decide, by decide⟩

/-- Channel 64 of context 0 takes items. -/
def chanS : State := { with0 bandRec with chans := [(64, ⟨0x4000000000000001, [], 0⟩)] }
theorem wit_engine_rcopy : Issues chanS 0 0 bandRec weft0 (feNeeds [(1, feField false (.s 4))] []) ∧
    chanS.chanBad 0 bandRec.ctx 64 = none ∧ (chanS.chan 64).items.length < 64 ∧ chanS.stalled = false ∧
    Room chanS 0 bandRec weft0 ⟨.copy, 0, [(0, bandRec.rec_ 0), (1, bandRec.rec_ 1)], .item 64 none,
      Rec.byAddress (bandRec.rec_ 0), none⟩ :=
  ⟨iss (by decide) (by decide) (by decide) (by decide), by decide, by decide, rfl, .inl rfl, by decide, by decide⟩

/-- FLOAD of eight bytes to v8 from the address in s4, no offset. -/
def farW : FFar := ⟨8, .s 4, .s 6, 1, some 63, ⟨false, 1⟩⟩
theorem wit_far : Issues (pkg weft0) 0 0 (band0 weft0) weft0 (farNeeds (floadWord farW) (.s 4) (.s 6)) ∧
    Issues (pkg weft0) 0 0 (band0 weft0) weft0 (farNeeds (fstoreWord farW) (.s 4) (.s 6)) ∧
    Issues (pkg weft0) 0 0 (band0 weft0) weft0 (farNeeds (fatomWord ⟨8, .s 4, .s 6, .add, true, false, none, ⟨false, 1⟩⟩) (.s 4) (.s 6)) ∧
    weft0.held? .copy true = false ∧ (pkg weft0).farLoad 0 + 2 ≤ 1024 ∧ (0x40 + 8 : W64).toNat % 8 = 0 :=
  ⟨iss (by decide) (by decide) (by decide) (by decide), iss (by decide) (by decide) (by decide) (by decide),
    iss (by decide) (by decide) (by decide) (by decide), by decide, by decide, by decide⟩

theorem wit_matrix : bandRec.mfault = none ∧ (with0 bandRec).matrixLoad 0 < 8 ∧ ((with0 bandRec).claim 0 bandRec).isSome = true ∧
    bandRec.matrixBusy none 5 = false ∧ Issues (with0 bandRec) 0 0 bandRec weft0 Needs.none :=
  ⟨rfl, by decide, by decide, by decide, iss (by decide) (by decide) (by decide) (by decide)⟩
/-- A band with a matrix command queued. -/
def bandBusy : Band := { bandRec with mq := [⟨3, 0, .mzero 1 false, false, 0, [], []⟩] }
theorem wit_mwait_parks : bandBusy.matrixBusy (some 1) 5 = true ∧ Issues (with0 bandBusy) 0 0 bandBusy weft0 Needs.none :=
  ⟨by decide, iss (by decide) (by decide) (by decide) (by decide)⟩
/-- Control doubles for MLOOP in s8 and s9: two steps, and increments of 128 and 256 bytes. -/
def weftLoop : Weft := { weft0 with s := [(4, 0x180), (8, 0x0000008000000002), (9, 0x0000001000000100)] }
/-- Its band. -/
def bandLoop : Band := { bandRec with wefts := [weftLoop] }
theorem wit_mldw : Issues (with0 bandLoop) 0 0 bandLoop weftLoop (feNeeds [(1, feField true (.s 4))] []) ∧
    ((feField true (.s 4)).value weftLoop 0).toNat % 128 = 0 :=
  ⟨iss (by decide) (by decide) (by decide) (by decide), by decide⟩
theorem wit_mloop : Issues (with0 bandLoop) 0 0 bandLoop weftLoop (feNeeds [] [8, 9, 4]) ∧
    Rec.broken (bandLoop.rec_ 5) = false ∧ Rec.badAct (bandLoop.rec_ 5) = false ∧
    126 + (Rec.dim (bandLoop.rec_ 5) 1).extent.toNat ≤ 128 ∧ (weftLoop.sget 4).toNat % 8 = 0 ∧
    loHalf (weftLoop.sget 9) % 128 = 0 ∧ hiHalf (weftLoop.sget 9) % 8 = 0 ∧ (weftLoop.sget 8).toNat % 65536 = 2 ∧
    (weftLoop.sget 8).toNat / 65536 % 65536 = 0 :=
  ⟨iss (by decide) (by decide) (by decide) (by decide), by decide, by decide, by decide, by decide, by decide, by decide, by decide, by decide⟩
/-- MEPI of rows from 112 with a bias and a witness at the address in s4. -/
def mepiW : FMepi := ⟨some 4, 4, some 4, some 4, 1, 0, false, 7, ⟨false, 1⟩⟩
theorem wit_mepi : Issues (with0 bandLoop) 0 0 bandLoop weftLoop (feNeeds [] [4, 4, 4]) ∧ Rec.broken (bandLoop.rec_ 4) = false ∧
    Rec.badOut (bandLoop.rec_ 4) = false ∧ 16 * 7 + (Rec.dim (bandLoop.rec_ 4) 1).extent.toNat ≤ 128 ∧
    (weftLoop.sget 4).toNat % 16 = 0 ∧ weftLoop.phase = none :=
  ⟨iss (by decide) (by decide) (by decide) (by decide), by decide, by decide, by decide, by decide, rfl⟩
/-- MRD.raw to v12 at rows in v1 and columns in v2. -/
def mrdW : FMrd := ⟨12, .v 2, .v 2, 1, true, 0, false, ⟨false, 1⟩⟩
theorem wit_mrd : Issues (pkg weft0) 0 0 (band0 weft0) weft0 (mrdNeeds mrdW) ∧
    ∀ k ∈ laneList weft0.width (weft0.act mrdW.guard), ((feField false (.v 2)).value weft0 k).toNat % 2 ^ 32 ≤ 127 :=
  ⟨iss (by decide) (by decide) (by decide) (by decide), by decide⟩

/-- A communicator of this device's partition 0 alone; the key of its call 7 in s4, a grid of one in s8, a ticket in s9. -/
def weftColl : Weft := { weft0 with s := [(4, 0x0002000000000007), (8, 0), (9, 0x0003000000000021)] }
/-- Its band. -/
def bandColl : Band := { bandRec with wefts := [weftColl] }
/-- A ticket of slot 3, number 0x21. -/
def ticket0 : Ticket := ⟨0, 0, 9, 2, 2, 7, some 0x21, none, none, false, 0⟩
/-- Their package. -/
def collS (x : List (Nat × Ticket)) : State :=
  { with0 bandColl with
    accel := 5
    comms := [(2, ⟨[⟨5, 0⟩], 0⟩)], ctxs := [(0, { ctx0 with tickets := x })] }
theorem wit_coll : Calm weftColl ∧ Leads weftColl ⟨false, 1⟩ 0 ∧ Issues (collS []) 0 0 bandColl weftColl (feNeeds [] [4]) ∧
    (collS []).keyBad bandColl 2 7 = none ∧ Context.freeSlot ctx0 = some 0 :=
  ⟨⟨rfl, by decide⟩, rfl, iss (by decide) (by decide) (by decide) (by decide), by decide, by decide⟩
theorem wit_tcopyc : Issues (collS [(3, ticket0)]) 0 0 bandColl weftColl (feNeeds [] [8, 9]) ∧
    checkRecs 0x134 [(0, bandColl.rec_ 0, true), (1, bandColl.rec_ 1, false)] false false none = none ∧
    (collS [(3, ticket0)]).liveTicket bandColl (weftColl.sget 9) = .ok (3, 0x21, ticket0) ∧
    (collS [(3, ticket0)]).rankOf ⟨[⟨5, 0⟩], 0⟩ 0 = some 0 ∧
    collOk (Grid.of (weftColl.sget 8)) 1 1 1 (bandColl.rec_ 0) (bandColl.rec_ 1) none = true ∧ ticket0.run = none :=
  ⟨iss (by decide) (by decide) (by decide) (by decide), by decide, rfl, by decide, by decide, rfl⟩
theorem wit_collw : Issues (collS [(3, { ticket0 with fin := some .cancelled })]) 0 0 bandColl weftColl (feNeeds [] [9]) ∧
    (collS [(3, { ticket0 with fin := some .cancelled })]).liveTicket bandColl (weftColl.sget 9)
      = .ok (3, 0x21, { ticket0 with fin := some .cancelled }) ∧
    Issues (collS [(3, ticket0)]) 0 0 bandColl weftColl (feNeeds [] [9]) ∧ ticket0.fin = none ∧ weftColl.latches = [] :=
  ⟨iss (by decide) (by decide) (by decide) (by decide), rfl, iss (by decide) (by decide) (by decide) (by decide), rfl, rfl⟩

theorem wit_mfsr : Issues (pkg weft0) 0 0 (band0 weft0) weft0 (mfsrNeeds (.v32 31) ⟨false, 1⟩ weft0) ∧
    Issues (pkg weft0) 0 0 (band0 weft0) weft0 (mfsrNeeds (.v64 15) ⟨false, 1⟩ weft0) ∧
    Issues (pkg weft0) 0 0 (band0 weft0) weft0 (mfsrNeeds (.s 63) ⟨false, 1⟩ weft0) ∧
    Issues (pkg weft0) 0 0 (band0 weft0) weft0 (feNeeds [(1, feField false (.v 1))] []) ∧ Leads weft0 ⟨false, 1⟩ 0 :=
  ⟨iss (by decide) (by decide) (by decide) (by decide), iss (by decide) (by decide) (by decide) (by decide),
    iss (by decide) (by decide) (by decide) (by decide), iss (by decide) (by decide) (by decide) (by decide), rfl⟩

/-- A debugger's grant on the band's partition. -/
def debugS : State := { pkg weft0 with parts := [(0, { part0 with debug := true })] }
theorem wit_trap : Issues (mapped (pkg weft0)) 0 0 (band0 weft0) weft0 Needs.none ∧ Handled (mapped (pkg weft0)) (band0 weft0) ∧
    (∀ l ∈ weft0.nonHelpers (weft0.act ⟨false, 1⟩), (weft0.lane l).group = 0) ∧ (pkg weft0).debugOn 0 = false ∧
    debugS.debugOn 0 = true ∧ Issues debugS 0 0 (band0 weft0) weft0 Needs.none ∧ weft0.nonHelpers (weft0.act ⟨false, 1⟩) ≠ [] :=
  ⟨iss (by decide) (by decide) (by decide) (by decide), ⟨by decide, by decide⟩, by decide, by decide, by decide,
    iss (by decide) (by decide) (by decide) (by decide), by decide⟩
/-- Lanes in a handler, to go on at 0x203. -/
def weftTrap : Weft :=
  { weft0 with lanes := List.replicate 4 { lane0 with state := .trapped, pc := 0x900, tcause := 17, tresume := 0x203 } }
/-- The keeper logs events where evbase gives it 64 records. -/
def logS (s : State) : State := { s with kregs := [(.bootst, 0x8000000000000000), (.evbase, 0x1006)] }
theorem wit_trap_stops : Issues (logS (pkg weftTrap)) 0 0 (band0 weftTrap) weftTrap Needs.none ∧
    weftTrap.nonHelpers (weftTrap.act ⟨false, 1⟩) ≠ [] ∧ (∀ l ∈ weftTrap.nonHelpers (weftTrap.act ⟨false, 1⟩), (weftTrap.lane l).group ≠ 0) ∧
    (logS (pkg weftTrap)).keeperUp = true ∧ min (fld ((logS (pkg weftTrap)).kget .evbase) 4 0) 20 = 6 ∧
    (fld ((logS (pkg weftTrap)).kget .evseq) 31 0 + 2 ^ 32 - fld ((logS (pkg weftTrap)).kget .evack) 31 0) % 2 ^ 32 < 2 ^ 6 ∧
    Issues (logS (pkg weft0)) 0 0 (band0 weft0) weft0 Needs.none ∧ ¬Handled (logS (pkg weft0)) (band0 weft0) ∧
    weft0.nonHelpers (weft0.act ⟨false, 1⟩) ≠ [] ∧ ∀ l ∈ weft0.nonHelpers (weft0.act ⟨false, 1⟩), (weft0.lane l).group = 0 :=
  ⟨iss (by decide) (by decide) (by decide) (by decide), by decide, by decide, by decide, by decide, by decide,
    iss (by decide) (by decide) (by decide) (by decide), fun h => absurd h.2 (by decide), by decide, by decide⟩
theorem wit_eret : Issues (pkg weftTrap) 0 0 (band0 weftTrap) weftTrap Needs.none ∧
    ∀ l ∈ weftTrap.bundleLanes, (weftTrap.lane l).group ≠ 0 :=
  ⟨iss (by decide) (by decide) (by decide) (by decide), by decide⟩

/-- The whole weft at its PPOINT. -/
def ppointW : FPpoint := ⟨1, 2, 0x80000001, 3, 0, 0⟩
/-- A band that is to be saved. -/
def bandSave : Band := { band0 weft0 with save := some ⟨0, false, false, 0, .host⟩ }
theorem wit_ppoint : Issues (pkg weft0) 0 0 (band0 weft0) weft0 Needs.none ∧ (band0 weft0).save = none :=
  ⟨iss (by decide) (by decide) (by decide) (by decide), rfl⟩
theorem wit_launch : Issues (pkg { weft0 with s := [(4, 0)] }) 0 0 (band0 { weft0 with s := [(4, 0)] }) { weft0 with s := [(4, 0)] }
      (feNeeds [(1, feField true (.s 4))] []) ∧ (pkg weft0).flaws = [] ∧ weft0.held? .lane true = false ∧ weft0.phase = none ∧
    (pkg weft0).nearAddr 0 (band0 weft0) true 0 0 128 false = .ok (.die 0 0, 0) ∧ Settled (pkg weft0) 128 (.at_ (.die 0 0) 0) :=
  ⟨iss (by decide) (by decide) (by decide) (by decide), rfl, by decide, rfl, rfl, settledDie _ _ (by decide)⟩

/-- A weft whose LAUNCH has its record and publishes. -/
def weftPub (bs : List Byte) : Weft :=
  { weft0 with phase := some ⟨.dev, 5, true, false, some (4, bs)⟩, await := [⟨260, 0, 2 ^ 64⟩], wbuf := [⟨0x80, [1, 2]⟩] }
/-- A record of zeros is refused. -/
theorem wit_launch_refused : (pkg (weftPub (List.replicate 128 0))).band? 0 = some (band0 (weftPub (List.replicate 128 0))) ∧
    (pkg (weftPub (List.replicate 128 0))).weft? 0 0 = some (weftPub (List.replicate 128 0)) ∧
    (pkg (weftPub (List.replicate 128 0))).phaseBusy 0 0 (band0 (weftPub (List.replicate 128 0)))
      ⟨.dev, 5, true, false, some (4, List.replicate 128 0)⟩ = false ∧
    ((pkg (weftPub (List.replicate 128 0))).ctx? 0).isSome = true ∧
    ((pkg (weftPub (List.replicate 128 0))).checkRecord 0 0 (doublesOf 16 (List.replicate 128 0))).1 ≠ 0 := by decide +kernel

/-! ## Events of issue, engines, far requests and ports -/

/-- A weft that has issued four words of its queue. -/
def weftQ : Weft := { weft0 with seq := 3, issued := 4, slotCycles := 256 }
theorem wit_interval : (pkg weftQ).current = some (0, 0, band0 weftQ, weftQ) ∧ weftQ.seq ≠ 0 ∧ 4 ≤ weftQ.issued ∧
    (pkg weftQ).deferring (band0 weftQ) weftQ = false ∧ weftQ.hangk = 0 := by decide
/-- Two wefts on one slot. -/
def twoS : State := with0 { band0 weftQ with wefts := [weftQ, weft0] }
theorem wit_timeslice : twoS.servingOn 0 0 = some (0, 0) ∧ 256 ≤ weftQ.slotCycles ∧ weftQ.spent = false ∧
    twoS.band? 0 = some { band0 weftQ with wefts := [weftQ, weft0] } ∧ twoS.weft? 0 0 = some weftQ ∧
    twoS.deferring { band0 weftQ with wefts := [weftQ, weft0] } weftQ = false ∧ (0, 1) ∈ twoS.slotWefts 0 0 ∧
    twoS.readyWeft (0, 1) = true := by decide
/-- A stopped band with a lane at a breakpoint. -/
def bandStop : Band := { band0 { weft0 with lanes := [{ lane0 with bkpt := 16 }, lane0, lane0, lane0] } with stopped := true }
theorem wit_resume : (with0 bandStop).band? 0 = some bandStop ∧ bandStop.stopped = true ∧ bandStop.state ≠ .retired ∧
    ∀ v ∈ bandStop.wefts, v.late = [] := by decide
/-- A weft with a near reply in flight to lane 2 of v5. -/
def weftRep : Weft := { weft0 with replies := [⟨9, [(5 * 64 + 2, 77)], none⟩], await := [⟨5, 2, 9⟩] }
theorem wit_reply : weftRep.replies.find? (fun y => y.id == 9) = some ⟨9, [(5 * 64 + 2, 77)], none⟩ ∧
    (⟨5, 2, 9⟩ : Await) ∈ weftRep.await ∧ (pkg weftRep).weft? 0 0 = some weftRep := by decide

/-- A command of the band's engines that writes record 0's four elements at 0x80, with what it has left to do and the sectors of band
scratchpad that it has read. -/
def engCmd (k : CmdKind) (rs : List (Nat × Rec)) (got : List Nat) (todo : List Work) : Cmd :=
  ⟨0, 0, 3, .copy, 7, rs, k, 0, true, todo, [], [], got.map (fun a => (secKey 1 a, List.replicate 32 0)), [], 0, [], [], [], false, false⟩
/-- A fill of 16 bytes from band address 0x80, with what it has left to do and the lines that it keeps absent. -/
def fillCmd (st : Bool) (todo : List Work) (ls : List (Nat × Line)) : Cmd :=
  { engCmd (.fill 0x1122334455667788 true) [(0, rec1 0x80 4)] [] todo with started := st, lines := ls }
/-- A package with that command. -/
def fillS (c : Cmd) : State := { with0 bandRec with cmds := [(3, c)] }
theorem wit_presence : Stored (fillS (fillCmd true [] [(0, ⟨.band 0, 1⟩)])) (linePlace 0) ∧
    (0, ⟨linePlace 0, 1⟩) ∈ (fillCmd true [] [(0, ⟨.band 0, 1⟩)]).lines := ⟨rfl, .head _⟩
theorem wit_engine_start : (fillCmd false [.out 4 [0]] []).started = false ∧ (fillCmd false [.out 4 [0]] []).kind.isItem = false ∧
    bandRec.enginesRun = true ∧ bandRec.halted = false ∧ (fillS (fillCmd false [.out 4 [0]] [])).fenceHolds 0 0 .copy 3 = false ∧
    (fillS (fillCmd false [.out 4 [0]] [])).heldBehind (fillCmd false [.out 4 [0]] []) = false := by decide
/-- The four elements of a record lie at four-byte steps in band scratchpad. -/
def padAt (a : Nat) (k : Nat) : Place × Nat := (.band 0, a + 4 * k)
theorem four {P : Nat → Prop} (h0 : P 0) (h1 : P 1) (h2 : P 2) (h3 : P 3) : ∀ k ∈ [0, 1, 2, 3], P k := by
  simp [h0, h1, h2, h3]
/-- One step of a command takes the whole sector: each kind with what it has read. -/
theorem wit_engine_writes : ∀ c ∈ [fillCmd true [.out 4 [0, 1, 2, 3]] [],
      engCmd (.tcopy true) [(0, rec1 0x80 4), (1, rec1 0xC0 4)] [0xC0] [.out 4 [0, 1, 2, 3]],
      engCmd (.chain chainW 0x20 0x10) [(0, rec1 0x80 4), (1, rec1 0xC0 4)] [0xC0] [.out 4 [0, 1, 2, 3]],
      engCmd (.wred 0 false 0 (some (1, 0x40, 9))) [(0, rec1 0x80 4), (3, rec1 0x140 8)] [0x140] [.out 4 [0, 1, 2, 3], .head]],
    OutStep (fillS c) c bandRec 4 [0, 1, 2, 3] (padAt 0x80) ∧ (∀ k ∈ [0, 1, 2, 3], HasRead c k) ∧
      ∀ k ∈ [0, 1, 2, 3], SMap.find? c.got (secKey (Rec.space c.dst) (Rec.addr c.dst k).1.toNat) = none := by
  intro c h
  simp only [List.mem_cons, List.not_mem_nil, or_false] at h
  rcases h with rfl | rfl | rfl | rfl <;>
    refine ⟨⟨by decide, by decide, by decide, four rfl rfl rfl rfl, by decide, by decide⟩, ?_, by decide⟩ <;>
    exact four (by unfold HasRead; decide) (by unfold HasRead; decide) (by unfold HasRead; decide) (by unfold HasRead; decide)
/-- A copy that has read nothing yet, from elements in band scratchpad. -/
def copyNear : Cmd := engCmd (.tcopy true) [(0, rec1 0x80 4), (1, rec1 0xC0 4)] [] [.out 4 [0, 1, 2, 3]]
theorem wit_engine_copies : OutStep (fillS copyNear) copyNear bandRec 4 [0, 1, 2, 3] (padAt 0x80) ∧ copyNear.got = [] ∧
    (fillS copyNear).flaws = [] ∧ (∀ e ∈ (fillS copyNear).cmds, e.2.lines = []) ∧ (∀ e ∈ (fillS copyNear).bands, e.2.old = []) ∧
    ∀ k ∈ [0, 1, 2, 3], (fillS copyNear).nearOf 0 bandRec (Rec.need (rec1 0xC0 4) k) false = .ok (padAt 0xC0 k) :=
  ⟨⟨by decide, by decide, by decide, four rfl rfl rfl rfl, by decide, by decide⟩, rfl, rfl, by decide, by decide, four rfl rfl rfl rfl⟩
/-- A header of four entries of groups of two, of a maximum, with entries of one byte; and an adjoint broadcast that has read it. -/
def adjHdr : W64 := 0x0000000400020001
/-- Its command. -/
def adjCmd (acc : Bool) : Cmd :=
  engCmd (.adjb acc 1 0x40 9 (some (adjHdr, 9))) [(3, rec1 0x140 8), (0, rec1 0x80 4)] [0x40, 0x80, 0x140] [.entry 3]
theorem routed3 (acc : Bool) : ∀ x ∈ adjbVals (adjCmd acc) acc 1 0x40 adjHdr 3,
    (fillS (adjCmd acc)).nearOf 0 bandRec (Rec.need (adjCmd acc).dst x.1) true = .ok (padAt 0x140 x.1) := by
  have h : ∀ x ∈ adjbVals (adjCmd acc) acc 1 0x40 adjHdr 3, x.1 = 6 ∨ x.1 = 7 := by cases acc <;> decide
  intro x hx
  rcases h x hx with h | h <;> rw [h] <;> cases acc <;> rfl
theorem wit_engine_entry : ∀ acc ∈ [false, true], OutStep (fillS (adjCmd acc)) (adjCmd acc) bandRec 0 [] (padAt 0x140) ∧
    HasRead (adjCmd acc) 3 ∧ GoodEntry adjHdr ((WitHdr.of adjHdr).entry (adjCmd acc).got 1 0x40 3) ∧
    (∀ x ∈ adjbVals (adjCmd acc) acc 1 0x40 adjHdr 3,
      (fillS (adjCmd acc)).nearOf 0 bandRec (Rec.need (adjCmd acc).dst x.1) true = .ok (padAt 0x140 x.1)) ∧
    (acc = true → (adjbVals (adjCmd acc) acc 1 0x40 adjHdr 3).length ≤ 1) ∧
    ∀ x ∈ (adjCmd acc).routes 1 0x40 adjHdr (adjCmd acc).got 3, Rec.straddles (adjCmd acc).dst x.1 = false := by
  intro acc h
  have h : acc = false ∨ acc = true := by simp
  rcases h with rfl | rfl <;>
    exact ⟨⟨by decide, by decide, by decide, fun _ h => (by cases h), fun _ h => (by cases h), by decide⟩, by unfold HasRead; decide,
      by unfold GoodEntry; decide, fun x hx => routed3 _ x hx, by decide, by decide⟩
/-- A reduction at its witness: the marker, the body or the header. -/
def witCmd (x : Work) : Cmd := engCmd (.wred 1 false 0 (some (1, 0x40, 9))) [(0, rec1 0x80 4), (3, rec1 0x140 8)] [] [x]
theorem wit_engine_witness : ∀ x ∈ [Work.mark, .body 0 1, .head], (witCmd x).works bandRec = true ∧ (witCmd x).flight = [] ∧
    (witCmd x).cut = false ∧ (witCmd x).bits % 8 = 0 ∧ ∃ off, (fillS (witCmd x)).nearOf 0 bandRec
      ⟨1, 0x40 + BitVec.ofNat 64 ((witCmd x).witBytes x).1, ((witCmd x).witBytes x).2.1.length,
        Nat.log2 ((witCmd x).witBytes x).2.1.length, false, false⟩ true = .ok (.band 0, off) ∧
      off % 32 + ((witCmd x).witBytes x).2.1.length ≤ 32 := by
  intro x h
  simp only [List.mem_cons, List.not_mem_nil, or_false] at h
  rcases h with rfl | rfl | rfl
  · exact ⟨by decide, rfl, rfl, rfl, 0x40, rfl, by decide⟩
  · exact ⟨by decide, rfl, rfl, rfl, 0x50, rfl, by decide⟩
  · exact ⟨by decide, rfl, rfl, rfl, 0x40, rfl, by decide⟩
/-- A command's requests: a sector that it reads, and bytes that it writes. -/
def engReq (op : FarOp) (st : FarStage) : FarReq :=
  { FarReq.make (.engine 3) op (band0 weft0) 0x40 32 st with data := List.replicate 32 9 }
theorem wit_engine_answer : (fillCmd true [] []).kind.isItem = false ∧
    (engReq .load (.performed (List.replicate 32 1))).who = .engine 3 ∧ (List.replicate 32 (1 : Byte)).length = 32 ∧
    (engReq .store (.stored 0x4040)).stage = .stored 0x4040 ∧ (engReq .store (.stored 0x4040)).mask = [] ∧
    { fillCmd true [.out 4 [0]] [] with flight := [(9, 8 * 32)] }.flight = [(9, 8 * 32)] := by decide
theorem wit_engine_done : (fillCmd true [] []).started = true ∧ (fillCmd true [] []).kind.isItem = false ∧
    (fillCmd true [] []).todo = [] ∧ (fillCmd true [] []).flight = [] ∧ (fillCmd true [] []).lines = [] := by decide
/-- A fill beyond the band's scratchpad. -/
def fillBad : Cmd := { fillCmd true [.out 4 [0]] [] with recs := [(0, rec1 0x2000 4)] }
theorem wit_engine_error : fillBad.works bandRec = true ∧ ∃ x, (fillS fillBad).haltOf 3 fillBad bandRec = some x :=
  ⟨by decide, _, rfl⟩

/-- A request of lane 2 for the eight bytes at far address 0x40, for v6, counter 7. -/
def farReq (op : FarOp) (st : FarStage) : FarReq :=
  { FarReq.make (.lane 0 0 2) op (band0 weft0) 0x40 8 st with dst := 6, ctr := some 7, data := [1, 2, 3, 4, 5, 6, 7, 8], stamp := 3 }
/-- A package with that request, its code and data mapped. -/
def farS (r : FarReq) : State := { mapped (pkg weft0) with reqs := [(3, r)] }
theorem plain0 (op : FarOp) (st : FarStage) (h : (farReq op st).isProbe = false) : Plain (farReq op st) :=
  ⟨h, fun _ _ _ e => (by cases e), fun _ e => (by cases e)⟩

/-- The segment entry of label 0, at HBM address 0. -/
theorem segAt0 {s : State} {a : W64} (h1 : fld (s.kget (.pseg 0)) 4 0 ≤ 16) (h2 : fld a 63 48 < 2 ^ fld (s.kget (.pseg 0)) 4 0)
    (h3 : fld (s.kget (.pseg 0)) 55 12 = 0) (h4 : fld a 63 48 = 0) (h5 : s.tableBad 0 0 = false) :
    SegAt s 0 a 0 (s.table 0) (s.table 8) := ⟨h1, h2, by rw [h3, h4], h5, rfl, rfl⟩

/-- The package with other segment doubles at label 0. -/
def segS (d0 d1 : Nat) (st : FarStage) : State :=
  { farS (farReq .load st) with hbm := Mem.write (loadTables [] []) 0 (leBytes 8 d0 ++ leBytes 8 d1), accel := 5 }
/-- The state fields that the segment entries below share. -/
theorem wit_segment (d0 d1 : Nat) : (segS d0 d1 .segment).req? 3 = some (farReq .load .segment) ∧
    (farReq .load .segment).stage = .segment ∧ (segS d0 d1 .segment).behindRetry (farReq .load .segment) = false ∧
    (segS d0 d1 .segment).stageWaits 3 (farReq .load .segment) = false ∧ Plain (farReq .load .segment) ∧
    (∀ a l p, (farReq .load .segment).who ≠ .peer a l p) ∧ (farReq .load .segment).op.hostAtom = true ∧
    (farReq .load .segment).op.vendor = false ∧ (farReq .load .segment).access ≠ .fetch :=
  ⟨rfl, rfl, rfl, rfl, plain0 _ _ rfl, fun _ _ _ e => (by cases e), rfl, rfl, by decide⟩
/-- VALID, MOVING and REVOKED local entries, and one that grants nothing; a vacant one. -/
theorem wit_segment_local : ∀ e ∈ [1, 2, 3, 4, 0], ∃ d0 d1,
    SegAt (segS (e * 2 ^ 60 + 15 * 2 ^ 54) 0x1000 .segment) 0 0x40 0 d0 d1 ∧ LocalSeg d0 d1 ∧ fld d0 63 60 = e ∧
      Granted (farReq .load .segment) d0 := by
  intro e he
  have h : e = 1 ∨ e = 2 ∨ e = 3 ∨ e = 4 ∨ e = 0 := by simpa using he
  rcases h with rfl | rfl | rfl | rfl | rfl <;>
    exact ⟨_, _, segAt0 (by decide) (by decide) (by decide) (by decide) (by decide), by unfold LocalSeg; decide, by decide,
      show BitVec.getLsbD _ _ = true from by decide⟩
theorem wit_segment_ungranted : ∃ d0 d1, SegAt (segS (2 ^ 60) 0x1000 .segment) 0 0x40 0 d0 d1 ∧ LocalSeg d0 d1 ∧
    fld d0 63 60 = 1 ∧ ¬Granted (farReq .load .segment) d0 :=
  ⟨_, _, segAt0 (by decide) (by decide) (by decide) (by decide) (by decide), by unfold LocalSeg; decide, by decide,
    show ¬BitVec.getLsbD _ _ = true from by decide⟩
/-- A host segment, with no translation kept or with one of its page. -/
theorem wit_segment_host : ∃ d0 d1, SegAt (segS (2 ^ 60 + 2 ^ 58 + 15 * 2 ^ 54) 0x7000 .segment) 0 0x40 0 d0 d1 ∧ HostSeg d0 d1 ∧
    fld d0 63 60 = 1 ∧ Granted (farReq .load .segment) d0 ∧ hostTag d0 = 0 ∧ hostVa d1 0x40 / 4096 = 7 :=
  ⟨_, _, segAt0 (by decide) (by decide) (by decide) (by decide) (by decide), by unfold HostSeg; decide, by decide,
    show BitVec.getLsbD _ _ = true from by decide, by decide, by decide⟩
theorem wit_segment_hit : ∃ e ∈ ([⟨0, 0, 7, 15, 0x99⟩] : List AtsEntry), e.die = 0 ∧ e.tag = 0 ∧ e.page = 7 ∧
    e.kinds / 2 ^ (farReq .load .segment).access.code % 2 = 1 := ⟨_, .head _, by decide⟩
/-- A segment of accelerator 4, over port 3; and with that port down. -/
def peerS (r : FarReq) : State :=
  { farS r with hbm := Mem.write [] 0 (leBytes 8 (2 ^ 60 + 2 ^ 59 + 4) ++ leBytes 8 8), accel := 5, kregs := [(.plink 3, 0xF00)] }
theorem wit_segment_peer : ∃ d0 d1, SegAt (peerS (farReq .load .segment)) 0 0x40 0 d0 d1 ∧ PeerSeg 5 d0 d1 ∧ fld d0 63 60 = 1 ∧
    (portsOf (peerS (farReq .load .segment)) (fld d1 15 0))[fld (0x40 : W64) 27 12 % 1]? = some 3 ∧
    portsOf { peerS (farReq .load .segment) with kregs := [(.ptmo 3, 0x100000)] } (fld d1 15 0) = [] :=
  ⟨_, _, segAt0 (by decide) (by decide) (by decide) (by decide) (by decide), by unfold PeerSeg; decide, by decide, by decide, by decide⟩
theorem wit_segment_pages : fld ((segS 0 0 .segment).kget (.pseg 0)) 5 5 = 0 ∧
    fld ({ segS 0 0 .segment with kregs := [(.pseg 0, 0x20)] }.kget (.pseg 0)) 5 5 = 1 ∧
    2 ^ fld ((segS 0 0 .segment).kget (.pseg 0)) 4 0 ≤ fld (0x0001000000000040 : W64) 63 48 := by decide

/-- The package with other region doubles. -/
def regS (d0 d1 : Nat) (st : FarStage) : State :=
  { farS (farReq .load st) with hbm := Mem.write (loadTables [] []) 0x1000 (leBytes 8 d0 ++ leBytes 8 d1) }
theorem wit_region : ∀ e ∈ [0, 1, 2], let s := regS (e * 2 ^ 60 + 11 * 2 ^ 56) 0x2000 (.region 0x1000 0)
    (farReq .load (.region 0x1000 0)).stage = .region 0x1000 0 ∧ s.stageWaits 3 (farReq .load (.region 0x1000 0)) = false ∧
    fld (0x40 : W64) 47 28 < 2 ^ 0 ∧ s.tableBad 0 0x1000 = false ∧ fld (s.table 0x1000) 63 60 = e ∧ fld (s.table 0x1000) 59 56 = 11 ∧
    fld (s.table 0x1000) 52 37 = 0 ∧ fld (s.table 0x1000) 36 32 ≤ 16 ∧ fld (s.table 0x1000) 31 0 = 0 ∧ fld (s.table 0x1008) 63 36 = 0 ∧
    fld (s.table 0x1008) 11 0 = 0 ∧ s.heldAt 2 (farReq .load (.region 0x1000 0)) < 256 ∧ (2 : Nat) ^ 0 ≤ fld (0x10000000 : W64) 47 28 := by
  decide +kernel
theorem wit_block : ∀ e ∈ [0, 1, 2], let s := segS 0 0 (.block 0 0 0x2000 0)
    let s := { s with hbm := Mem.write s.hbm 0x2000 (leBytes 8 (e * 2 ^ 60 + 3 * 2 ^ 46 + 63 * 2 ^ 40 + 4095 * 2 ^ 20 + 2 ^ 19)) }
    (farReq .load (.block 0 0 0x2000 0)).stage = .block 0 0 0x2000 0 ∧ s.stageWaits 3 (farReq .load (.block 0 0 0x2000 0)) = false ∧
    fld (0x40 : W64) 27 12 < 2 ^ 0 ∧ s.tableBad 0 0x2000 = false ∧ fld (s.table 0x2000) 63 60 = e ∧ fld (s.table 0x2000) 59 48 = 0 ∧
    fld (s.table 0x2000) 39 20 ≤ 4095 ∧ fld (s.table 0x2000) 18 0 = 0 ∧ s.heldAt 3 (farReq .load (.block 0 0 0x2000 0)) < 256 ∧
    (2 : Nat) ^ 0 ≤ fld (0x1000 : W64) 27 12 := by
  decide +kernel
/-- A code fetch and a probe, sent to the page-in service. -/
def fetchReq : FarReq := FarReq.make (.fetch 0 0) .load (band0 weft0) 0x100 8 (.pageIn 1)
theorem wit_stage_returns : (farReq .load (.retry 2)).stage = .retry 2 ∧ (farReq .load (.pageIn 1)).stage = .pageIn 1 ∧
    (FarReq.make (.probe 0 0 9) (.probe 1) (band0 weft0) 0x40 8 (.pageIn 3)).isProbe = true ∧ fetchReq.who = .fetch 0 0 ∧
    (pkg weft0).weft? 0 0 = some weft0 ∧ (farS fetchReq).codeWaiters fetchReq.ctx weft0 fetchReq.addr = [] ∧
    ∀ b i, (farReq .load (.pageIn 1)).who ≠ .fetch b i := by
  refine ⟨by decide, by decide, by decide, by decide, by decide, by decide, fun _ _ e => (by cases e)⟩

theorem wit_channel : ∀ op ∈ [FarOp.store, .load, .atom .add true false],
    Picked (farS (farReq op (.channel 0 0 0 2 0x40))) 0 0 3 (farReq op (.channel 0 0 0 2 0x40)) ∧
    (SMap.get (farS (farReq op (.channel 0 0 0 2 0x40))).hbmIf HbmIf.idle 0).running = false ∧
    (farS (farReq op (.channel 0 0 0 2 0x40))).dead.contains (9, 0) = false ∧
    (farS (farReq op (.channel 0 0 0 2 0x40))).refuses 0 0x4040 = false ∧
    (farS (farReq op (.channel 0 0 0 2 0x40))).poisoned 0x4040 8 = false ∧
    ∀ x ∈ (farS (farReq op (.channel 0 0 0 2 0x40))).hist, x.place ≠ .hbm := by
  intro op h
  have h : op = .store ∨ op = .load ∨ op = .atom .add true false := by simpa using h
  rcases h with rfl | rfl | rfl <;>
    exact ⟨.inr ⟨by decide, by decide, by decide⟩, by decide, by decide, by decide, by decide, fun _ h => by cases h⟩
theorem wit_far_replies : (farReq .load (.performed [1, 2, 3, 4, 5, 6, 7, 8])).len % 4 = 0 ∧
    (farReq .load (.failed ⟨8, 1, 0, false⟩)).stage = .failed ⟨8, 1, 0, false⟩ ∧
    (farReq (.atom .add true false) (.performed [1, 2, 3, 4, 5, 6, 7, 8])).op = .atom .add true false ∧
    (farReq .store (.stored 0x4040)).stage = .stored 0x4040 ∧ (farReq .store (.stored 0x4040)).mask = [] ∧
    { farReq .store (.failed ⟨8, 1, 0, false⟩) with ctr := none }.ctr = none ∧ weft0.held = none := by decide

theorem wit_ats : (farReq .load .ats).stage = .ats ∧ Plain (farReq .load .ats) ∧ Plain (farReq .load .pri) ∧
    (∃ d0 d1, SegAt (segS (2 ^ 60 + 2 ^ 58 + 15 * 2 ^ 54) 0x7000 .ats) 0 0x40 0 d0 d1 ∧ HostSeg d0 d1 ∧ fld d0 63 60 ≠ 0) ∧
    15 / 2 ^ (farReq .load .ats).access.code % 2 = 1 ∧ (segS 0 0 .ats).reqs.countP (fun e => e.2.stage == .pri) < 256 ∧
    (farReq .load .pri).stage = .pri ∧ (segS 0 0 .ats).atsInvals < 32 :=
  ⟨rfl, plain0 _ _ rfl, plain0 _ _ rfl,
    ⟨_, _, segAt0 (by decide) (by decide) (by decide) (by decide) (by decide), by unfold HostSeg; decide, by decide⟩,
    by decide, by decide, rfl, by decide⟩
/-- Ports up, with credits and tokens at port 3. -/
def portS (r : FarReq) : State :=
  { farS r with
    kregs := [(.plink 3, 0xF00), (.bootst, 0x8000000000000000), (.tokens 0 3, 100), (.pexport, 0x50001)]
    ports := [(3, { Port.idle with egress := [3], credits := [(0, 4), (1, 1), (2, 5)] })]
    now := 2000 }
/-- A read of eight bytes from accelerator 4. -/
def peerRead : Inbound := ⟨4, 2, 0x40, 0, .add, [], 8, 3, false⟩
theorem wit_inbound : peerRead.port < Config.ports ∧ (portS (farReq .load (.egress 3))).up = true ∧
    (portS (farReq .load (.egress 3))).lanesUp 3 ≠ 0 ∧ peerRead.label < 2 ^ 16 ∧ Inbound.served peerRead = true ∧
    (portS (farReq .load (.egress 3))).exported 2 = none ∧
    { portS (farReq .load (.egress 3)) with hbm := [(0x50002, 128)] }.exported 2 = some 0 ∧
    Inbound.served { peerRead with kind := 9 } = false :=
  ⟨by decide, by decide, by decide, by simp [peerRead], by decide, by decide, by decide, by decide⟩
theorem wit_timeout : (farReq .load (.sent 3)).portOf = some 3 ∧ (farReq .load (.sent 3)).isProbe = false ∧
    (farReq .load (.sent 3)).at_ + ({ portS (farReq .load (.sent 3)) with now := 2 ^ 40 }).portTmo 3 ≤ 2 ^ 40 := by decide

/-- The answer to a peer's read. -/
def peerReq : FarReq := FarReq.make (.peer 4 2 3) .load (band0 weft0) 0x40 4 (.respond (.data [1, 2, 3, 4]))
theorem wit_credits : ([0, 1024, 3, 4] : List Nat).length = 4 ∧ (3 : Nat) < Config.ports ∧
    (∀ v, v < 4 → ([0, 1024, 3, 4] : List Nat).getD v 0 ≤ ((portS peerReq).uport 3).holds v) ∧
    laneCount ((portS peerReq).lanesUp 3) ≠ 0 ∧
    ((portS peerReq).uport 3).windowAt + windowNs (laneCount ((portS peerReq).lanesUp 3)) ≤ (portS peerReq).now := by decide
theorem wit_tick : { State.reset with now := 1000 }.now ≥ (State.reset.uport 0).tickAt + 1000 ∧ (State.reset.uport 0).egress = [] := by decide
theorem wit_egress : (portS (farReq .load (.egress 3))).req? 3 = some (farReq .load (.egress 3)) ∧
    MaySend (portS (farReq .load (.egress 3))) 3 0 (farReq .load (.egress 3)).payload ∧
    ((portS (farReq .load (.egress 3))).uport 3).egress.find?
      (fun x => (((portS (farReq .load (.egress 3))).req? x).map (fun y => y.part == 0)).getD false) = some 3 ∧
    32 + (farReq .load (.egress 3)).chargeBytes ≤ fld ((portS (farReq .load (.egress 3))).kget (.tokens 0 3)) 20 0 := by unfold MaySend; decide
theorem wit_response : (portS peerReq).req? 3 = some peerReq ∧ peerReq.who = .peer 4 2 3 ∧ peerReq.stage = .respond (.data [1, 2, 3, 4]) ∧
    MaySend (portS peerReq) 3 1 (respBytes (.data [1, 2, 3, 4])) ∧ MaySend (portS peerReq) 3 2 256 := by unfold MaySend; decide
theorem wit_raise : { State.reset with raiseOff := [3] }.raiseOff.contains 3 = true ∧ State.reset.raiseOff.contains 3 = false ∧
    (State.reset.uport 3).egress = [] ∧ ({ Port.idle with filledAt := some 5 } : Port).filledAt = some 5 := by decide

/-! ## Events of the matrix engine, of bands, launches, saves and contexts -/

/-- A band whose one matrix command stands in its queue. -/
def bandMq (k : MKind) (st : Bool) : Band := { bandRec with mq := [⟨3, 0, k, st, 0, [], []⟩] }
/-- Its package: the core's matrix state is the band's. -/
def matS (k : MKind) (st : Bool) : State :=
  { with0 (bandMq k st) with cores := [(0, { Core.idle with serving := [(0, (0, 0))], owner := some 0 })] }
theorem wit_matrix_start : Working (matS (.mzero 1 true) false) 3 0 (bandMq (.mzero 1 true) false) ⟨3, 0, .mzero 1 true, false, 0, [], []⟩ ∧
    (bandMq (.mzero 1 true) false).matrixHeld ⟨3, 0, .mzero 1 true, false, 0, [], []⟩ = false ∧
    (matS (.mzero 1 true) false).fenceHolds 0 0 .matrix 3 = false :=
  ⟨⟨by decide, by decide, by decide, by decide, by decide⟩, by decide, by decide⟩
theorem wit_matrix_zero : Working (matS (.mzero 3 true) true) 3 0 (bandMq (.mzero 3 true) true) ⟨3, 0, .mzero 3 true, true, 0, [], []⟩ :=
  ⟨by decide, by decide, by decide, by decide, by decide⟩
/-- An MRD.raw of two lanes, whose eight registers await it. -/
def rawRead : MKind := .mrd [(2, 127, 127), (5, 0, 1)] 9 true 3 0 false
/-- Its band. -/
def rawBand : Band := { bandMq rawRead true with wefts := (bandMq rawRead true).wefts.map (fun w =>
  { w with await := (List.range 4).flatMap (fun k => [⟨9 + k, 2, 3⟩, ⟨9 + k, 5, 3⟩]) }) }
/-- Its package. -/
def rawS : State := { matS rawRead true with bands := [(0, rawBand)] }
theorem wit_matrix_read : Working rawS 3 0 rawBand ⟨3, 0, rawRead, true, 0, [], []⟩ := ⟨by decide, by decide, by decide, by decide, by decide⟩
theorem wit_matrix_read_regs : ∃ w, rawS.weft? 0 0 = some w ∧ (∀ y ∈ w.await, y.req = 3 → y.lane = 2 ∨ y.lane = 5) ∧
    ∀ k, k < 4 → (⟨9 + k, 2, 3⟩ : Await) ∈ w.await ∧ (⟨9 + k, 5, 3⟩ : Await) ∈ w.await := ⟨_, rfl, by decide, by decide⟩
/-- A weight image beyond the scratchpad. -/
def badImage : MKind := .mldw 0x10000 .e4m3 .none 0
theorem wit_matrix_error : Working (matS badImage true) 3 0 (bandMq badImage true) ⟨3, 0, badImage, true, 0, [], []⟩ ∧
    (bandMq badImage true).mfault = none ∧
    ∃ c l, (matS badImage true).matStep 0 (bandMq badImage true) ⟨3, 0, badImage, true, 0, [], []⟩ = .error (.fail c l) :=
  ⟨⟨by decide, by decide, by decide, by decide, by decide⟩, rfl, _, _, rfl⟩
/-- An MLOOP with no image in the latch. -/
def bareLoop : MKind := .mloop (rec3 0x280) 1 0 0 0 none 3 0 127
theorem wit_matrix_no_latch : Working (matS bareLoop true) 3 0 (bandMq bareLoop true) ⟨3, 0, bareLoop, true, 0, [], []⟩ ∧
    (bandMq bareLoop true).mfault = none ∧ ((matS bareLoop true).core 0).mat.latch = none :=
  ⟨⟨by decide, by decide, by decide, by decide, by decide⟩, rfl, rfl⟩
/-- A band with commands left that has lost its core's matrix state. -/
theorem wit_matrix_resume : (with0 (bandMq (.mzero 1 true) false)).band? 0 = some (bandMq (.mzero 1 true) false) ∧
    ((with0 (bandMq (.mzero 1 true) false)).core 0).owner ≠ some 0 ∧
    ((with0 (bandMq (.mzero 1 true) false)).claim 0 (bandMq (.mzero 1 true) false)).isSome = true ∧
    (bandMq (.mzero 1 true) false).mq ≠ [] ∧ ((with0 (bandMq (.mzero 1 true) false)).core 0).owner = none ∧
    (with0 (bandMq (.mzero 1 true) false)).taggedOn 0 = none := by decide
/-- The weft stands at the spec's worked MZERO. -/
def claimS : State :=
  { mapped (pkg weft0) with hbm := Mem.write (loadTables [] []) 0x4100 (leBytes 8 0x4BC0_0000_0003_B000), ctxs := [(0, { ctx0 with cseg := 0 })] }
theorem wit_claim : claimS.instrAt (band0 weft0) weft0 weft0.pc = some (.mzero 1 true Guard.always) ∧
    claims (.mzero 1 true Guard.always) = true ∧ (claimS.claim 0 (band0 weft0)).isSome = true ∧ (claimS.core 0).owner ≠ some 0 := by decide

/-- A weft that has exited. -/
def weftOver : Weft := { weft0 with lanes := List.replicate 4 { lane0 with state := .exited } }
theorem wit_retire : (pkg weftOver).weft? 0 0 = some weftOver ∧ weftOver.isOver = true ∧ ((pkg weftOver).core 0).grants = [] := by decide
/-- A record of one band of one weft of 16 lanes, which counts on counter 4095. -/
def rec0 : List W64 :=
  [0x100, 0x800, BitVec.ofNat 64 (4 * 2 ^ 32 + 2 ^ 8), BitVec.ofNat 64 (1 * 2 ^ 20 + 64), 0, 0, 0, 0x1FFF, 0, 0, 0, 0, 0, 0, 0, 0x8000000000000000]
/-- Its launch. -/
def launch0 : Launch := ⟨0, 63, rec0, 0, none, 0, false, some 0, none, none, false, none⟩
/-- A band whose wefts have all retired, of a launch of one band. -/
def doneS : State := { pkg { weftOver with retired := true } with launches := [(1, launch0)] }
theorem wit_band_retire : doneS.band? 0 = some (band0 { weftOver with retired := true }) ∧
    doneS.bandBusy 0 (band0 { weftOver with retired := true }) = false ∧ SMap.find? doneS.launches 1 = some launch0 ∧
    launch0.retired + 1 = LRec.bands launch0.doubles ∧
    doneS.bands.filter (fun e => e.2.launch == 1 && e.2.state != .retired) = [(0, band0 { weftOver with retired := true })] := by decide
/-- A launch that waits in a queue. -/
def queuedS : State :=
  { State.reset with
    launches := [(1, launch0)], ctxs := [(0, ctx0)], stamp := 7
    parts := [(0, { part0 with queues := [(63, [1])], ports := [(63, { LPort.empty with first := some (rec0.take 8) })] })]
    kregs := [(.psched 0, BitVec.ofNat 64 (4095 * 2 ^ 28)), (.bootst, 0x8000000000000000)] }
theorem wit_abort : SMap.find? queuedS.launches 1 = some launch0 ∧ launch0.failed = false ∧ ∀ e ∈ queuedS.bands, e.2.launch ≠ 1 := by decide

theorem wit_ports : (63 : Nat) < 64 ∧ (rec0.drop 8).length = 8 ∧ fld (LRec.d (rec0.drop 8) 7) 63 63 = 1 ∧
    (queuedS.port 0 63).first = some (rec0.take 8) := by decide
/-- The same with counter 4095 out of the partition's reach. -/
def poorS : State := { queuedS with kregs := [] }
theorem wit_rejected : poorS.checkRecord 0 63 (rec0.take 8 ++ rec0.drop 8) = (6, 0) := by decide
/-- The same with all counters. -/
def richS : State := { queuedS with kregs := [(.psched 0, BitVec.ofNat 64 (4095 * 2 ^ 28 + 1 * 2 ^ 16))] }
theorem wit_accepted : richS.checkRecord 0 63 (rec0.take 8 ++ rec0.drop 8) = (0, 0) := by decide
/-- The record as the bytes that LAUNCH has read, for its queue. -/
def recBytes : List Byte := (rec0.take 15 ++ [63]).flatMap (fun (d : W64) => leBytes 8 d.toNat)
/-- Its package, with all counters. -/
def pubS : State :=
  { pkg (weftPub recBytes) with parts := [(0, { part0 with queues := [(63, [])] })], kregs := richS.kregs }
theorem wit_launch_queued : pubS.band? 0 = some (band0 (weftPub recBytes)) ∧ pubS.weft? 0 0 = some (weftPub recBytes) ∧
    (weftPub recBytes).phase = some ⟨.dev, 5, true, false, some (4, recBytes)⟩ ∧
    pubS.phaseBusy 0 0 (band0 (weftPub recBytes)) ⟨.dev, 5, true, false, some (4, recBytes)⟩ = false ∧ (pubS.ctx? 0).isSome = true ∧
    fld (LRec.d (doublesOf 16 recBytes) 15) 5 0 = 63 ∧ (pubS.checkRecord 0 63 (doublesOf 16 recBytes)).1 = 0 := by decide +kernel
theorem wit_select : (queuedS.part? 0).map (fun p => p.queues) = some [(63, [1])] ∧ LRec.gang launch0.doubles = 1 ∧
    LRec.bands launch0.doubles = 1 ∧ fld (LRec.d launch0.doubles 5) 12 12 = 0 ∧
    (searchFrom (Partition.cores part0) launch0.last).find? (queuedS.fits (Need.ofRec launch0.doubles)) = some 0 := by decide
theorem wit_bypass : { launch0 with firstFail := some 5 }.firstFail = some 5 ∧ launch0.bypassOver = false := by decide
/-- A head that has waited, and a band that it may pre-empt. -/
def waitS : State :=
  { with0 { band0 weft0 with pclass := 2 } with
    launches := [(1, { launch0 with doubles := rec0.set 2 (BitVec.ofNat 64 (2 ^ 56 + 4 * 2 ^ 32 + 2 ^ 8)) })]
    parts := [(0, { part0 with queues := [(63, [1])] })], kregs := [(.psched 0, 0x100)], now := 1000 }
theorem wit_preempt : waitS.part? 0 = some { part0 with queues := [(63, [1])] } ∧ fld (waitS.kget (.psched 0)) 15 8 = 1 ∧
    (∃ l, SMap.find? waitS.launches 1 = some l ∧ l.headAt = some 0 ∧ l.sought = none ∧ waitS.depMet l = true ∧ waitS.depFailed l = false ∧
      waitS.bands.filter (fun e => e.2.part == 0 && e.2.savable && waitS.mayPreempt (waitS.effHead l) e.2)
        = [(0, { band0 weft0 with pclass := 2 })]) := ⟨by decide, by decide, _, rfl, rfl, rfl, by decide, by decide, by decide⟩

theorem wit_save_request : (pkg weft0).bands.filter (fun e => e.2.ctx == 0 && e.2.savable && (true || e.2.stopped) && e.1 == 0) = [(0, band0 weft0)] := by decide
theorem wit_save_deadline : bandSave.save = some ⟨0, false, false, 0, .host⟩ ∧ bandSave.state = .resident ∧
    0 + 1000 * fld ({ with0 bandSave with now := 65535000 }.kget (.psave 0)) 15 0 ≤ 65535000 ∧
    { with0 bandSave with now := 65535000 }.retrainsFor bandSave = false := by decide
/-- A weft that has stopped at its PPOINT, of which the first eight registers live and 64 bytes of scratchpad from 64. -/
def weftStop : Weft := { weft0 with stop := some (.ppoint ⟨1, 1, 1, 0, 0, 0⟩) }
/-- Its band, to be saved; with a pool. -/
def saveS (st : RunState) : State :=
  { with0 { band0 weftStop with save := some ⟨0, false, false, 0, .host⟩, state := st } with kregs := [(.psave 0, 0x0000FF0000000000)] }
theorem wit_save_start : (∀ w ∈ (band0 weftStop).wefts, w.stoppedFor false = true ∧ w.replies = []) ∧
    (∃ w ∈ (band0 weftStop).wefts, w.retired = false) ∧ (band0 weftStop).mq = [] ∧ ((saveS .resident).ctx? 0).isSome = true := by decide
/-- The pool has room for it, or has none. -/
theorem wit_save_room : ∃ bd, (saveS .resident).band? 0 = some bd ∧
    (saveS .resident).poolUsed 0 + ((haltedBand bd).imageBytes + ((saveS .resident).reservedPad 0 bd).foldl (fun a e => a + e.2) 0)
      ≤ 65536 * fld ((saveS .resident).kget (.psave 0)) 63 40 ∧
    65536 * fld ({ saveS .resident with kregs := [(.psave 0, 0)] }.kget (.psave 0)) 63 40 < (haltedBand bd).imageBytes :=
  ⟨_, rfl, by decide +kernel, by decide +kernel⟩
theorem wit_save_complete : (saveS .saving).working (.save 0) = false ∧ (band0 weftStop).weft? 0 = some weftStop ∧
    weftStop.retired = false := by decide
theorem wit_flush_request : (band0 weft0).state = .resident ∧ (band0 weft0).save = none ∧ (band0 weft0).restartable = true ∧
    { band0 weft0 with restartable := false }.restartable = false := by decide
/-- A flush whose band has nothing left under way. -/
def flushS : State :=
  { with0 { band0 weft0 with save := some ⟨0, true, true, 1, .host⟩, launch := 1 } with launches := [(1, launch0)] }
theorem wit_flush : flushS.flushBusy 0 { band0 weft0 with save := some ⟨0, true, true, 1, .host⟩, launch := 1 } = false ∧
    SMap.find? flushS.launches 1 = some launch0 := by decide

/-- What the keeper gives for context 255, with one constant. -/
def ctxSpec : CtxSpec := ⟨255, 0, 1, 0x1000, 1, [3], 4096, 4096, 0x0020010008004002, 5, [9]⟩
theorem wit_context : ctxSpec.ctx < 256 ∧ queuedS.ctx? ctxSpec.ctx = none ∧ (queuedS.part? 0).isSome = true ∧
    queuedS.ctxs.countP (fun e => e.2.part == 0) < 16 ∧ ctxSpec.roLen ≤ ctxSpec.sliceBytes ∧ queuedS.keeperUp = true ∧ queuedS.up = true ∧
    ctxSpec.cseg < 2 ^ 16 ∧ (queuedS.ctx? 0).isSome = true := by decide
theorem wit_bkey : bkeyOk ctxSpec.bkey = true ∧ ctxSpec.image.length ≤ ctxSpec.sliceBytes ∧ ∀ d ∈ ctxSpec.dies, d < 4 ∧
    queuedS.ctxs.foldl (fun a e => if e.2.dies.contains d then a + e.2.sliceBytes + e.2.spillReserve else a) 0
      + (ctxSpec.sliceBytes + ctxSpec.spillReserve) ≤ dieBytes := by decide
/-- A package that has booted. -/
def bootS : State := { State.reset with kregs := [(.bootst, 0x8000000000000000)] }
theorem wit_form : (19 : Nat) < 20 ∧ bootS.up = true ∧ bootS.keeperUp = true ∧ ([0, Config.granules - 1] : List Nat) ≠ [] ∧
    (∀ g ∈ [0, Config.granules - 1], g < Config.granules) ∧ bootS.parts = [] ∧ bootS.ctxs = [] ∧ bootS.launches = [] := by decide
theorem wit_part_reset : (queuedS.part? 0).isSome = true ∧ queuedS.bandsLeft 0 = false ∧ queuedS.keeperUp = true ∧
    (queuedS.part? 0).map (fun p => p.resetting) = some false := by decide
theorem wit_host : fld (bootS.kget .bootst) 63 63 = 1 ∧ (Config.hbmStacks * 2 ^ 36 - 1) + ([7] : List Byte).length ≤ Config.hbmStacks * 2 ^ 36 ∧
    Config.hbmStacks * 2 ^ 36 < Config.hbmStacks * 2 ^ 36 + ([7] : List Byte).length := by decide
/-- A weight image at the foot of a scratchpad of 32768 bytes. -/
def bandImage : Band := { bandMq (.mldw 0 .e4m3 .none 15) true with padBytes := 32768 }
theorem wit_matrix_load : FetchAt (with0 bandImage) 0 bandImage ⟨0, imageElems .e4m3 + imageScales .none, 1, 15⟩ 0 0 where
  place := rfl
  present := fun _ h => (by cases h)
  sound := rfl
  newest := fun e h => (by
    rw [show (with0 bandImage).band? 0 = some bandImage from rfl] at h
    cases h
    rfl)
  alone := .inr rfl

/-! ## Events of translation commands, rows, channels, collectives, links, the keeper and power -/

/-- An idle die 3 with operands of a command on segment 0, and the tables of `mapped`. -/
def xlS (m : Mem) : State :=
  { mapped State.reset with hbm := m, kregs := [(.xlcmd 3 2, 0x1000000000200000), (.xlcmd 3 3, 0)], accel := 5 }
theorem wit_xl_busy : fld ({ State.reset with kregs := [(.xlstat 3, 0x8000000000000000)] }.kget (.xlstat 3)) 63 63 = 1 ∧
    State.reset.keeperUp = true := by decide
/-- The entry of segment 0 in a state, with the operands of another local entry, one of a region and one of a block. -/
def entS (e stage d2 d3 : Nat) : State :=
  { mapped State.reset with
    hbm := Mem.write (loadTables [] []) ([0, 0, 0x1000, 0x2000].getD stage 0)
      (leBytes 8 (e * 2 ^ 60 + (if stage = 1 then 15 * 2 ^ 54 else if stage = 3 then 2 * 2 ^ 20 else 0)))
    kregs := [(.xlcmd 3 2, BitVec.ofNat 64 d2), (.xlcmd 3 3, BitVec.ofNat 64 d3)], accel := 5 }
theorem segAtX {s : State} (h1 : fld (s.kget (.pseg 0)) 4 0 ≤ 16) (h2 : fld (0 : W64) 63 48 < 2 ^ fld (s.kget (.pseg 0)) 4 0)
    (h3 : fld (s.kget (.pseg 0)) 55 12 = 0) (h5 : s.tableBad 0 0 = false) : SegAt s 0 0 0 (s.table 0) (s.table 8) :=
  ⟨h1, h2, by rw [h3]; rfl, h5, rfl, rfl⟩
theorem pathSegX {s : State} (h1 : fld (s.kget (.pseg 0)) 4 0 ≤ 16) (h2 : fld (0 : W64) 63 48 < 2 ^ fld (s.kget (.pseg 0)) 4 0)
    (h3 : fld (s.kget (.pseg 0)) 55 12 = 0) (h5 : s.tableBad 0 0 = false) (h6 : LocalSeg (s.table 0) (s.table 8))
    (h7 : fld (s.table 0) 63 60 = 1 ∨ fld (s.table 0) 63 60 = 2) (h8 : fld (s.table 8) 39 0 = 0x1000) (h9 : fld (s.table 8) 63 59 = 0) :
    PathSeg s 0 0 0x1000 0 := ⟨0, _, _, segAtX h1 h2 h3 h5, h6, h7, h8.symm, h9.symm⟩
/-- A segment entry of each state, and operands of a valid local entry. -/
theorem wit_xl_segment : ∀ e ∈ [0, 1, 2, 3, 4], let s := entS e 1 (2 ^ 60 + 2 ^ 54) 0x1000
    fld (s.kget (.xlstat 3)) 63 63 = 0 ∧ EntryAt s 1 0 0 0 e ∧ NewEntry s 1 0 0 (s.kget (.xlcmd 3 2)) (s.kget (.xlcmd 3 3)) := by
  intro e h
  have h : e = 0 ∨ e = 1 ∨ e = 2 ∨ e = 3 ∨ e = 4 := by simpa using h
  rcases h with rfl | rfl | rfl | rfl | rfl <;>
    exact ⟨by decide, ⟨by decide, by decide, .inl ⟨rfl, by decide, by decide, by decide⟩⟩, by decide, .inl ⟨rfl, .inl (by unfold LocalSeg; decide)⟩⟩
theorem wit_xl_region : ∀ e ∈ [0, 1, 3], let s := entS e 2 (2 ^ 60) 0x2000
    EntryAt s 2 0 0 0x1000 e ∧ NewEntry s 2 0 0 (s.kget (.xlcmd 3 2)) (s.kget (.xlcmd 3 3)) ∧
      s.covers (RegEnt.of (s.table 0x1000) (s.table 0x1008)) (RegEnt.of (s.kget (.xlcmd 3 2)) (s.kget (.xlcmd 3 3))) = true ∧
      s.coversBad 0 (RegEnt.of (s.table 0x1000) (s.table 0x1008)) (RegEnt.of (s.kget (.xlcmd 3 2)) (s.kget (.xlcmd 3 3))) = none := by
  intro e h
  have h : e = 0 ∨ e = 1 ∨ e = 3 := by simpa using h
  rcases h with rfl | rfl | rfl <;>
    exact ⟨⟨by decide, by decide, .inr (.inl ⟨rfl, 0x1000, 0, pathSegX (by decide) (by decide) (by decide) (by decide)
        (by unfold LocalSeg; decide) (by decide) (by decide) (by decide), by decide, by decide⟩)⟩,
      ⟨by decide, .inr (.inl ⟨rfl, by unfold GoodReg; decide⟩)⟩, by decide +kernel, by decide +kernel⟩
/-- The path of far address 0 to its block entry. -/
theorem pathRegX {s : State} (h : PathSeg s 0 0 0x1000 0) (h1 : s.tableBad 0 0x1000 = false)
    (h2 : GoodReg (s.table 0x1000) (s.table 0x1008)) (h3 : fld (s.table 0x1000) 63 60 ≠ 0) (h4 : fld (s.table 0x1000) 59 56 = 0)
    (h5 : fld (s.table 0x1000) 55 53 = 0) (h6 : fld (s.table 0x1008) 35 0 = 0x2000) (h7 : fld (s.table 0x1000) 36 32 = 0) :
    PathReg s 0 0 0 0 0x2000 0 := ⟨0x1000, 0, h, by decide, h1, h2, h3, h4.symm, h5.symm, h6.symm, h7.symm⟩
theorem path3 : ∀ e ∈ [0, 1, 2], PathReg (entS e 3 (2 ^ 60 + 2 * 2 ^ 20 + 2 ^ 19) 0) 0 0 0 0 0x2000 0 := by
  intro e h
  have h : e = 0 ∨ e = 1 ∨ e = 2 := by simpa using h
  rcases h with rfl | rfl | rfl <;>
    exact pathRegX (pathSegX (by decide) (by decide) (by decide) (by decide) (by unfold LocalSeg; decide) (by decide) (by decide) (by decide))
        (by decide) (by unfold GoodReg; decide) (by decide) (by decide) (by decide) (by decide) (by decide)
theorem wit_xl_block : ∀ e ∈ [0, 1, 2], let s := entS e 3 (2 ^ 60 + 2 * 2 ^ 20 + 2 ^ 19) 0
    EntryAt s 3 0 0 0x2000 e ∧ NewEntry s 3 0 0 (s.kget (.xlcmd 3 2)) (s.kget (.xlcmd 3 3)) := by
  intro e h
  have p := path3 e h
  have h : e = 0 ∨ e = 1 ∨ e = 2 := by simpa using h
  rcases h with rfl | rfl | rfl <;>
    exact ⟨⟨by decide, by decide, .inr (.inr ⟨rfl, 0, 0, 0x2000, 0, p, by decide, by decide⟩)⟩,
      ⟨by decide, .inr (.inr ⟨rfl, by decide, by decide, by decide, 0, 0, 0x2000, 0, p, by decide⟩)⟩⟩
/-- A block move of segment 0's block to row 3, its buoy back. -/
def moveC (op stage : Nat) (p : XlPhase) (lost : Bool) : XlCmd := ⟨op, stage, 0, 0, 0x1000000000300000, 0, 0x2000, 0, 0, p, lost⟩
/-- Its package, with a request that copies the block. -/
def moveS (op stage : Nat) (p : XlPhase) (rs : List (Nat × FarReq)) : State :=
  { xlS (loadTables [] [1, 2]) with xl := [(3, moveC op stage p false)], buoys := [(4, ⟨.command 3, []⟩)], reqs := rs }
/-- The request. -/
def copyReq : FarReq := FarReq.device (.copy 3 0) 0 3 0 4096 (.channel 0 0 0 2 0)
theorem wit_xl_buoy : SMap.find? (moveS 2 3 .draining []).buoys 4 = some ⟨.command 3, []⟩ ∧
    SMap.find? (moveS 2 3 .draining []).xl 3 = some (moveC 2 3 .draining false) := by decide
theorem wit_xl_copy : (moveS 2 3 .copying [(9, copyReq)]).req? 9 = some copyReq ∧ copyReq.who = .dev (.copy 3 0) ∧
    Picked (moveS 2 3 .copying [(9, copyReq)]) 0 0 9 copyReq ∧
    (SMap.get (moveS 2 3 .copying [(9, copyReq)]).hbmIf HbmIf.idle 0).running = false ∧
    (moveS 2 3 .copying [(9, copyReq)]).dead.contains (9, 0) = false ∧
    (moveS 2 3 .copying [(9, copyReq)]).poisoned 0x4000 4096 = false ∧
    (moveS 2 3 .copying [(9, copyReq)]).newPlace (moveC 2 3 .copying false) 0 = some 0x6000 ∧
    (moveS 2 3 .copying [(9, copyReq)]).copyRefused 3 0 0x4000 0 = some 0x6000 ∧
    { moveS 2 3 .copying [(9, copyReq)] with tags := [(2, 0), (3, 0)] }.copyRefused 3 0 0x4000 0 = none :=
  ⟨by decide, rfl, .inr ⟨by decide, by decide, by decide⟩, by decide, by decide, by decide, by decide, by decide, by decide⟩
theorem wit_xl_ends : (moveC 2 3 .copying false).phase = .copying ∧ (moveS 2 3 .copying []).copies 3 = [] ∧
    (moveS 2 3 .copying [(9, copyReq)]).copies 3 ≠ [] ∧ (moveC 2 2 .copying true).lost = true := by decide

/-- Row 10 of bank 63 of channel 31 is partition 4's, row 14 a guard row. -/
def rowS : State := { State.reset with tags := [(rowKey 11 31 63 10, 4), (rowKey 11 31 63 14, 30)] }
theorem wit_rows_free : (∀ r ∈ [12, 13], rowS.rowTag 11 31 63 r = 31) ∧ (∀ x ∈ [10, 11, 14, 15], rowS.rowTag 11 31 63 x = 4 ∨
    30 = rowS.rowTag 11 31 63 x ∨ 31 = rowS.rowTag 11 31 63 x) ∧ (12 : Nat) + 1 < 4096 ∧ rowS.keeperUp = true ∧
    fld (rowS.kget (.pallocst 11)) 63 63 = 0 ∧ (11 : Nat) < Config.hbmStacks := by decide
theorem wit_rows_clash : State.reset.spares = [] ∧ rowS.rowTag 11 31 63 10 ≠ 5 ∧ rowS.rowTag 11 31 63 10 ≠ 30 ∧
    rowS.rowTag 11 31 63 10 ≠ 31 ∧ (10 : Nat) ≠ 12 ∧ 10 ≤ 12 + 2 ∧ (12 : Nat) ≤ 10 + 2 ∧ (10 : Nat) < 12 ∧
    (rowKey 11 31 63 9, [4097]) ∈ ({ rowS with spares := [(rowKey 11 31 63 9, [4097])] } : State).spares := by decide
theorem wit_rows_taken : rowS.rowTag 11 31 63 10 ≠ 31 ∧ (32 ≤ (32 : Nat) ∨ 64 ≤ (63 : Nat) ∨ 4096 ≤ (4095 : Nat) + 0) := by decide
/-- The rows' job of zeroing stands at its channel. -/
def zeroReq : FarReq := FarReq.device (.zero 11 31 63 4094 1) 0 3 0 64 (.channel 11 31 63 4094 0)
theorem wit_rows_zero : { State.reset with reqs := [(9, zeroReq)] }.req? 9 = some zeroReq ∧
    Picked { State.reset with reqs := [(9, zeroReq)] } 11 31 9 zeroReq ∧
    (SMap.get State.reset.hbmIf HbmIf.idle 11).running = false ∧ State.reset.dead.contains (9, 11) = false :=
  ⟨by decide, .inr ⟨by decide, by decide, by decide⟩, by decide, by decide⟩

/-- An item's command between near record 0 and far record 1. -/
def itemCmd (wait : Option (Nat × BitVec 48)) (started : Bool) (todo : List Work) : Cmd :=
  ⟨0, 0, 3, .copy, 7, [(0, rec1 0x80 4), (1, { rec1 0 4 with hdr := 1 })], .item 4095 wait, 0, started, todo, [], [], [], [], 0, [], [], [], false, false⟩
/-- The page of channel 4095 in a state, with the item behind another that has issued all. -/
def chS (st : W64) (m : Cmd) : State :=
  { mapped (with0 bandRec) with
    hbm := Mem.write [] 0 (leBytes 8 (2 ^ 60 + 2 ^ 59 + 4) ++ leBytes 8 8), accel := 5
    chans := [(6, ⟨0x8000000000000000, [], 0⟩), (4095, ⟨st <<< 62 ||| (4 <<< 32), [(2, false), (3, false), (5, false)], 9⟩)]
    cmds := [(2, itemCmd none true []), (3, m)] }
theorem wit_page : (4095 : Nat) < Config.channels ∧
    fld ((chS 1 (itemCmd none false [])).chan 4095).d0 61 49 = fld (0x4000000000000000 : W64) 61 49 ∧
    ((chS 1 (itemCmd none false [])).chan 4095).state = 1 ∧ ((chS 2 (itemCmd none false [])).chan 4095).state = 2 ∧
    ((chS 0 (itemCmd none false [])).chan 4095).state = 0 := by decide
theorem wit_item_start : let s := chS 1 (itemCmd none false [.out 4 [0]])
    (s.chan 4095).items = [(2, false)] ++ (3, false) :: [(5, false)] ∧ SMap.find? s.cmds 3 = some (itemCmd none false [.out 4 [0]]) ∧
    (∀ x ∈ [(2, false)], x.1 ≠ 3 ∧ SMap.find? s.cmds x.1 = some (itemCmd none true [])) ∧
    ItemWaits s (itemCmd none false [.out 4 [0]]) ∧ ItemOk s (s.chan 4095).d0 (itemCmd none false [.out 4 [0]]) ∧
    s.fenceHolds 0 0 .copy 3 = false ∧ s.heldBehind (itemCmd none false [.out 4 [0]]) = false :=
  ⟨by decide, by decide, by decide, ⟨4095, none, rfl, fun _ _ e => (by cases e)⟩,
    ⟨_, 0, _, _, rfl, segAtX (by decide) (by decide) (by decide) (by decide), by unfold PeerSeg; decide, by decide, by decide⟩,
    by decide, by decide⟩
theorem wit_item_waits : ItemWaits { chS 1 (itemCmd (some (7, 1)) false []) with chans := [(7, ⟨0x4000000000000000, [], 1⟩)] }
    (itemCmd (some (7, 1)) false []) :=
  ⟨4095, _, rfl, fun _ _ e => (by cases e; exact ⟨by decide, by decide⟩)⟩
/-- The item waits on a channel that is in error. -/
theorem wit_item_lost : (itemCmd (some (6, 1)) false []).kind = .item 4095 (some (6, 1)) ∧
    ((chS 1 (itemCmd (some (6, 1)) false [])).chan 6).state = 2 := by decide
theorem wit_item_done : (itemCmd none true []).started = true ∧ (itemCmd none true []).todo = [] ∧ (itemCmd none true []).flight = [] ∧
    (itemCmd none true []).lines = [] ∧ ∀ x ∈ [(3, false), (5, false)], x.2 = false ∧ x.1 ≠ 2 := by decide

/-- This device is 5, its beacon assigns, and it is its own standby; communicator 2 holds partition 0 here and partition 1 of device 6; number 0x21 is
call 7's, in a state. -/
def beaconS (st : NumState) (k : List (Nat × Ticket)) : State :=
  { with0 bandColl with
    accel := 5, kregs := [(.pbeacon, 0x15000003E8), (.bootst, 0x8000000000000000)], comms := [(2, ⟨[⟨5, 0⟩, ⟨6, 1⟩], 0⟩)]
    numbers := [(0x21, ⟨2, 7, st, [.idle, .idle], 0, 3, []⟩)], lastNumber := 0x21
    ctxs := [(0, { ctx0 with tickets := k })], cancels := [(8, ⟨0, 0, 63, 0x21, false, 0⟩)], now := 2000000 }
theorem wit_comm : (65535 : Nat) < 2 ^ 16 ∧ ([⟨5, 0⟩] : List Member) ≠ [] ∧ SMap.find? (beaconS .assigned []).comms 65535 = none ∧
    (SMap.find? (beaconS .assigned []).comms 2).isSome = true :=
  ⟨by simp, by decide, by decide, by decide⟩
theorem wit_key : (beaconS .assigned []).beaconTable = true ∧ (beaconS .assigned []).keyNumber 2 7 ≠ none ∧
    (beaconS .assigned []).keyNumber 2 8 = none ∧ staleCall 0 8 = false ∧
    (beaconS .assigned []).mayAssign ((beaconS .assigned []).lastNumber + 1) = true ∧
    (beaconS .assigned []).number? ((beaconS .assigned []).lastNumber + 1) = none ∧ (6 : Nat) ≠ (beaconS .assigned []).accel ∧
    (beaconS .assigned []).beaconLost = false ∧ ((beaconS .assigned []).decides false).isSome = true ∧ (⟨6, 1⟩ : Member) ∈ [⟨5, 0⟩, ⟨6, 1⟩] := by decide
/-- The beacon's table is another device's. -/
def offS : State := { beaconS .assigned [] with kregs := [(.bootst, 0x8000000000000000)] }
/-- The standby is device 6, which answers over port 3. -/
def standbyS : State :=
  { beaconS .running [] with
    kregs := [(.pbeacon, 0x19000003E8), (.bootst, 0x8000000000000000), (.plink 3, 0xF00)], standbyUp := true
    ports := [(3, { Port.idle with credits := [(2, 5)] })] }
theorem wit_standby : standbyS.beaconTable = true ∧ standbyS.beaconLost = false ∧ (standbyS.decides false).isSome = true ∧
    (standbyS.decides true).isSome = true ∧ standbyS.tell.isSome = true ∧ ({ standbyS with standbyUp := false }.decides false).isSome = false ∧
    offS.up = true ∧ offS.linked = true := by decide
theorem wit_told : offS.beaconTable = false ∧ (offS.decides false).isSome = true ∧ offS.keyNumber 2 8 = none ∧
    numBefore offS.lastNumber 0x22 = true ∧ offS.number? 0x22 = none ∧ offS.accel = 5 := by decide
theorem wit_ticket : (beaconS .assigned [(255, { ticket0 with number := none })]).ticket? 0 255 = some { ticket0 with number := none } ∧
    (beaconS .assigned []).up = true ∧ (beaconS .assigned []).beaconLost = false ∧
    (beaconS .assigned []).beaconTable = true ∧ (beaconS .assigned []).weft? 0 0 = some weftColl ∧
    ∃ e ∈ (beaconS .assigned []).numbers, e.1 = 0x21 ∧ e.2.comm = ticket0.comm ∧ e.2.call = ticket0.call := by decide
/-- A sum over two ranks into record 0, from record 1; this rank's contribution taken or not. -/
def run0 (st : Bool) (got : List (List Nat)) : CollRun :=
  ⟨0, 7, 1, 0, (0, rec1 0x80 4), (1, rec1 0xC0 4), 0, 2, 0, 0, none, 5, 0, st, st, 0, [], [], got, [0, 0, 0, 0], 0⟩
/-- Its ticket. -/
def runK (r : CollRun) : Ticket := { ticket0 with run := some r }
/-- Its package, whose one member of this device is rank 0. -/
def collR (st : NumState) (r : CollRun) : State := beaconS st [(3, runK r)]
theorem placed0 (st : NumState) (r : CollRun) (h : r = run0 false (List.replicate 4 []) ∨ r = run0 true (List.replicate 4 [0])) :
    Placed (collR st r) bandColl r where
  dst := fun k hk => (by
    rcases h with rfl | rfl <;>
    · have : k = 0 ∨ k = 1 ∨ k = 2 ∨ k = 3 := by
        have : k < 4 := hk
        omega
      rcases this with rfl | rfl | rfl | rfl <;> exact ⟨_, rfl⟩)
  lines := fun _ h => (by cases h)
  sound := rfl
theorem wit_rank_start : let s := collR .assigned (run0 false (List.replicate 4 []))
    s.ticket? 0 3 = some (runK (run0 false (List.replicate 4 []))) ∧ s.band? 0 = some bandColl ∧
    s.myTurn 0 0x21 = true ∧ s.fenceHolds 0 0 .coll 5 = false ∧ Placed s bandColl (run0 false (List.replicate 4 [])) ∧
    Rec.space (rec1 0xC0 4) = 1 ∧ (∀ e ∈ s.bands, e.2.old = []) ∧
    ∀ j, j < Rec.len (rec1 0xC0 4) → ∃ y, s.nearOf 0 bandColl (Rec.need (rec1 0xC0 4) j) false = .ok y :=
  ⟨by decide, by decide, by decide, by decide, placed0 _ _ (.inl rfl), by decide, by decide, fun j hj => (by
    have : j = 0 ∨ j = 1 ∨ j = 2 ∨ j = 3 := by
      have : j < 4 := hj
      omega
    rcases this with rfl | rfl | rfl | rfl <;> exact ⟨_, rfl⟩)⟩
/-- The same from far memory. -/
def runFar0 : CollRun := { run0 false (List.replicate 4 []) with src := (1, { rec1 0xC0 4 with hdr := 1 }) }
/-- A rank that has started and waits for its source. -/
def runWait : CollRun := { runFar0 with started := true, since := 9 }
theorem wit_rank_waits : runWait.taken = false ∧ runWait.started = true ∧ runFar0.taken = false ∧ runFar0.started = false ∧
    (collR .assigned runFar0).myTurn 0 0x21 = true ∧ (collR .assigned runFar0).fenceHolds 0 0 .coll 5 = false := by decide
theorem wit_rank_asks : (collR .assigned runFar0).collRoom 0 bandColl runFar0 = none ∧ Rec.space runFar0.src.2 = 0 ∧
    Rec.len runFar0.src.2 ≠ 0 ∧ runFar0.have_ = [] ∧ runFar0.loads = [] ∧ (0 < runFar0.len ∧ runFar0.final 0 = false) := by decide
theorem wit_combine : (collR .running (run0 true (List.replicate 4 [0]))).collStarts 0 bandColl (run0 true (List.replicate 4 [0])) 0 = true ∧
    (run0 true (List.replicate 4 [0])).got.length = (run0 true (List.replicate 4 [0])).len ∧
    ((run0 true (List.replicate 4 [0])).need 0).contains 1 = true ∧ (1 : Nat) ≠ (run0 true (List.replicate 4 [0])).q ∧
    (∀ e ∈ (collR .running (run0 true (List.replicate 4 [0]))).collChunk 0 bandColl (run0 true (List.replicate 4 [0])) 0,
      ((run0 true (List.replicate 4 [0])).got.getD e []).contains 1 = false) ∧
    ((collR .running (run0 true (List.replicate 4 [0]))).collChunk 0 bandColl (run0 true (List.replicate 4 [0])) 0).length = 4 := by decide
theorem wit_report : RankState.ofCode 1 = some .started ∧ RankState.mayBecome .idle .started = true ∧
    (([.idle, .idle] : List RankState))[1]? = some .idle ∧ ([⟨5, 0⟩, ⟨6, 1⟩] : List Member)[1]? = some ⟨6, 1⟩ ∧
    (beaconS .running []).beaconTable = true ∧ ((beaconS .running []).decides false).isSome = true ∧ (6 : Nat) ≠ (beaconS .running []).accel := by decide

theorem wit_cancel : (beaconS .running []).number? 0x21 = some ⟨2, 7, .running, [.idle, .idle], 0, 3, []⟩ ∧
    SMap.find? (beaconS .running []).cancels 8 = some ⟨0, 0, 63, 0x21, false, 0⟩ ∧ (beaconS .running []).weft? 0 0 = some weftColl ∧
    (beaconS .running []).beaconLost = false ∧ (beaconS .running []).beaconTable = true ∧ (beaconS .running []).up = true ∧
    ((beaconS .running []).decides true).isSome = true ∧ ((beaconS .assigned []).decides false).isSome = true ∧
    0 + 1000 * fld ((beaconS .running []).kget .pbeacon) 23 0 ≤ (beaconS .running []).now := by decide
theorem wit_abort_here : ((beaconS .aborting []).myParts 2).contains 0 = true ∧
    SMap.find? (⟨2, 7, .aborting, [.idle, .idle], 0, 3, []⟩ : BNum).mine 0 = none := by decide
theorem wit_heartbeat : fld ((beaconS .running []).kget .pbeacon) 33 32 = 1 ∧ (beaconS .running []).heartbeatAt + 10000 ≤ 2000000 ∧
    (beaconS .running []).up = true ∧ fld ((beaconS .running []).kget .pbeacon) 43 34 = (beaconS .running []).accel ∧
    let s := { State.reset with kregs := [(.pbeacon, 0x200000000), (.bootst, 0x8000000000000000)], now := 200000 }
    fld (s.kget .pbeacon) 33 32 = 2 ∧ s.promoted = false ∧ s.up = true ∧ s.beaconRuns = false ∧ s.linked = true ∧ s.keeperUp = true ∧
      s.heartbeatAt + 200000 ≤ s.now := by decide
theorem wit_lantern : (⟨0, 0, 63, 0x21, false, 0⟩ : Cancel).sentAt + (beaconS .running []).lanternTmo ≤ 2000000 ∧
    { ticket0 with number := none }.retry = false ∧
    ticket0.sentAt + (beaconS .assigned [(3, { ticket0 with number := none })]).lanternTmo ≤ 2000000 := by decide

/-- Scrubbing is on at stack 11, port 15 has its four lanes up. -/
def linkS : State := { State.reset with kregs := [(.plink 15, 0x0F00), (.pscrub 11, 0x8000000000000008)] }
theorem wit_scrub : (11 : Nat) < Config.hbmStacks ∧ (0xB000000040 : W64).toNat / 2 ^ 36 = 11 ∧ fld (linkS.kget (.pscrub 11)) 63 63 = 1 := by decide
/-- The scrub's request, one or two symbols wrong. -/
def scrubReq (bad : Nat) : FarReq := FarReq.device (.scrub 0xB000000040 bad) 0 3 0 64 (.channel 11 0 0 0 64)
theorem wit_scrub_access : ∀ bad ∈ [1, 2], { linkS with reqs := [(9, scrubReq bad)] }.req? 9 = some (scrubReq bad) ∧
    Picked { linkS with reqs := [(9, scrubReq bad)] } 11 0 9 (scrubReq bad) ∧
    (SMap.get linkS.hbmIf HbmIf.idle 11).running = false ∧ linkS.dead.contains (9, 11) = false := by
  intro b h
  have h : b = 1 ∨ b = 2 := by simpa using h
  rcases h with rfl | rfl <;> exact ⟨by decide, .inr ⟨by decide, by decide, by decide⟩, by decide, by decide⟩
theorem wit_scrub_die : (3 : Nat) < 4 ∧ fld ({ linkS with kregs := [(.pscrub 15, 0x8000000000000000)] }.kget (.pscrub (12 + 3))) 63 63 = 1 := by
  decide
theorem wit_lanes : linkS.disabled 15 = 0 ∧ linkS.lanesUp 15 = 15 ∧ fld (linkS.kget (.pberr 15)) 43 24 ≤ fld (linkS.kget (.pberr 15)) 63 44 ∧
    (8 : Nat) ∈ [15, 3, 12, 1, 2, 4, 8] ∧ 8 &&& (linkS.retraining 15 ||| linkS.disabled 15) = 0 := by decide
/-- A width change is under way at port 3, and lane 3 of it retrains. -/
def widthS (n : Nat) : State :=
  { State.reset with kregs := [(.plink 3, 0x080700)], ports := [(3, { Port.idle with want := some 3, fails := [(3, n)] })] }
theorem wit_width : ((widthS 0).uport 3).want = some 3 ∧ (widthS 0).lanesUp 3 ≠ 0 ∧ (widthS 0).lanesUp 3 < 16 := by decide
theorem wit_retrain : (widthS 2).retraining 3 / 2 ^ 3 % 2 = 1 ∧ SMap.get ((widthS 1).uport 3).fails 0 3 < 2 ∧
    2 ≤ SMap.get ((widthS 2).uport 3).fails 0 3 := by decide
theorem wit_hbm : State.reset.keeperUp = true ∧ (State.reset.hbmAt 11).running = false ∧ State.reset.saveStreams 11 = false ∧ (saveS .saving).saveStreams 0 = true ∧
    ({ State.reset with hbmIf := [(11, ⟨none, true⟩)] }.hbmAt 11).running = true ∧
    ({ State.reset with hbmIf := [(11, ⟨some 0, false⟩)] }.hbmAt 11).requested = some 0 := by decide

theorem wit_image : fld (bootS.kget .bootst) 63 63 = 1 ∧ (1 : Nat) = State.reset.boot.images.length + 1 := by decide
/-- An image without a header fails its first check. -/
theorem wit_image_fails : State.reset.imageFails 1 [] [] ≠ 0 := by
  simp only [State.imageFails, List.length_nil, show ((0 : Nat) != 4096) = true from rfl, Bool.true_or, if_true]
  exact fun h => absurd (Nat.eq_zero_of_add_eq_zero_right (Nat.eq_zero_of_add_eq_zero_right (Nat.eq_zero_of_add_eq_zero_right
    (Nat.eq_zero_of_add_eq_zero_right h)))) (by decide)
/-- Keeper firmware is loaded. -/
def attestS (n : Nat) : State := { State.reset with boot := ⟨[(1, ⟨0, 0⟩)], [], [], some ⟨0, (1, 1), none⟩, n, 1, none⟩ }
theorem wit_attest : (List.replicate 32 (0 : Byte)).length = 32 ∧ (attestS 0).boot.attest = some ⟨0, (1, 1), none⟩ ∧ (attestS 0).keeperUp = true ∧ (attestS 0).boot.boots ≤ 2 ^ 20 ∧ (attestS 0).boot.reports < 32768 ∧
    32768 ≤ (attestS 32768).boot.reports := by
  refine ⟨by simp, rfl, by decide, by decide, by simp [attestS], by simp [attestS]⟩
theorem wit_keeper : KReg.special (.hbmdl 19) = false ∧ KReg.special .evack = false ∧ (KReg.hbmdl 19).present = true ∧
    State.reset.keeperUp = true := by decide

/-- A package at 1300 MHz. -/
def powerS : State := { State.reset with kregs := [(.pwrstat, BitVec.ofNat 64 (1300 * 2 ^ 16))], now := 200000, coolSince := some 100000 }
theorem wit_power : powerS.powerOff = false ∧ powerS.powerAt + 1000 ≤ powerS.now ∧ ([0, 0, 0, 0] : List Nat).length = 4 ∧
    powerS.plimit < 60000 ∧ 100 * 0 < 95 * powerS.plimit ∧ 100 * 0 < 95 * powerS.ilimit ∧ powerS.hot = [] ∧
    powerS.coolSince = some 100000 ∧ (∀ d, d < 4 → ([0, 0, 0, 0] : List Nat).getD d 0 < powerS.tThr d) ∧ (∀ d, d < 4 → ([0, 0, 0, 0] : List Nat).getD d 0 ≤ powerS.tj d) := by decide
/-- One at 600 MHz, over its limits of power or current. -/
theorem wit_power_low : { State.reset with kregs := [(.pwrstat, BitVec.ofNat 64 (600 * 2 ^ 16))] }.fclk = 600 ∧ powerS.fclk = 1300 ∧
    powerS.ilimit < 60000 := by decide
theorem wit_thermal : powerS.tj 3 < powerS.tWarn 3 ∧ powerS.tWarn 3 ≤ 255 ∧ powerS.tThr 3 ≤ 255 ∧ powerS.tCrit 3 ≤ 255 ∧ 3 ∉ powerS.hot := by decide

/-! ## Decoding: words written out in the spec -/

theorem test_decode_worked : ∀ e ∈ worked, decodeWords e.1 = .ok e.2 e.1.length := by decide

/-- The words of one family with what the spec writes beside them. -/
def readsAs (ws : List Nat) (i : Instr) : Bool := decodeWords ws == .ok i ws.length && encode i == ws && WellFormed i

/-- Opcode 0x001, dst 9, A 5, B 7, ext 2, guard 0b0111 (worked example of R103). -/
theorem test_decode_integer : readsAs [0x0042_4050_3809_C000]
    (.iaddc ⟨9, false, .op (.v 5), .op (.v 7), .none, 0, false, 2, Guard.always, .none, .identity⟩) = true := by decide
/-- Opcode 0x022, dst 3, A 2, guard p1, route target A with the modifier 0x38E (R53). -/
theorem test_decode_move : readsAs [0x0880_C020_0000_538E]
    (.mov ⟨3, false, .op (.v 2), .none, .none, 0, false, 0, ⟨false, 1⟩, .a, .rotate 6 14⟩) = true := by decide
/-- Opcode 0x038, FI: IADD v2, v1, 5. -/
theorem test_decode_immediate : readsAs [0x0E00_8017_0000_0005] (.iaddImm ⟨2, false, .v 1, Guard.always, 5⟩) = true := by decide
/-- FCVT with the format pair of E4M3 from FP32, rnd 4, ext 2. -/
theorem test_decode_float : readsAs [0x1382_4051_8409_C000]
    (.fcvt ⟨9, false, .op (.v 5), .fmt .e4m3 .f32, .none, 4, false, 2, Guard.always, .none, .identity⟩) = true := by decide
/-- BALLOT s5, p1. -/
theorem test_decode_quad : readsAs [0x28C1_4010_0001_C000]
    (.ballot ⟨5, false, .pred 1, .none, .none, 0, false, 0, Guard.always, .none, .identity⟩) = true := by decide
/-- AADD of 32 bits on band scratchpad with both hints. -/
theorem test_decode_atomic : readsAs [0x3901_20C9_1C00_0100]
    (.aadd ⟨4, .s 6, 2, .band, ⟨false, 1⟩, true, true, 0x100⟩) = true := by decide
/-- STU.r to die scratchpad. -/
theorem test_decode_store : readsAs [0x38C0_E08A_7800_0000] (.stu ⟨3, .s 4, 2, .die, Guard.always, false, true, 0⟩) = true := by decide
/-- LANEMASK, RACQ's zeros are refused with another guard. -/
theorem test_decode_blocks : readsAs [0x0EE * 2 ^ 54 + 0x1C000] .racq = true ∧
    ∃ r d, decodeWords [0x0EE * 2 ^ 54 + 0x4000] = .bad r d := ⟨by decide, _, _, rfl⟩
/-- FENCE.X lane, copy and FENCE.X matrix, lane; BARA and BARW at barrier 2 (R199, R208). -/
theorem test_decode_ordering : readsAs [0x4040_0000_0003_8200] (.fenceX .lane .copy) = true ∧
    readsAs [0x4040_0000_0003_B000] (.fenceX .matrix .lane) = true ∧
    readsAs [0x4101_4000_0003_9000] (.bara 5 2 false false Guard.always) = true ∧
    readsAs [0x4140_00A0_0003_9000] (.barw (.v 5) 2 false false Guard.always) = true := by decide
/-- ITSET it0, dimension 1, with the constants 2 and 16. -/
theorem test_decode_record : readsAs [0x4800_28D4_A003_A100] (.itset 0 (.dim 1) (.k 2) (.k 6) Guard.always) = true := by decide
/-- CHAIN's three words. -/
theorem test_decode_chain : readsAs [0x4A41_0040_000B_C028, 0x0220_1980_402F_8048, 0]
    (.chain ⟨4, 2, 0, some 1, none, 5, false, Guard.always, 0x0220_1980_402F_8048, 0⟩) = true := by decide
/-- MLDW.s8 s4; MLOOP m1, it3, s8, s12; MWAIT m1; MEPI.bias.clamp.wit m1, it5, s6, s7, s10. -/
theorem test_decode_matrix : readsAs [0x4AC0_2080_0003_D800] (.mldw (.s 4) .s8 .none 0 Guard.always) = true ∧
    readsAs [0x4B00_0070_8863_A000] (.mloop 3 4 (some 12) 1 0 0 Guard.always) = true ∧
    readsAs [0x4B40_0000_0003_A000] (.mwait (some 1) Guard.always) = true ∧
    readsAs [0x4B82_80B0_683B_BC00] (.mepi ⟨some 10, 5, some 6, some 7, 1, 0, false, 0, Guard.always⟩) = true := by decide
/-- WRED.max c2, it1, it0, [band: s6]; with .last; WRED.clamp with its bounds in s5; ADJB c3, it4, it5, [band: s6]. -/
theorem test_decode_witness : readsAs [0x4C40_8020_0833_8004] (.wred ⟨2, 1, 0, some (3, 1), 0, false, 0, Guard.always⟩) = true ∧
    readsAs [0x4C40_4020_0833_8404] (.wred ⟨1, 1, 0, some (3, 1), 0, true, 0, Guard.always⟩) = true ∧
    readsAs [0x4C40_4040_1843_9054] (.wred ⟨1, 2, 1, some (4, 1), 2, false, 5, Guard.always⟩) = true ∧
    readsAs [0x4C80_C080_5833_9000] (.adjb ⟨3, 4, 5, 3, false, 1, Guard.always⟩) = true := by decide
/-- RCOPY c6, s3, it2, it1; TCOPYC.add.f32 c5, it2, it1, s12; COLLW s11, s10; COLLC s12, s10. -/
theorem test_decode_fabric : readsAs [0x4CC1_A060_200B_8000] (.rcopy 6 (.s 3) 2 1 none Guard.always) = true ∧
    readsAs [0x4D01_4040_1863_8800] (.tcopyc ⟨5, 2, 1, 6, 1, none, Guard.always⟩) = true ∧
    readsAs [0x4D82_E140_0003_8000] (.collw 11 10 Guard.always) = true ∧
    readsAs [0x4DC3_2140_0003_8000] (.collc 12 10 Guard.always) = true := by decide
/-- MTSR sr.flags, 0; LAUNCH s20, [die: s4]; PROBE.wr s20, s9 and PROBE.x. -/
theorem test_decode_system : readsAs [0x5840_2880_020E_0000] (.mtsr false (.k 0) .flags Guard.always) = true ∧
    readsAs [0x5985_2080_0003_C000] (.launch 20 (.s 4) true Guard.always) = true ∧
    readsAs [0x59C5_2120_0003_A000] (.probe 20 (.s 9) 1 Guard.always) = true ∧
    readsAs [0x59C5_2120_0003_E000] (.probe 20 (.s 9) 3 Guard.always) = true := by decide
/-- ROUTEX with a broadcast on B before an FFMA.rz with a butterfly on A. -/
theorem test_decode_routex : (decodeWords [0x7FDA_0200_0000_0000, 0x059 * 2 ^ 54 + 0x1C000 + 0x1504]) =
    .ok (.routex ⟨.broadcast 2 0, .b, .identity, .none⟩ .ffmaRz
      ⟨0, false, .op (.v 0), .op (.v 0), .op (.v 0), 0, false, 0, Guard.always, .a, .butterfly 4 4⟩) 2 := by decide
/-- The opcode 0x1FE is no instruction, and a ROUTEX cannot stand before the literal of its own kind. -/
theorem test_decode_reserved : decodeTableWord 64 0x7F80_0000_0000_0000 = none ∧
    ∃ r d, decodeWords [0x7FDA_0200_0000_0000, 0x7FDA_0200_0000_0000] = .bad r d := ⟨by decide, _, _, rfl⟩

/-! ## WellFormed refuses -/

/-- IADD v3, v1, v2. -/
def fOk : F3 := ⟨3, false, .op (.v 1), .op (.v 2), .none, 0, false, 0, Guard.always, .none, .identity⟩
theorem test_wf_accepts : WellFormed (.iadd fOk) = true := by decide
/-- The negated always; a missing source; rounding where none goes; a destination under nwb; a route without a target, on a
field that none may route, and a distance beyond its segment; an odd pair; a predicate destination p7; an s destination that
does not exist. -/
theorem test_wf_f3 : (WellFormed (.iadd { fOk with guard := ⟨true, 7⟩ }) || WellFormed (.iadd { fOk with b := .none })
    || WellFormed (.iadd { fOk with rnd := 1 }) || WellFormed (.iadd { fOk with nwb := true })
    || WellFormed (.iadd { fOk with route := .rotate 2 1 }) || WellFormed (.imad { fOk with c := .op (.v 1), target := .c })
    || WellFormed (.iadd { fOk with target := .a, route := .rotate 1 5 }) || WellFormed (.iadd64 fOk)
    || WellFormed (.icmp { fOk with dst := 7 }) || WellFormed (.mov { fOk with b := .none, dst := 64, ext := 1 })) = false := by decide
theorem test_wf_immediate : (WellFormed (.iaddImm ⟨1, true, .v 1, Guard.always, 5⟩) || WellFormed (.shlImm ⟨1, false, .v 1, Guard.always, 32⟩)
    || WellFormed (.movi ⟨64, false, 1, Guard.always, 5⟩)) = false := by decide
theorem test_wf_control : (WellFormed (.exit ⟨true, 0, Guard.always, none, 0⟩) || WellFormed (.bra ⟨false, 1, Guard.always, none, 0⟩)
    || WellFormed (.brx ⟨false, 0, Guard.always, some (.v 1), 0⟩) || WellFormed (.callx ⟨false, 0, Guard.always, some (.s 3), 0⟩)
    || WellFormed (.ret ⟨false, 0, Guard.always, some (.s 3), 8⟩)) = false := by decide
theorem test_wf_memory : (WellFormed (.ldu (fmw 4 .band false false)) || WellFormed (.ld { fmw 3 .band false false with data := 3 })
    || WellFormed (.ld (fmw 2 .band false true)) || WellFormed (.stu { fmw 2 .band false false with base := .v 1 })
    || WellFormed (.aadd (fmw 2 .spill false false)) || WellFormed (.ainc (fmw 3 .band false false))
    || WellFormed (.acas { fmw 3 .band false false with data := 2 })) = false := by decide
theorem test_wf_engine : (WellFormed (.bara 0 4 false true Guard.always) || WellFormed (.itset 0 .clr (.v 1) (.v 0) Guard.always)
    || WellFormed (.itld 0 (.v 1) false Guard.always) || WellFormed (.fload ⟨1, .s 4, .s 6, 1, none, Guard.always⟩)
    || WellFormed (.fatom ⟨0, .s 4, .s 6, .fadd, true, false, none, Guard.always⟩) || WellFormed (.cwait 0 (.v 1) none Guard.always)
    || WellFormed (.fill 0 0 (.v 1) true Guard.always) || WellFormed (.mldw (.s 4) .f32 .none 0 Guard.always)
    || WellFormed (.mepi ⟨some 4, 0, none, none, 0, 0, false, 0, Guard.always⟩) || WellFormed (.mrd ⟨2, .v 0, .v 0, 0, true, 0, false, Guard.always⟩)
    || WellFormed (.wred ⟨0, 0, 0, none, 0, false, 5, Guard.always⟩) || WellFormed (.tcopyc ⟨0, 0, 0, 0, 1, some 2, Guard.always⟩)) = false := by decide
theorem test_wf_system : (WellFormed (.mtsr true (.v 1) .flags Guard.always) || WellFormed (.launch 0 (.v 1) false Guard.always)
    || WellFormed (.coll 0 0 ⟨true, 7⟩)
    || WellFormed (.routex ⟨.rotate 2 1, .a, .identity, .none⟩ .iadd { fOk with target := .a, route := .rotate 2 1 })
    || WellFormed (.pairIadd ⟨8, .v 5, 7, 1⟩ .fmul ⟨12, .s 2, 3, 0⟩) || WellFormed (.pairIadd ⟨8, .v 5, 7, 1⟩ .fmul ⟨13, .v 1, 3, 0⟩)
    || WellFormed (.pairSIadd ⟨64, .s 5, 7, 0⟩ .fmul ⟨13, .v 1, 3, 0⟩)) = false := by decide

/-! ## What the encoder, a step and the memory are said of -/

theorem wit_round_trip : WellFormed (.bkpt Guard.always 5) = true ∧ encode (.bkpt Guard.always 5) ≠ [] := by decide
theorem wit_one_meaning : (∀ w ∈ [0x5900_0007_0000_0005], w < 2 ^ 64) ∧
    decodeWords [0x5900_0007_0000_0005] = .ok (.bkpt Guard.always 5) 1 := ⟨by simp, by decide⟩
theorem wit_memory : MemoryWf State.reset := ⟨by decide, by decide⟩
/-- A package about to fetch the spec's worked NOP. -/
def nopS : State := State.reset.withFetchWord 64 0x3280_E000_0000_0000
theorem wit_step : nopS.turns = [.slot 0 0] ∧ nopS.servingOn 0 0 = some (0, 0) ∧ (nopS.band? 0).isSome = true ∧
    (nopS.weft? 0 0).map (fun w => (w.bundle, w.reform)) = some (0, true) := by decide
/-- A weft in its bundle before that word, and its package. -/
def standing : State :=
  { mapped (pkg weft0) with
    hbm := loadTables [] (List.replicate 0x100 0 ++ leBytes 8 0x3280_E000_0000_0000), ctxs := [(0, { ctx0 with cseg := 0 })], turns := [.slot 0 0] }
theorem wit_step_runs : standing.turns = .slot 0 0 :: [] ∧ standing.servingOn 0 0 = some (0, 0) ∧
    (standing.wake 0 0).weft? 0 0 = some weft0 ∧ (band0 weft0).state = .resident ∧ weft0.seq = 0 ∧ weft0.spent = false ∧ (band0 weft0).save = none ∧
    decodeWords [0x3280_E000_0000_0000] = .ok (.nop ⟨false, 0, Guard.always, none, 0⟩) 1 := by decide
theorem wit_step_fetch : (standing.wake 0 0).fetch (band0 weft0) weft0 weft0.pc = .words [0x3280_E000_0000_0000] := by decide +kernel
/-- Two wefts on the slot, of which the one that is served has had its time. -/
def bandTwo : Band := { band0 weft0 with wefts := [{ weft0 with spent := true }, weft0] }
/-- Their package, at the worked NOP. -/
def twoAt : State := { standing with bands := [(0, bandTwo)], turns := [] }
theorem wit_slot_switch : { twoAt with turns := [.slot 0 0] }.servingOn 0 0 = some (0, 0) ∧ bandTwo.weft? 0 = some { weft0 with spent := true } ∧
    twoAt.deferring bandTwo { weft0 with spent := true } = false ∧ twoAt.switchOrder twoAt.prioOf 0 0 = [(0, 1)] ∧
    moved ((twoAt.switchTo 0 0 (0, 1)).attempt exec 0 1) = true := by decide +kernel
/-- Whether an event goes on. -/
def goesOn (f : State → Out) (s : State) : Bool :=
  match f s with
  | .next t => !t.stalled
  | _ => false
theorem wit_step_first : ∃ f rest, (pkg weftRep).pending = f :: rest ∧ goesOn f (pkg weftRep) = true := ⟨_, _, rfl, by decide +kernel⟩
theorem wit_step_idle : State.reset.pending.all (fun f => !goesOn f State.reset) = true ∧ State.reset.activeSlots = [] := by decide +kernel
theorem wit_step_slot : { standing with turns := [] }.pending.all (fun f => !goesOn f { standing with turns := [] }) = true ∧
    { standing with turns := [] }.activeSlots = [(0, 0)] ∧
    ({ standing with turns := [] }.slotTurn exec State.prioOf 0 0).isSome = true := by decide +kernel
theorem wit_step_chance : { State.reset with turns := [.chance (.masked 9 0)] }.turns = .chance (.masked 9 0) :: [] := by decide
theorem wit_step_wait : { State.reset with turns := [.wait 5] }.turns = .wait 5 :: [] := by decide
theorem wit_step_event : { State.reset with turns := [.event .packageReset] }.turns = .event .packageReset :: [] := by decide

/-! ## Single steps -/

/-- The first step of a placed word forms the bundle or runs the word. -/
def after (w : Nat) : Option Weft :=
  match step (State.reset.withFetchWord 64 w) with
  | .next t => t.weft? 0 0
  | _ => none

/-- NOP goes on to the next word (R119). -/
theorem test_step_nop : (after 0x3280_E000_0000_0000).map (fun w => (w.lane 0).pc) = some 8 := by decide +kernel
/-- The reserved opcode 0x1FE traps every lane with group 1 (R36); the band has no handler. -/
theorem test_step_reserved : (after 0x7F80_0000_0000_0000).map (fun w => (w.lane 15).tcause.toNat % 32) = some 1 := by decide +kernel

/-- The weft after a word, from a package. -/
def runs (i : Instr) (s : State) : Option Weft :=
  match exec i s with
  | .next t => t.weft? 0 0
  | _ => none

/-- The pairs of the worked example of R104: v5:v4 and v7:v6. -/
def weftCarry (p2 : W64) (x : SMap W32) : Weft :=
  { weft0 with v := [(256, 0xFFFFFFF0), (320, 1), (384, 0x20), (448, 2)] ++ x, p := [(1, 5), (2, p2)] }
/-- IADDC v8, v4, v6, p2 leaves 0x10 and sets p2. -/
theorem test_iaddc_low : (runs (.iaddc ⟨8, false, .op (.v 4), .op (.v 6), .none, 0, false, 2, Guard.always, .none, .identity⟩)
    (pkg (weftCarry 0 []))).map (fun w => (w.vget 8 0, (w.pget 2).getLsbD 0)) = some (0x10, true) := by decide +kernel
/-- IADDC v9, v5, v7, p2 leaves 4 and clears p2. -/
theorem test_iaddc_high : (runs (.iaddc ⟨9, false, .op (.v 5), .op (.v 7), .none, 0, false, 2, Guard.always, .none, .identity⟩)
    (pkg (weftCarry 15 []))).map (fun w => (w.vget 9 0, (w.pget 2).getLsbD 0)) = some (4, false) := by decide +kernel
/-- The worked FCVT.rs of R136: 1.3 in lanes 0 and 1, seeds 1, byte 2 of v9: 1.375 and 1.25; IX is set. -/
theorem test_fcvt_rs : (runs (.fcvt ⟨9, false, .op (.v 5), .fmt .e4m3 .f32, .none, 4, false, 2, Guard.always, .none, .identity⟩)
    (pkg { weft0 with v := [(320, 0x3FA66666), (321, 0x3FA66666)], lanes := [{ lane0 with rs := lfsrSeed 0 1 }, { lane0 with rs := lfsrSeed 1 1 }, lane0, lane0] })).map
    (fun w => (w.vget 9 0, w.vget 9 1)) = some (0x003B0000, 0x003A0000) := by decide +kernel
/-- The worked LSTK of R111, odd form: segment s1, region s2, block and offset from v6. -/
theorem test_lstk : (runs (.lstk ⟨19, false, .op (.s 1), .op (.s 2), .op (.v 6), 0, false, 0, Guard.always, .none, .identity⟩)
    (pkg { weft0 with v := [(384, 0x0789A0BC)], s := [(1, 0x12), (2, 0x3456)] })).map (fun w => w.sget 9)
    = some 0x001203456789A0BC := by decide +kernel
/-- BALLOT writes the lanes whose predicate is true (R154). -/
theorem test_ballot : (runs (.ballot ⟨5, false, .pred 1, .none, .none, 0, false, 0, Guard.always, .none, .identity⟩) (pkg weft0)).map
    (fun w => w.sget 5) = some 5 := by decide +kernel
/-- A 32-bit store to band scratchpad writes its bytes low first (R187). -/
theorem test_store_bytes : (match exec (.st ⟨1, .s 4, 2, .band, Guard.always, false, false, 0x10⟩) (pkg weft0) with
    | .next t => Mem.read (t.mem (.band 0)) 0x50 4
    | _ => []) = [0xFF, 0xFF, 0xFF, 0xFF] := by decide +kernel

end Sys2Proof.Tests
end

section
/-! PROOFS. R104: a lane word of one operation that no lane traps, whatever exceptions are enabled; what such a word leaves in its v
register, in its carry predicate and in the program counters; the ext field of an F3 word at decode. From these, IADDC and ISUBB. -/
namespace Sys2Proof
open Sys2Proof.Machine

/-! ## The ext field at decode -/

theorem worst_ne_none {bs : List Bad} (h : bs ≠ []) : worst bs ≠ none := by
  cases bs with
  | nil => exact absurd rfl h
  | cons b bs =>
    unfold worst
    cases worst bs with
    | none => simp
    | some c => simp only; split <;> simp

/-- A word with an offending field is refused (R36). -/
theorem Dec.of_bad (w : Nat) {bads : List Bad} (h : bads ≠ []) (i : Instr) (n : Nat) :
    ∃ r d, Dec.of w bads i n = .bad r d := by
  obtain ⟨b, hb⟩ := Option.ne_none_iff_exists'.mp (worst_ne_none h)
  exact ⟨b.reason, badDetail w false b, by rw [Dec.of, hb]⟩

theorem F3Op.ofCode_opc (op : F3Op) : F3Op.ofCode op.info.opc = some op := by cases op <;> rfl

theorem F3Op.opc_lt (op : F3Op) : op.info.opc < 2 ^ 9 := by cases op <;> decide

/-- A word that begins with the opcode of an F3 instruction is decoded as one. -/
theorem decodeWords_f3 {w : Nat} {op : F3Op} (h : bits w 63 54 = op.info.opc) :
    decodeWords [w] = Dec.of w (f3Bad op w) (instrOfF3 op (f3Of op w)) 1 := by
  have lt := op.opc_lt
  have hbits : w / 2 ^ 54 % 2 ^ 10 = op.info.opc := h
  have h63 : bits w 63 63 = 0 := by
    show w / 2 ^ 63 % 2 ^ 1 = 0
    omega
  have hopc : bits w 62 54 = op.info.opc := by
    show w / 2 ^ 54 % 2 ^ 9 = op.info.opc
    omega
  simp [decodeWords, decode, h63, hopc, op.ofCode_opc]

/-- A reserved ext field offends in an F3 word with the modifier field for its C. -/
theorem f3Bad_of_extBad {op : F3Op} {w : Nat} (hm : op.info.isMod = true) (hz : op.cZero = false)
    (h : ∀ p, extBad op.info.ext p w ≠ []) : f3Bad op w ≠ [] := by
  simp [f3Bad, cBad, hm, hz, h]

theorem mbz_ne_nil {w hi lo : Nat} (h : bits w hi lo ≠ 0) : mbz w hi lo ≠ [] := by simp [mbz, h]

/-- The carry code 7 and a nonzero [22:21] are reserved (R104). -/
theorem extBad_carry {w : Nat} (h : bits w 22 21 ≠ 0 ∨ bits w 20 18 = 7) (p : Nat) : extBad .carry p w ≠ [] := by
  rcases h with h | h
  · simp [extBad, mbz_ne_nil h]
  · simp [extBad, rsv, h]

/-- A word of a carry opcode whose carry field is reserved is refused. -/
theorem decodeWords_carry_reserved {w : Nat} {op : F3Op} (hop : bits w 63 54 = op.info.opc) (hm : op.info.isMod = true)
    (hz : op.cZero = false) (hx : op.info.ext = .carry) (h : bits w 22 21 ≠ 0 ∨ bits w 20 18 = 7) :
    ∃ r d, decodeWords [w] = .bad r d := by
  rw [decodeWords_f3 hop]
  exact Dec.of_bad w (f3Bad_of_extBad hm hz (hx ▸ extBad_carry h)) _ _

end Sys2Proof

namespace Sys2Proof.Machine
open Sys2Proof.Safety

/-! ## Lane words that no lane traps -/

/-- A lane word that issues and traps in no lane: its weft is what `apply` makes of it, and nothing else changes but a cycle count. -/
theorem State.runPrep_untrapped {s : State} {b i : Nat} {bd : Band} {w : Weft} (mk : Weft → Prep)
    (h : Issues s b i bd w (mk w).needs) (hn : ∀ e ∈ (mk w).eff.lanes, e.cause = none) :
    ∃ t, s.runPrep mk = .next t ∧ OnlyWeft s t b i ∧
      t.weft? b i = some (w.apply (mk w).eff (w.chainFor ((mk w).needs.latch.map (fun r => r.2)))) := by
  obtain ⟨-, hb, hw, -⟩ := State.current_some h.current
  have ht : (mk w).eff.traps = [] := by
    refine List.filterMap_eq_nil_iff.mpr fun e he => ?_
    rw [hn e he]; rfl
  exact ⟨_, State.runPrep_of mk h, State.finish_calm hb hw _ _ ht⟩

/-- An F3 word that issues and traps in no lane: what its weft is afterwards, and that nothing else changes but a cycle count. -/
theorem runF3With_untrapped {op : F3Op} {f : F3} {fx : Option FX} {sem : Sem} {s : State} {b i : Nat} {bd : Band} {w : Weft}
    (h : Issues s b i bd w (f3Needs op f fx w)) (hn : ∀ e ∈ ((f3Part op f fx sem w).eff w).lanes, e.cause = none)
    (h7 : ∀ r ∈ (f3Part op f fx sem w).predDsts, r ≠ 7) :
    ∃ t w', runF3With op f fx sem s = .next t ∧ OnlyWeft s t b i ∧ t.weft? b i = some w' ∧
      Applied w w' { (f3Part op f fx sem w).eff w with words := if fx.isSome then 2 else 1 } := by
  obtain ⟨t, ht, only, now⟩ := State.runPrep_untrapped (fun w => (⟨f3Needs op f fx w,
    { (f3Part op f fx sem w).eff w with words := if fx.isSome then 2 else 1 }⟩ : Prep)) h hn
  refine ⟨t, _, ht, only, now, Weft.apply_spec w _ _ hn (Part.eff_nodup _ w) (Part.eff_lt _ w) ?_⟩
  intro e he y hy
  rw [Part.eff_lanes] at he
  obtain ⟨l, -, rfl⟩ := List.mem_map.mp he
  exact h7 _ (Part.predsOf_mem _ _ hy)

/-- An operation without exceptions raises no arithmetic trap, whatever is enabled. -/
theorem arithTrap_nil (flags : W64) (opc : Nat) (half : Bool) : arithTrap flags opc half [] = none := by
  simp [arithTrap, Exc.all]

/-- Without failed marks an operation that raises no exception stops no lane, whatever is enabled (R96, R217). -/
theorem Part.cause_quiet (x : Part) {w : Weft} (hf : w.failed = []) (l : Nat) {o : LaneOut} (ho : o.exc = []) :
    x.cause w l o = none := by
  have hm : (x.uses l).flatMap (fun u => x.fields.flatMap (fun r => r.marks w u)) = [] := by simp [marks_nil w hf]
  unfold Part.cause
  rw [hm, ho, arithTrap_nil, ite_self]
  rfl

theorem Part.eff_quiet (x : Part) {w : Weft} (hf : w.failed = []) (hx : ∀ l, (x.out l).exc = []) :
    ∀ e ∈ (x.eff w).lanes, e.cause = none := by
  rw [Part.eff_lanes]
  intro e he
  obtain ⟨l, -, rfl⟩ := List.mem_map.mp he
  exact x.cause_quiet hf l (hx l)

/-! ## What a word of one operation leaves in its weft -/

theorem find?_lane_pairs {β : Type} (g : Nat → β) (ls : List Nat) (l : Nat) (h : l ∈ ls) :
    (ls.map (fun k => (k, g k))).find? (fun e => e.1 == l) = some (l, g l) := by
  induction ls with
  | nil => simp at h
  | cons k ks ih =>
    by_cases e : k = l
    · simp [e]
    · have hk : l ∈ ks := (List.mem_cons.mp h).resolve_left (Ne.symm e)
      simp [e, ih hk]

/-- The push of an operation with a v register for its destination. -/
theorem Part.eff_pushes_v (x : Part) (w : Weft) (hd : x.dk = .v) : (x.eff w).pushes =
    [⟨x.dst, false, x.nwb, (laneList w.width x.act).map (fun l => (l, low32 (x.out l).val))⟩] := by
  simp only [Part.eff, hd, List.map_map]
  rfl

/-- The newest latch entry of a word that pushes one value into a v register's entry, in an acting lane (R23). -/
theorem Part.applied_latch {x : Part} {w w' : Weft} {eff : Eff} {g : Guard} (h : Applied w w' eff)
    (hp : eff.pushes = (x.eff w).pushes) (hd : x.dk = .v) (ha : x.act = w.act g) {l : Nat} (hl : Acts w g l) :
    w'.latchVal 0 l = low32 (x.out l).val := by
  have hm : l ∈ laneList w.width x.act := ha ▸ acts_iff.mp hl
  have hhead : w'.latches[0]? = some (w.entryOf w.pc
      ⟨x.dst, false, x.nwb, (laneList w.width x.act).map (fun l => (l, low32 (x.out l).val))⟩) := by
    rw [h.latches, hp, x.eff_pushes_v w hd]
    rfl
  rw [Weft.latchVal, hhead, Option.map_some, Option.getD_some, entryOf_get _ _ _ _ ⟨hl.1, acts_bundle hl⟩,
    find?_lane_pairs _ _ _ hm]
  rfl

/-- An operation with a v register for its destination leaves a 32-bit result (R21, R23). -/
theorem Part.applied_result32 {x : Part} {w w' : Weft} {eff : Eff} {g : Guard} (h : Applied w w' eff)
    (he : eff.lanes = (x.eff w).lanes) (hp : eff.pushes = (x.eff w).pushes) (hd : x.dk = .v) (ha : x.act = w.act g) :
    Result32 w w' g x.dst x.nwb (fun l => (x.out l).val.setWidth 32) := by
  intro l hl
  refine ⟨?_, Part.applied_latch h hp hd ha hl⟩
  have hact : l < w.width ∧ x.act.getLsbD l = true := ha ▸ hl
  rw [Part.applied_v h he _ _ (acts_lt64 hl), if_pos hact]
  cases hnwb : x.nwb <;> simp [Part.regsOf, hnwb, hd, lastV]

/-- An operation whose one predicate is its carry leaves the carry there (R13, R104). -/
theorem Part.applied_carry {x : Part} {w w' : Weft} {eff : Eff} {g : Guard} {k : Nat} (h : Applied w w' eff)
    (he : eff.lanes = (x.eff w).lanes) (hd : x.dk = .v) (hc : x.carry = some k) (ha : x.act = w.act g) :
    ResultP w w' g k (fun l => (x.out l).pv) := by
  constructor
  · intro l hl
    have hact : l < w.width ∧ x.act.getLsbD l = true := ha ▸ hl
    rw [Part.applied_p h he _ _ (acts_lt64 hl), if_pos hact]
    simp [Part.predsOf, hd, hc, lastP]
  · intro l hl hoff
    rw [Part.applied_p h he _ _ hl, ha, hoff]
    simp

/-- The lanes of the bundle go on by the words of the instruction. -/
theorem Applied.moved {w w' : Weft} {eff : Eff} (h : Applied w w' eff) : Moved w w' (8 * eff.words) := by
  intro l hl hb
  have key := h.lane l hl
  rw [if_pos hb] at key
  exact congrArg Lane.pc key

/-! ## The carry words -/

@[simp] theorem LaneOut.v32_setWidth (x : W32) : (LaneOut.v32 x).val.setWidth 32 = x := by
  simp [LaneOut.v32]

/-- A word that takes and gives a carry, and raises no exception: its v register, its carry predicate and its program counters
afterwards. -/
theorem carryWord_goes {op : F3Op} {f : F3} {out : WordIn → Nat → LaneOut} {val : Nat → W32} {pv : Nat → Bool} {s : State}
    {b i : Nat} {bd : Band} {w : Weft} (hd : op.info.dst = .v) (hx : op.info.ext = .carry)
    (ho : ∀ l, out (f3In op f none w) l = { LaneOut.v32 (val l) with pv := pv l }) (h7 : f.ext.val < 7)
    (h : Issues s b i bd w (f3Needs op f none w)) (hf : w.failed = []) :
    ∃ t, runF3With op f none (Sem.lanewise out) s = .next t ∧ OnlyWeft s t b i ∧ Now t b i (fun w' =>
      Result32 w w' f.guard f.dst.val f.nwb val ∧ ResultP w w' f.guard f.ext.val pv ∧ Moved w w' 8) := by
  have hout : (f3Part op f none (Sem.lanewise out) w).out = fun l => { LaneOut.v32 (val l) with pv := pv l } := funext ho
  have hdk : (f3Part op f none (Sem.lanewise out) w).dk = .v := by simp [f3Part, F3.dstKind, dstKindOf, hd]
  have hcarry : (f3Part op f none (Sem.lanewise out) w).carry = some f.ext.val := by
    simp [f3Part, hx, Nat.mod_eq_of_lt (Nat.lt_succ_of_lt h7)]
  have hpred : ∀ r ∈ (f3Part op f none (Sem.lanewise out) w).predDsts, r ≠ 7 := by
    simp only [Part.predDsts, hdk, hcarry, List.nil_append, Option.toList_some, List.mem_singleton, forall_eq]
    exact Nat.ne_of_lt h7
  have hquiet := Part.eff_quiet (f3Part op f none (Sem.lanewise out) w) hf (fun l => by rw [hout]; rfl)
  obtain ⟨t, w', ht, only, now, ap⟩ := runF3With_untrapped h hquiet hpred
  have hres := Part.applied_result32 ap rfl rfl hdk rfl
  have hcar := Part.applied_carry ap rfl hdk hcarry rfl
  simp only [hout, LaneOut.v32_setWidth] at hres hcar
  exact ⟨t, ht, only, w', now, hres, hcar, ap.moved⟩

theorem carryIn_of_lt {x : WordIn} (h : x.f.ext.val < 7) (l : Nat) : x.carryIn l = (x.w.pget x.f.ext.val).getLsbD l := by
  rw [WordIn.carryIn, Nat.mod_eq_of_lt (Nat.lt_succ_of_lt h)]

/-- IADDC in a lane, its carry read from the predicate that ext names (R104). -/
theorem iaddcOut_of_lt {x : WordIn} (h : x.f.ext.val < 7) (l : Nat) : iaddcOut x l =
    let t := (x.a32 l).toNat + (x.b32 l).toNat + ((x.w.pget x.f.ext.val).getLsbD l).toNat
    { LaneOut.v32 (BitVec.ofNat 32 t) with pv := decide (2 ^ 32 ≤ t) } := by
  rw [iaddcOut, carryIn_of_lt h]

/-- ISUBB in a lane, its borrow read from the predicate that ext names (R104). -/
theorem isubbOut_of_lt {x : WordIn} (h : x.f.ext.val < 7) (l : Nat) : isubbOut x l =
    let t : Int := (x.a32 l).toNat - (x.b32 l).toNat - ((x.w.pget x.f.ext.val).getLsbD l).toNat
    { LaneOut.v32 (BitVec.ofInt 32 t) with pv := decide (t < 0) } := by
  rw [isubbOut, carryIn_of_lt h]

/-- Settles O4: both words go by `carryWord_goes`, with no condition on the enabled exceptions since they raise none; a reserved
carry field is refused at decode by `decodeWords_carry_reserved`. -/
theorem carryWords : Obligations.CarryWords := by
  refine ⟨?_, ?_⟩
  · rintro w - (hop | hop) hr
    · exact decodeWords_carry_reserved hop rfl rfl rfl hr
    · exact decodeWords_carry_reserved hop rfl rfl rfl hr
  · intro sub f s b i bd w h7 op x k sum diff h hf
    cases sub with
    | false => exact carryWord_goes (out := iaddcOut) rfl rfl (iaddcOut_of_lt h7) h7 h hf
    | true => exact carryWord_goes (out := isubbOut) rfl rfl (isubbOut_of_lt h7) h7 h hf

end Sys2Proof.Machine
end

section
/-! PROOFS. R131, R94: the class of an FP32 number by its fields; a lane word with a v register for its destination that raises no
exception in any lane, whatever exceptions are enabled, and leaves the flags as they were. From these, FCLASS. -/
namespace Sys2Proof.Machine
open Sys2Proof.Safety Sys2Proof.Claims

/-! ## The class of an FP32 number -/

/-- The top bit of an FP32 encoding is its sign (R77). -/
theorem getLsbD_31_eq (a : W32) : (a.toNat / 2 ^ 31 % 2 == 1) = a.getLsbD 31 := by
  rw [BitVec.getLsbD, Nat.testBit_eq_decide_div_mod_eq]
  rfl

/-- The top fraction bit of an FP32 encoding says whether its fraction lies in the upper half: a NaN there is quiet (R80). -/
theorem fraction_lt_half_iff (a : W32) : decide (a.toNat % 2 ^ 23 < 2 ^ 22) = !a.getLsbD 22 := by
  rw [BitVec.getLsbD, Nat.testBit_eq_decide_div_mod_eq, ← decide_not, decide_eq_decide]
  omega

/-- What an FP32 encoding stands for, by its exponent field (R77, R80). -/
theorem unpack_f32 (a : W32) : FInfo.f32.unpack a.toNat =
    if a.toNat / 2 ^ 23 % 256 = 255 then
      if a.toNat % 2 ^ 23 = 0 then .inf (a.getLsbD 31) else .nan !a.getLsbD 22
    else if a.toNat / 2 ^ 23 % 256 = 0 then .fin ⟨a.getLsbD 31, a.toNat % 2 ^ 23, FInfo.f32.emin - 23, false⟩
    else .fin ⟨a.getLsbD 31, 2 ^ 23 + a.toNat % 2 ^ 23, ((a.toNat / 2 ^ 23 % 256 : Nat) : Int) - 127 - 23, false⟩ := by
  rw [← getLsbD_31_eq, ← fraction_lt_half_iff]
  by_cases he : a.toNat / 2 ^ 23 % 256 = 255
  · rw [if_pos he]
    exact if_pos ⟨rfl, he⟩
  · rw [if_neg he]
    exact (if_neg fun h => he h.2).trans (if_neg fun h => nomatch h.1)

/-- FCLASS sets the bit of its operand's class and no other (R131). -/
theorem fclass_eq_shiftLeft_classBit (a : W32) : fclass a.toNat = 1#32 <<< classBit a := by
  have hm : a.toNat % 2 ^ 23 < 2 ^ 23 := Nat.mod_lt _ (by decide)
  simp only [fclass, classBit, unpack_f32]
  generalize a.toNat / 2 ^ 23 % 256 = e, a.toNat % 2 ^ 23 = m, a.getLsbD 31 = neg, a.getLsbD 22 = quiet at hm ⊢
  by_cases he : e = 255
  · by_cases hz : m = 0
    · cases neg <;> simp [he, hz]
    · cases quiet <;> simp [he, hz]
  · by_cases hsub : e = 0
    · by_cases hz : m = 0
      · cases neg <;> simp [hsub, hz]
      · cases neg <;> simpa [hsub, hz] using hm
    · cases neg <;> simp [he, hsub]

/-- The bit of a class is one of [9:0] (R131). -/
theorem classBit_lt (a : W32) : classBit a < 10 := by
  simp only [classBit]
  repeat' split
  all_goals decide

/-! ## Words that raise no exception -/

/-- A word that raises no exception in any lane leaves the flags as they were (R94). -/
theorem Applied.flags_quiet {w w' : Weft} {eff : Eff} (h : Applied w w' eff) (hx : ∀ e ∈ eff.lanes, e.exc = 0) :
    w'.flags = w.flags := by
  rw [h.flags]
  refine List.foldlRecOn eff.lanes _ (motive := fun x => x = w.flags) rfl fun x hw e he => ?_
  simp [laneFlags, hx e he, hw]

theorem Part.eff_exc_quiet (x : Part) (w : Weft) (hx : ∀ l, (x.out l).exc = []) : ∀ e ∈ (x.eff w).lanes, e.exc = 0 := by
  rw [Part.eff_lanes]
  intro e he
  obtain ⟨l, -, rfl⟩ := List.mem_map.mp he
  simp [Part.laneEff, hx, Exc.all]

/-- A word that gives a 32-bit value in each lane and raises no exception: its v register, its program counters and its flags
afterwards, whatever exceptions are enabled. -/
theorem quietWord_goes {op : F3Op} {f : F3} {out : WordIn → Nat → LaneOut} {val : Nat → W32} {s : State} {b i : Nat} {bd : Band}
    {w : Weft} (hd : op.info.dst = .v) (hx : op.info.ext ≠ .carry)
    (ho : ∀ l, out (f3In op f none w) l = LaneOut.v32 (val l))
    (h : Issues s b i bd w (f3Needs op f none w)) (hf : w.failed = []) :
    ∃ t, runF3With op f none (Sem.lanewise out) s = .next t ∧ OnlyWeft s t b i ∧ Now t b i (fun w' =>
      Moved w w' 8 ∧ w'.flags = w.flags ∧ Result32 w w' f.guard f.dst.val f.nwb val) := by
  have hout : (f3Part op f none (Sem.lanewise out) w).out = fun l => LaneOut.v32 (val l) := funext ho
  have hdk : (f3Part op f none (Sem.lanewise out) w).dk = .v := by simp [f3Part, F3.dstKind, dstKindOf, hd]
  have hpred : (f3Part op f none (Sem.lanewise out) w).predDsts = [] := by
    simp only [Part.predDsts, hdk]
    simp [f3Part, hx]
  have hexc : ∀ l, ((f3Part op f none (Sem.lanewise out) w).out l).exc = [] := fun l => by rw [hout]; rfl
  obtain ⟨t, w', ht, only, now, ap⟩ := runF3With_untrapped h (Part.eff_quiet _ hf hexc) (by simp [hpred])
  have hres := Part.applied_result32 ap rfl rfl hdk rfl
  simp only [hout, LaneOut.v32_setWidth] at hres
  exact ⟨t, ht, only, w', now, ap.moved, ap.flags_quiet (Part.eff_exc_quiet _ w hexc), hres⟩

/-- Settles O59: FCLASS gives the bit of its operand's class by `fclass_eq_shiftLeft_classBit`, one below 10 by `classBit_lt`, and
goes by `quietWord_goes`, with no condition on the enabled exceptions since it raises none. -/
theorem fclassWord : Obligations.FclassWord := by
  refine ⟨classBit_lt, fun f s b i bd w h hf => ?_⟩
  have hout : ∀ l, fclassOut (f3In .fclass f none w) l =
      LaneOut.v32 (1#32 <<< classBit ((f3In .fclass f none w).a32 l)) := fun l =>
    congrArg LaneOut.v32 (fclass_eq_shiftLeft_classBit _)
  exact quietWord_goes (out := fclassOut) rfl (by decide) hout h hf

end Sys2Proof.Machine
end

section
/-! PROOFS. R152, R153: the vote of the contributing lanes; what a lane word that raises no exception leaves in the predicate that is
its destination, whatever exceptions are enabled; the ext and dst fields of a VOTE at decode. From these, VOTE. -/
namespace Sys2Proof
open Sys2Proof.Machine

/-! ## The ext and dst fields at decode -/

/-- The modes 3 to 7 and a nonzero [22:21] are reserved (R153). -/
theorem extBad_vote {w : Nat} (h : bits w 22 21 ≠ 0 ∨ 3 ≤ bits w 20 18) (p : Nat) : extBad .vote p w ≠ [] := by
  rcases h with h | h
  · simp [extBad, mbz_ne_nil h]
  · simp [extBad, rsv, Nat.not_lt.mpr h]

/-- A predicate destination names p0 to p6 (R21). -/
theorem dstBad_pred {w : Nat} (h : 7 ≤ bits w 53 46) : dstBad .p w ≠ [] := by
  simp [dstBad, dstBelow, rsv, Nat.not_lt.mpr h]

theorem F3.dstKind_pred {op : F3Op} (hd : op.info.dst = .p) (f : F3) : f.dstKind op = .p := by
  simp [F3.dstKind, dstKindOf, hd]

/-- A reserved destination offends in an F3 word with a predicate destination. -/
theorem f3Bad_of_dstBad {op : F3Op} {w : Nat} (hd : op.info.dst = .p) (h : dstBad .p w ≠ []) : f3Bad op w ≠ [] := by
  simp [f3Bad, hd, F3.dstKind_pred hd, h]

/-- A VOTE word with a reserved ext or dst field is refused. -/
theorem decodeWords_vote_reserved {w : Nat} (hop : bits w 63 54 = 0x0A2)
    (h : bits w 22 21 ≠ 0 ∨ 3 ≤ bits w 20 18 ∨ 7 ≤ bits w 53 46) : ∃ r d, decodeWords [w] = .bad r d := by
  rw [decodeWords_f3 (op := .vote) hop]
  refine Dec.of_bad w ?_ _ _
  rw [← or_assoc] at h
  rcases h with hext | hdst
  · exact f3Bad_of_extBad rfl rfl (extBad_vote hext)
  · exact f3Bad_of_dstBad rfl (dstBad_pred hdst)

/-- A well-formed VOTE has one of the modes 0 to 2. -/
theorem F3.mode_lt_of_ok_vote {f : F3} (h : F3.ok .vote f = true) : f.ext.val < 3 := by
  simp only [F3.ok, modOk, Bool.and_eq_true] at h
  obtain ⟨⟨⟨⟨⟨-, hmod⟩, -⟩, -⟩, -⟩, -⟩ := h
  rw [if_pos (by rfl)] at hmod
  simp only [Bool.and_eq_true] at hmod
  exact of_decide_eq_true hmod.2

/-- A well-formed F3 word with a predicate destination does not name p7. -/
theorem F3.dst_lt_of_ok_pred {op : F3Op} {f : F3} (hd : op.info.dst = .p) (h : F3.ok op f = true) : f.dst.val < 7 := by
  simp only [F3.ok, F3.dstKind_pred hd, dstOk, Bool.and_eq_true, decide_eq_true_eq] at h
  obtain ⟨⟨⟨⟨-, hdst, -⟩, -⟩, -⟩, -⟩ := h
  exact hdst

end Sys2Proof

namespace Sys2Proof.Machine
open Sys2Proof.Safety Sys2Proof.Claims

/-! ## Words with a predicate for their destination -/

/-- An operation with a predicate for its destination and no carry leaves its predicate there (R13). -/
theorem Part.applied_pred {x : Part} {w w' : Weft} {eff : Eff} {g : Guard} (h : Applied w w' eff)
    (he : eff.lanes = (x.eff w).lanes) (hd : x.dk = .p) (hc : x.carry = none) (ha : x.act = w.act g) :
    ResultP w w' g x.dst (fun l => (x.out l).pv) := by
  constructor
  · intro l hl
    have hact : l < w.width ∧ x.act.getLsbD l = true := ha ▸ hl
    rw [Part.applied_p h he _ _ (acts_lt64 hl), if_pos hact]
    simp [Part.predsOf, hd, hc, lastP]
  · intro l hl hoff
    rw [Part.applied_p h he _ _ hl, ha, hoff]
    simp

/-- A word that gives a predicate in each lane and raises no exception: its predicate and its program counters afterwards, whatever
exceptions are enabled. -/
theorem predWord_goes {op : F3Op} {f : F3} {out : WordIn → Nat → LaneOut} {s : State} {b i : Nat} {bd : Band} {w : Weft}
    (hd : op.info.dst = .p) (hx : op.info.ext ≠ .carry) (ho : ∀ l, (out (f3In op f none w) l).exc = [])
    (h7 : f.dst.val < 7) (h : Issues s b i bd w (f3Needs op f none w)) (hf : w.failed = []) :
    ∃ t, runF3With op f none (Sem.lanewise out) s = .next t ∧ OnlyWeft s t b i ∧ Now t b i (fun w' =>
      Moved w w' 8 ∧ ResultP w w' f.guard f.dst.val (fun l => (out (f3In op f none w) l).pv)) := by
  have hdk : (f3Part op f none (Sem.lanewise out) w).dk = .p := F3.dstKind_pred hd f
  have hcarry : (f3Part op f none (Sem.lanewise out) w).carry = none := by simp [f3Part, hx]
  have hpred : ∀ r ∈ (f3Part op f none (Sem.lanewise out) w).predDsts, r ≠ 7 := by
    simp only [Part.predDsts, hdk, hcarry, Option.toList_none, List.append_nil, List.mem_singleton, forall_eq]
    exact Nat.ne_of_lt h7
  obtain ⟨t, w', ht, only, now, ap⟩ := runF3With_untrapped h
    (Part.eff_quiet (f3Part op f none (Sem.lanewise out) w) hf ho) hpred
  exact ⟨t, ht, only, w', now, ap.moved, Part.applied_pred ap rfl hdk hcarry rfl⟩

/-! ## The vote -/

theorem WordIn.pred_eq_predOf (x : WordIn) (a : Src) : x.pred a = predOf x.w a := by cases a <;> rfl

/-- The uniform vote: all true or all false says that no two lanes differ. -/
theorem all_or_all_not_iff {α : Type} (ls : List α) (p : α → Bool) :
    ((∀ k ∈ ls, p k = true) ∨ ∀ k ∈ ls, p k = false) ↔ ∀ k ∈ ls, ∀ j ∈ ls, p k = p j := by
  constructor
  · rintro (h | h) k hk j hj <;> rw [h k hk, h j hj]
  · intro h
    by_cases hex : ∃ j ∈ ls, p j = true
    · obtain ⟨j, hj, hpj⟩ := hex
      exact .inl fun k hk => (h k hk j hj).trans hpj
    · exact .inr fun k hk => Bool.eq_false_iff.mpr fun hpk => hex ⟨k, hk, hpk⟩

/-- What VOTE gives in a lane, by mode (R153). -/
theorem voteOut_pv_iff {x : WordIn} (h : x.f.ext.val < 3) (l : Nat) : (voteOut x l).pv = true ↔
    (x.f.ext.val = 0 → ∀ k ∈ x.contrib, predOf x.w x.f.a k = true) ∧
    (x.f.ext.val = 1 → ∃ k ∈ x.contrib, predOf x.w x.f.a k = true) ∧
    (x.f.ext.val = 2 → ∀ k ∈ x.contrib, ∀ j ∈ x.contrib, predOf x.w x.f.a k = predOf x.w x.f.a j) := by
  simp only [voteOut, WordIn.pred_eq_predOf]
  obtain hm | hm | hm : x.f.ext.val = 0 ∨ x.f.ext.val = 1 ∨ x.f.ext.val = 2 := by omega
  · simp [hm]
  · simp [hm]
  · simp [hm, all_or_all_not_iff]

/-- Settles O60: the vote is read off by `voteOut_pv_iff` and goes by `predWord_goes`, with no condition on the enabled exceptions
since it raises none; a reserved field is refused at decode by `decodeWords_vote_reserved`. -/
theorem voteWord : Obligations.VoteWord := by
  refine ⟨fun w _ hop hr => decodeWords_vote_reserved hop hr, ?_⟩
  intro f s b i bd w hok h hf _ _
  have hexc : ∀ l, (voteOut (f3In .vote f none w) l).exc = [] := fun _ => rfl
  obtain ⟨t, ht, only, w', now, moved, hact, hkeep⟩ :=
    predWord_goes rfl (by decide) hexc (F3.dst_lt_of_ok_pred rfl hok) h hf
  refine ⟨t, ht, only, w', now, moved, fun l hl => ?_, hkeep⟩
  rw [hact l hl]
  exact voteOut_pv_iff (x := f3In .vote f none w) (F3.mode_lt_of_ok_vote hok) l

end Sys2Proof.Machine
end
